-- ==== Sys2Proof/Word.lean ====
section
/-!
DEFINITION. The word types of the Flaern F4 (R3): byte, half, word and doubleword, with the names of
the small register numbers. Everything that a repair might touch (bit fields, extensions, byte order)
stands in Sys2Proof/Machine/Bits.lean.
-/

namespace Sys2Proof

/-- One byte of memory, scratchpad or a link (R2). -/
abbrev Byte := BitVec 8
/-- 16 bits. -/
abbrev Half := BitVec 16
/-- 32 bits (R3). -/
abbrev Word := BitVec 32
/-- 64 bits (R3). -/
abbrev Dword := BitVec 64

/-- A scalar register number s0-s31 (R29). -/
abbrev SReg := BitVec 5
/-- A vector register number v0-v31 (R29). -/
abbrev VReg := BitVec 5
/-- A predicate number p0-p7 (R29). -/
abbrev PReg := BitVec 3
/-- A mask register number m0-m7 (R29). -/
abbrev MReg := BitVec 3
/-- A branch register number b0-b7 (R29). -/
abbrev BReg := BitVec 3
/-- An accumulator tile number (R29); 96-127 are refused by `WellFormed`. -/
abbrev TileNo := BitVec 7
/-- A transfer channel 0-3 (R245). -/
abbrev Chan := BitVec 2
/-- A system register number (R38). -/
abbrev SysNum := BitVec 12
/-- KLEN of a product word's literal (R226). -/
abbrev KLen := BitVec 14
/-- The scope field of a Y word (R271). -/
abbrev Scope3 := BitVec 3
/-- A package number of the domain (R25). -/
abbrev Pkg := BitVec 10
/-- An address space (R42). -/
abbrev Asid := BitVec 12

end Sys2Proof
end

