-- ==== Sys2Proof/Machine/Bits.lean ====
section
/-!
DEFINITION. Bit fields, byte order (R2) and packed elements (R66, R183): the plain helpers that every family uses.
-/

namespace Sys2Proof

/-- A byte list, lowest address first, as a number: little-endian (R2). -/
def leNat : List Byte → Nat
  | [] => 0
  | b :: bs => b.toNat + 256 * leNat bs

/-- The n low bytes of a number, lowest first (R2). -/
def natBytes : Nat → Nat → List Byte
  | 0, _ => []
  | n + 1, x => BitVec.ofNat 8 x :: natBytes n (x / 256)

/-- Bits [lo + w - 1 : lo] of a number. -/
def natField (x lo w : Nat) : Nat := (x >>> lo) % 2 ^ w

/-- The number whose i-th w-bit field is `f i`, for i below n (R2). -/
def packNat (w : Nat) (f : Nat → Nat) : Nat → Nat
  | 0 => 0
  | n + 1 => packNat w f n ||| ((f n % 2 ^ w) <<< (w * n))

/-- Element i of width w of a register or tile (R2, R183). -/
def elem {n : Nat} (w : Nat) (x : BitVec n) (i : Nat) : BitVec w := x.extractLsb' (i * w) w

/-- A register or tile from its elements. -/
def pack {n : Nat} (w : Nat) (f : Nat → BitVec w) : BitVec n := BitVec.ofNat n (packNat w (fun i => (f i).toNat) (n / w))

/-- A register or tile with element i replaced. -/
def setElem {n : Nat} (w : Nat) (x : BitVec n) (i : Nat) (v : BitVec w) : BitVec n :=
  BitVec.ofNat n (x.toNat - ((x.toNat >>> (i * w)) % 2 ^ w) <<< (i * w) + v.toNat <<< (i * w))

/-- A bit string of width n from a test of each index. -/
def packBits {n : Nat} (f : Nat → Bool) : BitVec n := BitVec.ofNat n (packNat 1 (fun i => (f i).toNat) n)

/-- Bytes lo to lo + n - 1 of a bit string. -/
def bytesOf {w : Nat} (x : BitVec w) (lo n : Nat) : List Byte := natBytes n (x.toNat >>> (8 * lo))

/-- A bit string with the bytes of a list written from byte lo on. -/
def setBytes {w : Nat} (x : BitVec w) (lo : Nat) (l : List Byte) : BitVec w :=
  BitVec.ofNat w (x.toNat - (natField x.toNat (8 * lo) (8 * l.length)) <<< (8 * lo) + leNat l <<< (8 * lo))

/-- Rounds a number up to a multiple of k. -/
def roundUp (k x : Nat) : Nat := (x + k - 1) / k * k

/-- Quotient rounded up. -/
def ceilDiv (x k : Nat) : Nat := (x + k - 1) / k

/-- Number of leading zero bits of a w-bit number. -/
def clzNat (w x : Nat) : Nat := if x = 0 then w else w - 1 - Nat.log2 x

/-- Number of trailing zero bits among the low n bits. -/
def ctzNat : Nat → Nat → Nat
  | 0, _ => 0
  | n + 1, x => if x % 2 = 1 then 0 else 1 + ctzNat n (x / 2)

/-- Number of one bits among the low n bits. -/
def popcNat : Nat → Nat → Nat
  | 0, _ => 0
  | n + 1, x => x % 2 + popcNat n (x / 2)

/-- The list 0, 1, ..., n - 1. -/
abbrev upTo (n : Nat) : List Nat := List.range n

/-- Replace the element at an index of a list, if there is one. -/
def setAt {α : Type} : List α → Nat → α → List α
  | [], _, _ => []
  | _ :: xs, 0, y => y :: xs
  | x :: xs, n + 1, y => x :: setAt xs n y

/-- Split a list into pieces of n elements; `fuel` bounds their number. -/
def chunks {α : Type} (n : Nat) : Nat → List α → List (List α)
  | 0, _ => []
  | fuel + 1, l => if l.isEmpty then [] else l.take n :: chunks n fuel (l.drop n)

/-- Insert a number in a strictly rising list. -/
def insertNat (x : Nat) : List Nat → List Nat
  | [] => [x]
  | y :: ys => if x < y then x :: y :: ys else if x = y then y :: ys else y :: insertNat x ys

/-- A list of numbers is strictly rising. -/
def rising : List Nat → Bool
  | [] => true
  | [_] => true
  | x :: y :: ys => decide (x < y) && rising (y :: ys)

end Sys2Proof
end

