-- ==== Sys2Proof/Syntax.lean ====
section
/-!
DEFINITION. The instructions and events of the F4 as data: one inductive `Instr` with one constructor per row of
spec/opcode_table.json, and the operand types it needs. Encodings stand in Decode.lean, meanings in Machine/.
-/

namespace Sys2Proof

/-- The token bits [28:25] of a word (R27): pop forward, push forward, pop backward, push backward. -/
structure Tok where
  wf : Bool
  pf : Bool
  wb : Bool
  pb : Bool
deriving DecidableEq, Repr

/-- The engine field [31:29] of a word (R27). -/
inductive Engine where
  | S | L | M | V | W | N | Y | A
deriving DecidableEq, Repr

/-- The seven element types of the V engine's mod field (R47). -/
inductive VTy where
  | i8 | i16 | i32 | i64 | bf16 | fp16 | fp32
deriving DecidableEq, Repr

/-- The nine element types of the product words (R46). -/
inductive MTy where
  | bf16 | fp16 | fp8e4 | fp8e5 | fp6e2 | fp6e3 | fp4e2 | int8 | int4
deriving DecidableEq, Repr

/-- The format codes of a conversion literal (R200). -/
inductive NFmt where
  | int8 | int16 | int32 | int64 | bf16 | fp16 | fp32 | uint8 | uint16 | uint32 | uint64 | int4 | uint4
  | fp8e4 | fp8e5 | fp6e2 | fp6e3 | fp4e2
deriving DecidableEq, Repr

/-- Rounding modes (R73); codes 101-111 are reserved. -/
inductive RMode where
  | rne | rz | ru | rd | sr
deriving DecidableEq, Repr

/-- Scale granularity (R69). -/
inductive Gran where
  | none | b48 | row | tensor
deriving DecidableEq, Repr

/-- The operations of AMO and AMOS (R176). -/
inductive AmoOp where
  | add | and | or | xor | min | max | swap | cas
deriving DecidableEq, Repr

/-- The type and operation of VATOM (R181). -/
inductive VAtomOp where
  | i32add | i32min | i32max | fp32add | i64add | i64min | i64max
deriving DecidableEq, Repr

/-- The operations of VMLOG (R199). -/
inductive MLogOp where
  | and | or | xor | andn | not
deriving DecidableEq, Repr

/-- The peg field code of PEGSET and PEGRD (R375). -/
inductive PegField where
  | cnt | thr | act | opd
deriving DecidableEq, Repr

/-- The operations of NMAP (R382). -/
inductive MapOp where
  | page | asid | all
deriving DecidableEq, Repr

/-- The registration kinds of NREG and NREVOKE (R391). -/
inductive RegKind where
  | region | endpoint | object | connection
deriving DecidableEq, Repr

/-- The element types of a reduction (R316, R337). -/
inductive RedTy where
  | fp32 | bf16 | int32 | int64
deriving DecidableEq, Repr

/-- The operations of a reduction (R316, R337). -/
inductive RedOp where
  | add | min | max
deriving DecidableEq, Repr

/-- Names one transfer of one context (R245): the context's task number, the W or L side, the channel, the ID. -/
structure XferRef where
  c  : Nat
  w  : Bool
  ch : Chan
  id : Nat
deriving DecidableEq, Repr

/-- How a packet from Ultra Ethernet reached this package: the port, the initiator's fabric address, job and process, the target's process,
which is an ASID (R392), the mode, traffic class and packet sequence number of its transport context, and the number by which the
initiator's packets name their operation (R387, R388). -/
structure Via where
  port    : Nat
  fa      : BitVec 128
  job     : BitVec 24
  pid     : Half
  asid    : Asid
  ordered : Bool
  tc      : Nat
  op      : Nat
  psn     : Nat
deriving DecidableEq, Repr

/-- A message as it reaches the ingress (R351, R390): from the fabric or the host with its source, or as a tagged send with its way here, whose
source is then the alias of the receiver's endpoint entry for the sender. -/
structure Message where
  src     : Option Pkg
  tag     : Word
  coll    : Byte
  asid    : Asid
  gen     : Word
  off     : Word
  payload : List Byte
  poison  : List Bool
  via     : Option Via
deriving DecidableEq, Repr

/-- What a remote request asks of its target (R308). Poison bits go with the data. -/
inductive ReqKind where
  | read (len : Nat)
  | write (data : List Byte) (poison : Bool)
  | masked (runs : List (Nat × List Byte)) (poison : Bool)
  | atom (op : AmoOp) (opd cmp : Dword) (poison cmpPoison : Bool)
  | vatom (op : VAtomOp) (opd : Dword) (poison : Bool)
  | promote
  | demote
  | flagged (data : List Byte) (poison : Bool) (flag : BitVec 56) (flagKey : BitVec 7)
  | reduce (ty : RedTy) (op : RedOp) (data : List Byte) (poison : Bool)
  | increment
  | probe
deriving DecidableEq, Repr

/-- A request as it reaches the target's ingress (R309, R310): physical address and the key slot its translation named. -/
structure RemoteReq where
  src  : Pkg
  pa   : BitVec 56
  key  : BitVec 7
  kind : ReqKind
deriving DecidableEq, Repr

/-- The replies of R310, and the answer of a phaser's holder in another package (R273): a cause of R112 or 0, and the phase. -/
inductive Reply where
  | data (bytes : List Byte) (poison : Bool)
  | old (v : Dword) (poison : Bool)
  | accept
  | reject
  | mute (reason : BitVec 2)
  | phaser (cause : Byte) (ph : Dword)
deriving DecidableEq, Repr

/-- A tagged chunk of a collective (R338). -/
structure Chunk where
  src    : Pkg
  coll   : Byte
  node   : Nat
  gen    : Word
  data   : List Byte
  poison : List Bool
deriving DecidableEq, Repr

/-- What an incoming RMA operation asks (R384, R398, R399). -/
inductive RmaKind where
  | write (data : List Byte) (poison : List Bool)
  | read
  | add (opd : Dword)
  | cas (opd cmp : Dword)
deriving DecidableEq, Repr

/-- A packet of an incoming RMA operation (R392, R393): the whole operation's address and length, and the offset of the bytes that a write's
packet brings. -/
structure RmaReq where
  via   : Via
  key   : Word
  raddr : Dword
  len   : Nat
  off   : Nat
  kind  : RmaKind
deriving DecidableEq, Repr

/-- What reaches this package of an RMA operation of its own (R397 to R399): some bytes of a read, the rest of them with the acknowledgement,
or how else it ends. -/
inductive RmaEnd where
  | part (off : Nat) (data : List Byte) (poison : List Bool)
  | done (data : List Byte) (poison : List Bool)
  | gaveUp
  | violation (reason : BitVec 4)
deriving DecidableEq, Repr

/-- Why a packet was refused (R388, R389, R394). -/
inductive NakKind where
  | sequence (expected : Nat)
  | single
  | contextMiss
  | violation (reason : BitVec 4)
deriving DecidableEq, Repr

/-- A party of a phaser (R274): a context by task number, or a Harius thread, of a package. -/
structure Party where
  pkg    : Pkg
  thread : Bool
  id     : Nat
deriving DecidableEq, Repr

/-- What reaches a phaser's holder (R273, R275 to R277, R299). -/
inductive PhaserEv where
  | register (mode : BitVec 2)
  | drop
  | signal
  | next
  | expect (n : Dword)
  | arrive (n : Nat)
  | wait
  | query
  | overrun
deriving DecidableEq, Repr

/-- An event reaching a phaser's holder (R273): scope code, scope instance, number, the party's ASID, the party. -/
structure PhaserMsg where
  scope : Scope3
  at_   : Nat
  num   : Half
  asid  : Asid
  party : Party
  ev    : PhaserEv
deriving DecidableEq, Repr


/-- What the own end of a link has trained, as its digest names it: lanes, speed and map (R329). -/
structure LinkPhy where
  lanes : Byte
  speed : Byte
  map : Word
deriving DecidableEq, Repr

/-- A time that a PTP exchange brings: the port and the domain that it came over, and nanoseconds (R385, R386). -/
structure PtpTime where
  port : Nat
  domain : Byte
  ns : Dword
deriving DecidableEq, Repr

/-- One constructor per row of spec/opcode_table.json: the words of the eight engines (02 R44 to R50), then the
events of the package (95_what_each_step_holds.md). A word's fields are decoded; an event carries what
arrives from outside or which object it happens to (DESIGN CHOICE, log 44). -/
inductive Instr where
  -- S words (R44)
  /-- Adds two scalar registers modulo 2^64. (R130) -/
  | add (t : Tok) (d : SReg) (a : SReg) (b : SReg)
  /-- Subtracts one scalar register from another modulo 2^64. (R130) -/
  | sub (t : Tok) (d : SReg) (a : SReg) (b : SReg)
  /-- Bitwise AND of two scalar registers. (R130) -/
  | and (t : Tok) (d : SReg) (a : SReg) (b : SReg)
  /-- Bitwise OR of two scalar registers. (R130) -/
  | or (t : Tok) (d : SReg) (a : SReg) (b : SReg)
  /-- Bitwise XOR of two scalar registers. (R130) -/
  | xor (t : Tok) (d : SReg) (a : SReg) (b : SReg)
  /-- Bitwise AND of sA with the complement of sB. (R130) -/
  | andn (t : Tok) (d : SReg) (a : SReg) (b : SReg)
  /-- Shifts sA left by sB[5:0], zeros in. (R131) -/
  | shl (t : Tok) (d : SReg) (a : SReg) (b : SReg)
  /-- Shifts sA right logically by sB[5:0]. (R131) -/
  | shrl (t : Tok) (d : SReg) (a : SReg) (b : SReg)
  /-- Shifts sA right arithmetically by sB[5:0]. (R131) -/
  | shra (t : Tok) (d : SReg) (a : SReg) (b : SReg)
  /-- Rotates sA right by sB[5:0]. (R131) -/
  | rotr (t : Tok) (d : SReg) (a : SReg) (b : SReg)
  /-- Signed minimum of two scalar registers. (R130) -/
  | min (t : Tok) (d : SReg) (a : SReg) (b : SReg)
  /-- Signed maximum of two scalar registers. (R130) -/
  | max (t : Tok) (d : SReg) (a : SReg) (b : SReg)
  /-- Unsigned minimum of two scalar registers. (R130) -/
  | minu (t : Tok) (d : SReg) (a : SReg) (b : SReg)
  /-- Unsigned maximum of two scalar registers. (R130) -/
  | maxu (t : Tok) (d : SReg) (a : SReg) (b : SReg)
  /-- Counts leading zero bits of sA. (R132) -/
  | clz (t : Tok) (d : SReg) (a : SReg)
  /-- Counts trailing zero bits of sA. (R132) -/
  | ctz (t : Tok) (d : SReg) (a : SReg)
  /-- Counts one bits of sA. (R132) -/
  | popc (t : Tok) (d : SReg) (a : SReg)
  /-- Low 64 bits of the product of two scalar registers. (R133) -/
  | mul (t : Tok) (d : SReg) (a : SReg) (b : SReg)
  /-- High 64 bits of the signed 128-bit product. (R133) -/
  | mulh (t : Tok) (d : SReg) (a : SReg) (b : SReg)
  /-- High 64 bits of the unsigned 128-bit product. (R133) -/
  | mulhu (t : Tok) (d : SReg) (a : SReg) (b : SReg)
  /-- Signed division truncated toward zero, with fixed results for zero and overflow. (R134) -/
  | div (t : Tok) (d : SReg) (a : SReg) (b : SReg)
  /-- Unsigned division. (R134) -/
  | divu (t : Tok) (d : SReg) (a : SReg) (b : SReg)
  /-- Signed remainder. (R134) -/
  | rem (t : Tok) (d : SReg) (a : SReg) (b : SReg)
  /-- Unsigned remainder. (R134) -/
  | remu (t : Tok) (d : SReg) (a : SReg) (b : SReg)
  /-- Selects sA or sB into sD under a predicate. (R135) -/
  | sel (t : Tok) (d : SReg) (a : SReg) (b : SReg) (p : PReg)
  /-- Adds a sign-extended 13-bit immediate to sD. (R136) -/
  | addi (t : Tok) (d : SReg) (imm : BitVec 13)
  /-- ANDs sD with a sign-extended immediate. (R136) -/
  | andi (t : Tok) (d : SReg) (imm : BitVec 13)
  /-- ORs sD with a zero-extended immediate. (R136) -/
  | ori (t : Tok) (d : SReg) (imm : BitVec 13)
  /-- XORs sD with a zero-extended immediate. (R136) -/
  | xori (t : Tok) (d : SReg) (imm : BitVec 13)
  /-- Shifts sD left by an immediate count. (R136) -/
  | shli (t : Tok) (d : SReg) (c : BitVec 6)
  /-- Shifts sD right logically by an immediate count. (R136) -/
  | shrli (t : Tok) (d : SReg) (c : BitVec 6)
  /-- Shifts sD right arithmetically by an immediate count. (R136) -/
  | shrai (t : Tok) (d : SReg) (c : BitVec 6)
  /-- Loads a sign-extended immediate into sD, clean. (R136) -/
  | movi (t : Tok) (d : SReg) (imm : BitVec 13)
  /-- Loads a sign-extended 32-bit literal into sD. (R137) -/
  | movw (t : Tok) (d : SReg) (lit : Word)
  /-- Writes a 32-bit literal into bits 63:32 of sD. (R137) -/
  | movhw (t : Tok) (d : SReg) (lit : Word)
  /-- Sets a predicate when two scalars are equal. (R138) -/
  | cmpeq (t : Tok) (d : PReg) (a : SReg) (b : SReg)
  /-- Sets a predicate when two scalars differ. (R138) -/
  | cmpne (t : Tok) (d : PReg) (a : SReg) (b : SReg)
  /-- Signed less-than compare into a predicate. (R138) -/
  | cmplt (t : Tok) (d : PReg) (a : SReg) (b : SReg)
  /-- Signed less-or-equal compare into a predicate. (R138) -/
  | cmple (t : Tok) (d : PReg) (a : SReg) (b : SReg)
  /-- Unsigned less-than compare into a predicate. (R138) -/
  | cmpltu (t : Tok) (d : PReg) (a : SReg) (b : SReg)
  /-- Unsigned less-or-equal compare into a predicate. (R138) -/
  | cmpleu (t : Tok) (d : PReg) (a : SReg) (b : SReg)
  /-- AND of two predicates. (R139) -/
  | pand (t : Tok) (d : PReg) (a : PReg) (b : PReg)
  /-- OR of two predicates. (R139) -/
  | por (t : Tok) (d : PReg) (a : PReg) (b : PReg)
  /-- XOR of two predicates. (R139) -/
  | pxor (t : Tok) (d : PReg) (a : PReg) (b : PReg)
  /-- pA AND NOT pB. (R139) -/
  | pandn (t : Tok) (d : PReg) (a : PReg) (b : PReg)
  /-- fp32 addition rounded by RNE. (R141) -/
  | fadd (t : Tok) (d : SReg) (a : SReg) (b : SReg)
  /-- fp32 subtraction rounded by RNE. (R141) -/
  | fsub (t : Tok) (d : SReg) (a : SReg) (b : SReg)
  /-- fp32 multiplication rounded by RNE. (R141) -/
  | fmul (t : Tok) (d : SReg) (a : SReg) (b : SReg)
  /-- fp32 division on the shared fp divider. (R141) -/
  | fdiv (t : Tok) (d : SReg) (a : SReg) (b : SReg)
  /-- Fused multiply-add of sA times sB plus old sD, rounded once. (R142) -/
  | ffma (t : Tok) (d : SReg) (a : SReg) (b : SReg)
  /-- fp32 minimum by R81. (R141) -/
  | fmin (t : Tok) (d : SReg) (a : SReg) (b : SReg)
  /-- fp32 maximum by R81. (R141) -/
  | fmax (t : Tok) (d : SReg) (a : SReg) (b : SReg)
  /-- fp32 square root on the shared fp divider. (R141) -/
  | fsqrt (t : Tok) (d : SReg) (a : SReg)
  /-- fp32 equality compare into a predicate. (R143) -/
  | fcmpeq (t : Tok) (d : PReg) (a : SReg) (b : SReg)
  /-- fp32 less-than compare into a predicate. (R143) -/
  | fcmplt (t : Tok) (d : PReg) (a : SReg) (b : SReg)
  /-- fp32 less-or-equal compare into a predicate. (R143) -/
  | fcmple (t : Tok) (d : PReg) (a : SReg) (b : SReg)
  /-- Converts fp32 to int32 or int64 under a rounding mode and saturation control. (R144) -/
  | fcvtfi (t : Tok) (d : SReg) (a : SReg) (i32 : Bool) (wrap : Bool) (rm : RMode)
  /-- Converts a 32- or 64-bit integer to fp32 under a rounding mode. (R145) -/
  | fcvtif (t : Tok) (d : SReg) (a : SReg) (w32 : Bool) (uns : Bool) (rm : RMode)
  /-- Reads a system register into sD. (R146) -/
  | gets (t : Tok) (d : SReg) (n : SysNum)
  /-- Writes sD into a system register under its field map; a poisoned sD is a fret. (R146) -/
  | sets (t : Tok) (d : SReg) (n : SysNum)
  /-- Loads a global value of the given type into sD. (R174) -/
  | ldg (t : Tok) (d : SReg) (a : SReg) (b : SReg) (m : BitVec 3)
  /-- Global load with a 32-bit literal offset. (R174) -/
  | ldgw (t : Tok) (d : SReg) (a : SReg) (m : BitVec 3) (lit : Word)
  /-- Stores the low bytes of sD to a global address. (R175) -/
  | stg (t : Tok) (d : SReg) (a : SReg) (b : SReg) (z : BitVec 2)
  /-- Global store with a 32-bit literal offset. (R175) -/
  | stgw (t : Tok) (d : SReg) (a : SReg) (z : BitVec 2) (lit : Word)
  /-- Loads a scratchpad value into sD. (R174) -/
  | lds (t : Tok) (d : SReg) (a : SReg) (b : SReg) (m : BitVec 3)
  /-- Stores the low bytes of sD to scratchpad. (R175) -/
  | sts (t : Tok) (d : SReg) (a : SReg) (b : SReg) (z : BitVec 2)
  /-- 64-bit global atomic at its site, returning the old value. (R176) -/
  | amo (t : Tok) (d : SReg) (a : SReg) (b : SReg) (op : AmoOp)
  /-- 64-bit scratchpad atomic at the bank ALU. (R176) -/
  | amos (t : Tok) (d : SReg) (a : SReg) (b : SReg) (op : AmoOp)
  /-- Asks the bank to promote the 1 KiB block into a promote slot. (R177) -/
  | promote (t : Tok) (a : SReg) (b : SReg)
  /-- Asks the bank to demote the 1 KiB block, writing back if dirty. (R177) -/
  | demote (t : Tok) (a : SReg) (b : SReg)
  /-- Stores one scalar and increments a flag in the same package. (R313) -/
  | rstf (t : Tok) (d : SReg) (a : SReg) (b : SReg) (z : BitVec 2)
  -- L words (R45)
  /-- L-engine contiguous copy of LEN bytes on a channel. (R259) -/
  | copyIn (t : Tok) (d : SReg) (a : SReg) (b : SReg) (rel : Bool) (ch : Chan)
  /-- L-engine tensor copy from a strided side to dense scratchpad. (R260) -/
  | copytIn (t : Tok) (d : SReg) (a : SReg) (b : SReg) (rel : Bool) (ch : Chan)
  /-- Multicasts bytes to the same offset in several cores of the die. (R263) -/
  | copym (t : Tok) (d : SReg) (a : SReg) (b : SReg) (rel : Bool) (ch : Chan)
  /-- Adds fp32 or int32 rows from memory into accumulator tiles. (R264) -/
  | copya (t : Tok) (tile : TileNo) (a : SReg) (b : SReg) (rel : Bool)
  /-- Gathers indexed chunks into consecutive scratchpad. (R265) -/
  | gath (t : Tok) (d : SReg) (a : SReg) (b : SReg) (rel : Bool) (ch : Chan)
  /-- Prefetches global lines into their die caches. (R266) -/
  | pref (t : Tok) (a : SReg) (b : SReg)
  /-- Copies bytes from any package of the domain into the own package. (R267) -/
  | rloadb (t : Tok) (d : SReg) (a : SReg) (b : SReg) (rel : Bool) (ch : Chan)
  /-- Reads a registered storage object into memory via Harius. (R268) -/
  | stread (t : Tok) (d : SReg) (a : SReg) (b : SReg) (rel : Bool) (ch : Chan)
  /-- Performs an Ultra Ethernet RMA read on behalf of the context. (R269) -/
  | netrd (t : Tok) (d : SReg) (a : SReg) (b : SReg) (rel : Bool) (ch : Chan)
  -- W words (R45)
  /-- W-engine contiguous copy of LEN bytes on a channel. (R259) -/
  | copyOut (t : Tok) (d : SReg) (a : SReg) (b : SReg) (rel : Bool) (ch : Chan)
  /-- W-engine tensor copy from dense scratchpad to a strided side. (R260) -/
  | copytOut (t : Tok) (d : SReg) (a : SReg) (b : SReg) (rel : Bool) (ch : Chan)
  /-- Scatters consecutive scratchpad to indexed chunks. (R265) -/
  | scat (t : Tok) (d : SReg) (a : SReg) (b : SReg) (rel : Bool) (ch : Chan)
  /-- Copies bytes to any package of the domain and increments a flag there. (R314) -/
  | copyf (t : Tok) (d : SReg) (a : SReg) (b : SReg) (ch : Chan)
  /-- Non-returning reduction of a source array into a destination in any package. (R316) -/
  | rred (t : Tok) (d : SReg) (a : SReg) (b : SReg) (rel : Bool) (ch : Chan)
  /-- Writes memory to a registered storage object via Harius. (R268) -/
  | stwrite (t : Tok) (d : SReg) (a : SReg) (b : SReg) (rel : Bool) (ch : Chan)
  /-- Performs an Ultra Ethernet RMA write on behalf of the context. (R269) -/
  | netwr (t : Tok) (d : SReg) (a : SReg) (b : SReg) (rel : Bool) (ch : Chan)
  -- M words (R46)
  /-- Matrix product of register operands added into a tile. (R229) -/
  | mma (t : Tok) (ty : MTy) (tile : TileNo) (a : VReg) (b : VReg) (z : Bool) (k : KLen) (g : Gran) (sc : SReg)
  /-- Matrix product of two scratchpad operands added into a tile. (R230) -/
  | mmas (t : Tok) (ty : MTy) (tile : TileNo) (a : SReg) (b : SReg) (z : Bool) (k : KLen) (g : Gran) (sc : SReg)
  /-- Joint 128 x 128 product across the four cores of a quartet. (R231) -/
  | mmaq (t : Tok) (ty : MTy) (tile : TileNo) (a : SReg) (b : SReg) (z : Bool) (k : KLen) (g : Gran) (sc : SReg) (seq : BitVec 9)
  /-- Matrix product with A fetched from global memory by k-slice. (R233) -/
  | mmar (t : Tok) (ty : MTy) (tile : TileNo) (a : SReg) (b : SReg) (z : Bool) (k : KLen) (g : Gran) (sc : SReg)
  /-- Applies up to 64 B operands to consecutive groups of tile rows. (R235) -/
  | mgrp (t : Tok) (ty : MTy) (tile : TileNo) (a : SReg) (b : SReg) (z : Bool) (k : KLen) (g : Gran) (sc : SReg) (gm1 : BitVec 6) (ct : SReg)
  /-- Writes one level of the shadow nest table. (R236) -/
  | mncfg (t : Tok) (l : BitVec 3) (a : SReg) (b : SReg) (count : BitVec 16) (acc : BitVec 8)
  /-- Runs a nest of MMAS iterations around the following template. (R237) -/
  | mnest (t : Tok) (n : BitVec 3)
  /-- Clears n consecutive accumulator tiles. (R238) -/
  | mzero (t : Tok) (tile : TileNo) (nm1 : BitVec 5)
  /-- Converts tile rows into one vector register. (R239) -/
  | mtov (t : Tok) (tile : TileNo) (d : VReg) (b : SReg)
  /-- Writes or adds tile rows from one vector register. (R240) -/
  | mfromv (t : Tok) (tile : TileNo) (a : VReg) (b : SReg) (ad : Bool)
  /-- Writes a whole tile to scratchpad with conversion. (R241) -/
  | mstore (t : Tok) (tile : TileNo) (a : SReg) (b : SReg)
  /-- Loads a whole tile from scratchpad. (R242) -/
  | mloadacc (t : Tok) (tile : TileNo) (a : SReg)
  -- V words (R47)
  /-- Element-wise vector addition. (R190) -/
  | vadd (t : Tok) (ty : VTy) (d : VReg) (a : VReg) (b : VReg)
  /-- Element-wise vector subtraction. (R190) -/
  | vsub (t : Tok) (ty : VTy) (d : VReg) (a : VReg) (b : VReg)
  /-- Element-wise vector multiplication. (R190) -/
  | vmul (t : Tok) (ty : VTy) (d : VReg) (a : VReg) (b : VReg)
  /-- Element-wise fused multiply-add into vD. (R191) -/
  | vfma (t : Tok) (ty : VTy) (d : VReg) (a : VReg) (b : VReg)
  /-- Element-wise floating division on the divider. (R190) -/
  | vdiv (t : Tok) (ty : VTy) (d : VReg) (a : VReg) (b : VReg)
  /-- Element-wise minimum. (R190) -/
  | vmin (t : Tok) (ty : VTy) (d : VReg) (a : VReg) (b : VReg)
  /-- Element-wise maximum. (R190) -/
  | vmax (t : Tok) (ty : VTy) (d : VReg) (a : VReg) (b : VReg)
  /-- Element-wise unsigned minimum. (R190) -/
  | vminu (t : Tok) (ty : VTy) (d : VReg) (a : VReg) (b : VReg)
  /-- Element-wise unsigned maximum. (R190) -/
  | vmaxu (t : Tok) (ty : VTy) (d : VReg) (a : VReg) (b : VReg)
  /-- Element-wise absolute value. (R193) -/
  | vabs (t : Tok) (ty : VTy) (d : VReg) (a : VReg)
  /-- Element-wise negation. (R193) -/
  | vneg (t : Tok) (ty : VTy) (d : VReg) (a : VReg)
  /-- Signed saturating addition. (R192) -/
  | vadds (t : Tok) (ty : VTy) (d : VReg) (a : VReg) (b : VReg)
  /-- Unsigned saturating addition. (R192) -/
  | vaddsu (t : Tok) (ty : VTy) (d : VReg) (a : VReg) (b : VReg)
  /-- Signed saturating subtraction. (R192) -/
  | vsubs (t : Tok) (ty : VTy) (d : VReg) (a : VReg) (b : VReg)
  /-- Unsigned saturating subtraction. (R192) -/
  | vsubsu (t : Tok) (ty : VTy) (d : VReg) (a : VReg) (b : VReg)
  /-- High half of the signed element product. (R190) -/
  | vmulh (t : Tok) (ty : VTy) (d : VReg) (a : VReg) (b : VReg)
  /-- High half of the unsigned element product. (R190) -/
  | vmulhu (t : Tok) (ty : VTy) (d : VReg) (a : VReg) (b : VReg)
  /-- Element-wise AND. (R194) -/
  | vand (t : Tok) (ty : VTy) (d : VReg) (a : VReg) (b : VReg)
  /-- Element-wise OR. (R194) -/
  | vor (t : Tok) (ty : VTy) (d : VReg) (a : VReg) (b : VReg)
  /-- Element-wise XOR. (R194) -/
  | vxor (t : Tok) (ty : VTy) (d : VReg) (a : VReg) (b : VReg)
  /-- Element-wise AND NOT. (R194) -/
  | vandn (t : Tok) (ty : VTy) (d : VReg) (a : VReg) (b : VReg)
  /-- Element-wise left shift. (R195) -/
  | vshl (t : Tok) (ty : VTy) (d : VReg) (a : VReg) (b : VReg)
  /-- Element-wise logical right shift. (R195) -/
  | vshrl (t : Tok) (ty : VTy) (d : VReg) (a : VReg) (b : VReg)
  /-- Element-wise arithmetic right shift. (R195) -/
  | vshra (t : Tok) (ty : VTy) (d : VReg) (a : VReg) (b : VReg)
  /-- Element equality compare into a mask. (R196) -/
  | vcmpeq (t : Tok) (ty : VTy) (d : MReg) (a : VReg) (b : VReg)
  /-- Element inequality compare into a mask. (R196) -/
  | vcmpne (t : Tok) (ty : VTy) (d : MReg) (a : VReg) (b : VReg)
  /-- Element less-than compare into a mask. (R196) -/
  | vcmplt (t : Tok) (ty : VTy) (d : MReg) (a : VReg) (b : VReg)
  /-- Element less-or-equal compare into a mask. (R196) -/
  | vcmple (t : Tok) (ty : VTy) (d : MReg) (a : VReg) (b : VReg)
  /-- Unsigned element less-than compare into a mask. (R196) -/
  | vcmpltu (t : Tok) (ty : VTy) (d : MReg) (a : VReg) (b : VReg)
  /-- Unsigned element less-or-equal compare into a mask. (R196) -/
  | vcmpleu (t : Tok) (ty : VTy) (d : MReg) (a : VReg) (b : VReg)
  /-- Sets mask bits where either element is NaN. (R196) -/
  | vcmpun (t : Tok) (ty : VTy) (d : MReg) (a : VReg) (b : VReg)
  /-- Selects each element from vA or vB under the active mask. (R197) -/
  | vsel (t : Tok) (z : BitVec 2) (d : VReg) (a : VReg) (b : VReg)
  /-- Sets the active-mask selector. (R198) -/
  | vmsel (t : Tok) (k : MReg)
  /-- Combines whole mask registers. (R199) -/
  | vmlog (t : Tok) (op : MLogOp) (d : MReg) (a : MReg) (b : MReg)
  /-- Converts each element with one rounding between formats. (R202) -/
  | vcvt (t : Tok) (ty : VTy) (d : VReg) (a : VReg) (sinv : Bool) (rm : RMode) (dir : Bool) (other : NFmt)
  /-- Quantises into a scaled narrow float with chosen scales. (R203) -/
  | vquant (t : Tok) (ty : VTy) (d : VReg) (a : VReg) (b : VReg) (tensor : Bool) (sinv : Bool) (rm : RMode) (other : NFmt)
  /-- Widens a scaled narrow float into bf16, fp16 or fp32. (R204) -/
  | vdequant (t : Tok) (ty : VTy) (d : VReg) (a : VReg) (b : VReg) (tensor : Bool) (sinv : Bool) (rm : RMode) (other : NFmt)
  /-- Element reciprocal by R84. (R205) -/
  | vrcp (t : Tok) (ty : VTy) (d : VReg) (a : VReg)
  /-- Element reciprocal square root by R84. (R205) -/
  | vrsq (t : Tok) (ty : VTy) (d : VReg) (a : VReg)
  /-- Element base-2 exponential by R85. (R205) -/
  | vexp2 (t : Tok) (ty : VTy) (d : VReg) (a : VReg)
  /-- Element base-2 logarithm by R86. (R205) -/
  | vlog2 (t : Tok) (ty : VTy) (d : VReg) (a : VReg)
  /-- Element hyperbolic tangent by R87. (R205) -/
  | vtanh (t : Tok) (ty : VTy) (d : VReg) (a : VReg)
  /-- Element square root on the divider. (R205) -/
  | vsqrt (t : Tok) (ty : VTy) (d : VReg) (a : VReg)
  /-- Sums active elements by a fixed tree into scalar form. (R207) -/
  | vredadd (t : Tok) (ty : VTy) (d : VReg) (a : VReg)
  /-- Greatest active element into scalar form. (R208) -/
  | vredmax (t : Tok) (ty : VTy) (d : VReg) (a : VReg)
  /-- Least active element into scalar form. (R208) -/
  | vredmin (t : Tok) (ty : VTy) (d : VReg) (a : VReg)
  /-- Gathers elements of one register by indices in another. (R209) -/
  | vperm (t : Tok) (ty : VTy) (d : VReg) (a : VReg) (b : VReg)
  /-- Copies a scalar into every active element. (R210) -/
  | vbcast (t : Tok) (ty : VTy) (d : VReg) (a : SReg)
  /-- Writes a scalar into one element chosen by index. (R211) -/
  | vins (t : Tok) (ty : VTy) (d : VReg) (a : SReg) (b : SReg)
  /-- Reads one element chosen by index into scalar form. (R212) -/
  | vext (t : Tok) (ty : VTy) (d : VReg) (a : VReg) (b : SReg)
  /-- Contiguous vector load from scratchpad. (R179) -/
  | vlds (t : Tok) (d : VReg) (a : SReg) (b : SReg) (z : BitVec 2)
  /-- Contiguous vector store to scratchpad. (R179) -/
  | vsts (t : Tok) (d : VReg) (a : SReg) (b : SReg) (z : BitVec 2)
  /-- Vector gather from scratchpad through 32-bit indices. (R180) -/
  | vgath (t : Tok) (d : VReg) (a : SReg) (b : VReg) (w64 : Bool)
  /-- Contiguous vector load from global memory. (R179) -/
  | vldg (t : Tok) (d : VReg) (a : SReg) (b : SReg) (z : BitVec 2)
  /-- Contiguous vector store to global memory. (R179) -/
  | vstg (t : Tok) (d : VReg) (a : SReg) (b : SReg) (z : BitVec 2)
  /-- Vector gather from global memory through indices. (R180) -/
  | vgathg (t : Tok) (d : VReg) (a : SReg) (b : VReg) (w64 : Bool)
  /-- One atomic per active element at its site. (R181) -/
  | vatom (t : Tok) (op : VAtomOp) (d : VReg) (a : SReg) (b : VReg)
  -- Y words (R48)
  /-- Registers the issuer on a phaser, creating it if absent. (R294) -/
  | phreg (mode : BitVec 2) (a : SReg) (s : Scope3)
  /-- Ends the issuer's registration on a phaser. (R295) -/
  | phdrop (a : SReg) (s : Scope3)
  /-- Drains, releases and sends one signal to a phaser. (R296) -/
  | phsig (a : SReg) (s : Scope3)
  /-- Waits for the next phase, then acquires and opens its gate. (R297) -/
  | phwait (a : SReg) (s : Scope3)
  /-- Signals and waits on a phaser in one word. (R297) -/
  | phnext (a : SReg) (s : Scope3)
  /-- Adds a byte expectation to the current phase. (R298) -/
  | phexpb (a : SReg) (b : SReg) (s : Scope3)
  /-- Writes a 64-byte phaser snapshot to scratchpad. (R299) -/
  | phq (a : SReg) (b : SReg) (s : Scope3)
  /-- Binds a region to a phaser or flag. (R300) -/
  | bind (d : SReg) (a : SReg) (b : SReg)
  /-- Removes bindings with a given base, or all bindings. (R301) -/
  | unbind (a : SReg) (all : Bool)
  /-- Drains, performs its L1 action by flavour, and gates later memory words. (R289) -/
  | fence (fl : BitVec 2) (s : Scope3)
  /-- Waits until a channel watermark reaches a target. (R303) -/
  | waitw (b : SReg) (w : Bool) (ch : Chan)
  /-- Waits until a flag word reaches a value, then acquires. (R304) -/
  | waitf (a : SReg) (b : SReg)
  /-- Waits until TIME_NS reaches a value. (R305) -/
  | waitt (b : SReg)
  /-- Asks the governor for one grant covering the next n leave-asking words. (R306) -/
  | yleave (n : BitVec 5)
  -- N words (R49)
  /-- Sends the message described by a send record. (R400) -/
  | nsend (a : SReg) (b : SReg)
  /-- Posts a receive buffer record. (R401) -/
  | npost (a : SReg) (b : SReg)
  /-- Queues an Ultra Ethernet RMA write. (R398) -/
  | nrmaw (a : SReg) (b : SReg)
  /-- Queues an Ultra Ethernet RMA read. (R398) -/
  | nrmar (a : SReg) (b : SReg)
  /-- Queues a remote 64-bit add or compare-and-swap. (R399) -/
  | natom (a : SReg) (b : SReg) (cas : Bool)
  /-- Installs a pegboard entry from a 32-byte image. (R376) -/
  | narm (a : SReg) (b : SReg)
  /-- Invalidates a pegboard entry. (R376) -/
  | ndisarm (d : SReg) (a : SReg)
  /-- Writes a peg field and evaluates the peg. (R377) -/
  | pegset (a : SReg) (b : SReg) (f : PegField)
  /-- Adds to a peg's count, returns the old count and evaluates. (R377) -/
  | pegadd (d : SReg) (a : SReg) (b : SReg)
  /-- Reads a peg field. (R377) -/
  | pegrd (d : SReg) (a : SReg) (f : PegField)
  /-- Submits a launch record and returns its instance number. (R378) -/
  | nlaunch (d : SReg) (a : SReg) (b : SReg)
  /-- Launches one task on each of up to 1,024 packages. (R379) -/
  | ngang (d : SReg) (a : SReg) (b : SReg)
  /-- Saves a stopped context's image, optionally freeing it. (R380) -/
  | nsave (d : SReg) (a : SReg) (rel : Bool)
  /-- Restores a saved context image onto a core. (R380) -/
  | nload (d : SReg) (a : SReg)
  /-- Freezes the TARGET context. (R381) -/
  | nfreeze
  /-- Clears FROZEN on the TARGET context. (R381) -/
  | nthaw
  /-- Drops translations from every TLB of the package. (R382) -/
  | nmap (a : SReg) (b : SReg) (op : MapOp)
  /-- Creates a region, endpoint, storage object or NVMe/TCP registration. (R391) -/
  | nreg (d : SReg) (a : SReg) (b : SReg) (k : RegKind)
  /-- Ends a registration of the named kind. (R402) -/
  | nrevoke (a : SReg) (b : SReg) (k : RegKind)
  /-- Loads or unloads a persistent collective graph. (R403) -/
  | ncoll (a : SReg) (unload : Bool)
  /-- Replays a collective graph for the next generation. (R404) -/
  | nrearm (a : SReg) (b : SReg)
  /-- Applies one SHA-256 compression to a state. (R405) -/
  | nhash (a : SReg) (b : SReg)
  /-- Signs a digest under the attestation key. (R406) -/
  | nsign (d : SReg) (a : SReg) (b : SReg)
  /-- Draws 64 bits from the CTR_DRBG. (R407) -/
  | nrand (d : SReg)
  -- A words (R50)
  /-- No operation. (R116) -/
  | nop
  /-- Writes a b register with a target and starts its fetch. (R117) -/
  | prep (r : BReg) (lit : Word)
  /-- Unconditional branch to a b register target. (R118) -/
  | br (r : BReg)
  /-- Branch when a predicate is true. (R118) -/
  | brT (r : BReg) (p : PReg)
  /-- Branch when a predicate is false. (R118) -/
  | brF (r : BReg) (p : PReg)
  /-- Decrements a scalar and branches while non-zero. (R118) -/
  | brDnz (r : BReg) (s : SReg)
  /-- Unconditional branch with link into b7. (R119) -/
  | brl (r : BReg)
  /-- Branch with link when a predicate is true. (R119) -/
  | brlT (r : BReg) (p : PReg)
  /-- Branch with link when a predicate is false. (R119) -/
  | brlF (r : BReg) (p : PReg)
  /-- Decrement, and branch with link while non-zero. (R119) -/
  | brlDnz (r : BReg) (s : SReg)
  /-- Branches when a scalar register is poisoned. (R120) -/
  | checkS (r : BReg) (s : SReg)
  /-- Branches when a predicate is poisoned. (R120) -/
  | checkP (r : BReg) (p : PReg)
  /-- Branches when any lane of a vector register is poisoned. (R120) -/
  | checkV (r : BReg) (v : VReg)
  /-- Branches when a mask register is poisoned. (R120) -/
  | checkM (r : BReg) (m : MReg)
  /-- Ends a stream's walk, or a Harius thread. (R121) -/
  | endTask
  /-- Makes streams meet and parks the context on a following wait. (R122) -/
  | yield
  /-- Raises cause 0x70 plus n. (R123) -/
  | trap (n : BitVec 4)
  /-- Makes all streams meet after earlier words complete. (R124) -/
  | align
  /-- Resumes the trapped TARGET context and ends the thread. (R125) -/
  | eret
  -- events
  /-- Traps the context after 65,536 cycles with every active stream stalled and nothing outstanding. (R103) -/
  | streamDeadlock (c : Nat)
  /-- Builds the trap record, optionally writes it at TRAP_REC.ADDR and delivers it to Harius as a TRAP event. (R109) -/
  | trapDeliver (c : Nat)
  /-- A SETS or store to a register or table field without behaviour of its own. (R146) -/
  | registerWrite (c : Nat) (n : SysNum) (v : Dword)
  /-- A SETS that changes SLOTS sets BUSY and starts the banks' demotion and adoption. (R164) -/
  | fsplitWrite (die : BitVec 2) (v : Dword)
  /-- The last bank adopts the new split and BUSY clears. (R168) -/
  | fsplitAdopt (die : BitVec 2)
  /-- A slow row reaching its hot activation count is promoted. (R167) -/
  | autoPromotion (bank : Nat) (row : Nat)
  /-- The 100 us epoch ends and activation counts restart. (R167) -/
  | promoteEpoch (die : BitVec 2)
  /-- An uncorrectable HBM read error is handled by retiring, refetching or poisoning. (R170) -/
  | eccError (sector : Nat) (consumer : Option Nat)
  /-- Writing SKIP advances the failing stream past its failing word. (R361) -/
  | ctxSkip (c : Nat)
  /-- Writing ABANDON abandons every suspended transfer of the context. (R256) -/
  | ctxAbandon (c : Nat)
  /-- Writing HOLD stops or releases the context. (R361) -/
  | ctxHold (c : Nat) (on : Bool)
  /-- Writing POP removes the head entry of the error queue. (R320) -/
  | errqPop (c : Nat)
  /-- A transfer's last byte lands; it pushes, releases and advances MARK. (R254) -/
  | transferComplete (x : XferRef)
  /-- A transfer meets an asynchronous fault, suspends and traps the context. (R255) -/
  | transferFault (x : XferRef)
  /-- The governor grants the head leave request when the account allows. (R424) -/
  | leaveGrant (die : BitVec 2)
  /-- The governor refreshes its account base from the current sensors every 1 us. (R423) -/
  | governorSample (die : BitVec 2) (base : Nat)
  /-- The die reads its junction sensors every 10 us and sets clock and shutdown state. (R426) -/
  | thermalSample (die : BitVec 2) (temp : Nat)
  /-- Every 100 us the effective DIECAP falls or rises by 5 %. (R426) -/
  | thermalCapStep (die : BitVec 2)
  /-- The four queue heads are compared and the joint product runs or mismatches. (R232) -/
  | quartetJoin (q : Nat)
  /-- A word waiting 65,536 cycles in its quartet queue traps. (R232) -/
  | quartetTimeout (core : Nat)
  /-- An arriving message is matched, deposited and counted at a peg. (R351) -/
  | messageArrival (m : Message)
  /-- A Harius copy finishes and adds 1 to its DONEPEG. (R355) -/
  | pegCopyComplete (id : Nat)
  /-- A launch waiting for a tracking place reaches the dependency scheduler. (R20) -/
  | launchTrack
  /-- A launch whose conflicting footprints are released passes the scheduler after its argument block is read. (R360) -/
  | schedulerAdmit (n : Nat)
  /-- The placement engine chooses an eligible core or leaves the launch waiting. (R21) -/
  | placement (n : Nat)
  /-- The core makes the placed task resident with its starting state. (R22) -/
  | contextStart (n : Nat)
  /-- A task whose streams passed END and whose work drained retires, releases and increments its completion peg. (R23) -/
  | taskRetire (c : Nat)
  /-- A parked context whose condition fired becomes resident again. (R105) -/
  | parkedReturn (c : Nat)
  /-- A checkpointed task returns when a core of its preferred die becomes eligible. (R367) -/
  | checkpointReturn (n : Nat)
  /-- The head event starts on the lowest-numbered free Harius thread. (R344) -/
  | eventDispatch
  /-- A thread running 2 ms is ended and logged. (R347) -/
  | threadWatchdog (n : Nat)
  /-- The target ingress checks and performs a remote request and replies. (R310) -/
  | remoteRequest (r : RemoteReq)
  /-- A data, accept, reject or mute reply completes a remote request at the issuer. (R311) -/
  | remoteReply (id : Nat) (r : Reply)
  /-- The switch sends a mute reply when SWITCH_TIMEOUT expires. (R323) -/
  | switchMute (id : Nat)
  /-- Harius makes a mute reply 128 us after an unanswered request. (R325) -/
  | hariusBackstop (id : Nat)
  /-- A dropped link makes the switch mute held requests toward it. (R323) -/
  | linkDown (peer : BitVec 10)
  /-- A trained link exchanges digests and carries traffic, retrains, or is marked failed. (R329) -/
  | linkTrained (link : Nat) (phy : LinkPhy) (far : Dword) (pkg : BitVec 10)
  /-- An ingress atomic-cache lease ends after 4 us. (R172) -/
  | leaseExpire (line : Nat)
  /-- After the RRED_FAULT handler ends, the piece is retried once. (R346) -/
  | rredRetry (id : Nat)
  /-- A tagged chunk is matched to a graph node and processed, held or refused. (R338) -/
  | collectiveChunk (k : Chunk)
  /-- A GENERATION_AHEAD chunk is resent after 2 us. (R339) -/
  | chunkRetry (id : Nat)
  /-- The base die performs a queued reduce step and adds DONEPEG. (R335) -/
  | baseDieStep (stack : Nat)
  /-- A node waiting PROBE us causes a probe of its peer. (R341) -/
  | collProbe (g : Nat) (node : Nat)
  /-- A member package receives its gang launch record and acknowledges. (R379) -/
  | gangMemberLaunch (src : BitVec 10) (gang : Nat) (rec : BitVec 128) (asid : BitVec 12)
  /-- A gang acknowledgement arrives; the last completes the gang. (R374) -/
  | gangAck (gang : Nat) (pkg : BitVec 10)
  /-- WINDOW expires with members missing and the gang is broken. (R374) -/
  | gangWindowExpire (gang : Nat)
  /-- An incoming RMA operation is key-checked and performed or rejected as a violation. (R392) -/
  | rmaRequest (r : RmaReq)
  /-- An RMA operation ends, writes STATUS and adds to DONEPEG. (R397) -/
  | rmaComplete (id : Nat) (r : RmaEnd)
  /-- A receiver acknowledges a message and DONEPEG is added. (R400) -/
  | messageAck (id : Nat)
  /-- A NAK arrives and the sender resends. (R388) -/
  | packetNak (tc : Nat) (psn : Nat) (why : NakKind)
  /-- The retransmission timeout expires; after eight the transport gives up. (R388) -/
  | retransmitTimeout (tc : Nat) (psn : Nat)
  /-- An evicted transport context is fetched and its held packets processed. (R389) -/
  | contextFetch (tc : Nat)
  /-- A revocation completes after admitted operations finish and frees the index. (R393) -/
  | revokeComplete (id : Nat)
  /-- A received pause frame pauses a lossless priority. (R384) -/
  | pfcPause (port : Nat) (prio : Nat) (on : Bool)
  /-- A PTP exchange locks or slews TIME_NS. (R386) -/
  | ptpSync (t : PtpTime)
  /-- An NVMe command completes, is retried, or fails. (R396) -/
  | nvmeCompletion (id : Nat) (ok : Bool) (data : List Byte)
  /-- The holder applies a registration, signal, drop, expectation or byte arrival and evaluates. (R275) -/
  | phaserEvent (e : PhaserMsg)
  /-- A tearing-down address space becomes free when its conditions hold. (R371) -/
  | asidFree (asid : BitVec 12)
  /-- The boot ROM measures, trains, enumerates and waits for an image. (R412) -/
  | packageReset
  /-- Writing DOORBELL checks, installs and starts the staged image. (R420) -/
  | doorbell (len : Dword)
  /-- Resets the package and reruns the boot. (R414) -/
  | reload (v : Dword)
  /-- Writes up to 4 KiB into the staging area; a final STAGE acts as DOORBELL. (R431) -/
  | stage (off : Nat) (data : List Byte) (last : Option Dword)
  /-- Returns BOOT_STATUS and the power block. (R431) -/
  | readStatus
  /-- Writes the package power cap, clamped, and recomputes DIECAP. (R418) -/
  | setCap (w : Word)
  /-- Returns error counters in an index range. (R431) -/
  | readCounters (lo : Nat) (n : Nat)
  /-- Clears error counters. (R431) -/
  | clearCounters (lo : Nat) (n : Nat)
  /-- Returns package log records and the log head. (R431) -/
  | readLog (start : Nat) (n : Nat)
  /-- An unknown management command is answered with an error. (R431) -/
  | mgmtUnknownCommand (cmd : Nat)
  /-- SPDM request reporting version 1.2. (R429) -/
  | getVersion
  /-- SPDM capabilities request. (R429) -/
  | getCapabilities
  /-- SPDM algorithm negotiation. (R429) -/
  | negotiateAlgorithms
  /-- SPDM certificate digest request. (R429) -/
  | getDigests
  /-- SPDM request for certificate slot 0. (R429) -/
  | getCertificate (slot : Nat) (off : Nat) (len : Nat)
  /-- SPDM challenge signed by the attestation key. (R429) -/
  | challenge (slot : Nat) (nonce : BitVec 256)
  /-- Returns MEAS registers as signed measurement blocks from one snapshot. (R430) -/
  | getMeasurements (idx : Nat) (nonce : BitVec 256)
  /-- Any other SPDM request is answered with ERROR UnsupportedRequest. (R429) -/
  | spdmUnsupportedRequest (code : Nat)
  /-- Writing the MSGSLOT doorbell enqueues a host message as an arrival. (R421) -/
  | hostMessage (m : BitVec 512)
  /-- A waiting mailbox record is written to the host ring and MSI-X 0 raised. (R421) -/
  | hostRecordSend
  /-- A write to the key record loads or unloads a key slot. (R416) -/
  | keyLoad
  /-- A write to the MEAS7 record extends MEAS7. (R413) -/
  | meas7Extend
  /-- A write to the peer table re-enables or marks a peer silent. (R328) -/
  | peerTableWrite (peer : BitVec 10) (v : Dword)
  /-- A write to the port table is read and applied to the port. (R385) -/
  | portTableWrite (port : Nat)
  /-- A store of 0 clears an error counter. (R417) -/
  | errorCounterClear (n : Nat) (v : Dword)
  /-- TIME_NS reaches the value that a WAITT, or a context parked on WAITT, waits for, and the wait completes or its park condition fires. (R305) -/
  | timeNsReached (ns : Dword)
  /-- A queued NSIGN signature finishes about 2.5 ms after its request, is written at sB and its DONEPEG is added. (R406) -/
  | signatureComplete
  /-- The on-die entropy source starts or stops failing its health tests, so that NRAND writes poisoned zeros and Harius counts the failure. (R407) -/
  | healthTestFailure (failing : Bool)
  /-- An NVMe drive on the root complex is removed or fails, and every command on its objects fails from then on. (R422) -/
  | driveFailure (drive : Nat)
  /-- An NVMe/TCP connection registered by NREG becomes established some time after NREG has ended. (R391) -/
  | connectionEstablished (conn : Nat)
  /-- An NVMe/TCP connection fails, and every command on its objects becomes a failed command. (R391) -/
  | connectionFailure (conn : Nat)
  /-- An 800 GbE port comes up, and Harius reads its port-table entry and applies it. (R385) -/
  | portUp (port : Nat)
  /-- A host write through BAR 2 to the staging area is stored while STATE is 1 and ignored otherwise. (R420) -/
  | stagingWrite (off : Nat) (data : List Byte)
deriving DecidableEq, Repr

end Sys2Proof
end

