-- ==== Sys2Proof/Machine/Formats.lean ====
section
/-!
DEFINITION. Sizes and field widths of the number formats (R61, R65, R183, R200) and of the element types.
-/

namespace Sys2Proof

/-- A floating format: exponent bits, mantissa bits, bias, and which special codes it has (R61). -/
structure FFmt where
  ebits : Nat
  mbits : Nat
  bias  : Nat
  hasInf : Bool
  hasNaN : Bool
  onlyTopNaN : Bool
deriving DecidableEq, Repr

namespace FFmt
/-- fp32 (R61). -/
def fp32 : FFmt := ⟨8, 23, 127, true, true, false⟩
/-- fp16 (R61). -/
def fp16 : FFmt := ⟨5, 10, 15, true, true, false⟩
/-- bf16 (R61). -/
def bf16 : FFmt := ⟨8, 7, 127, true, true, false⟩
/-- fp8e4: no infinity, one NaN code (R61). -/
def fp8e4 : FFmt := ⟨4, 3, 7, false, true, true⟩
/-- fp8e5 (R61). -/
def fp8e5 : FFmt := ⟨5, 2, 15, true, true, false⟩
/-- fp6e2: no special codes (R61). -/
def fp6e2 : FFmt := ⟨2, 3, 1, false, false, false⟩
/-- fp6e3: no special codes (R61). -/
def fp6e3 : FFmt := ⟨3, 2, 3, false, false, false⟩
/-- fp4e2: no special codes (R61). -/
def fp4e2 : FFmt := ⟨2, 1, 1, false, false, false⟩
/-- Width of a code, sign included. -/
def bits (f : FFmt) : Nat := 1 + f.ebits + f.mbits
end FFmt

/-- How a format is read: as a float, or as an integer of a width and signedness. -/
inductive NKind where
  | float (f : FFmt)
  | int (bits : Nat) (signed : Bool)
deriving DecidableEq, Repr

/-- What a conversion format code names (R200). -/
def NFmt.kind : NFmt → NKind
  | .int8 => .int 8 true
  | .int16 => .int 16 true
  | .int32 => .int 32 true
  | .int64 => .int 64 true
  | .bf16 => .float .bf16
  | .fp16 => .float .fp16
  | .fp32 => .float .fp32
  | .uint8 => .int 8 false
  | .uint16 => .int 16 false
  | .uint32 => .int 32 false
  | .uint64 => .int 64 false
  | .int4 => .int 4 true
  | .uint4 => .int 4 false
  | .fp8e4 => .float .fp8e4
  | .fp8e5 => .float .fp8e5
  | .fp6e2 => .float .fp6e2
  | .fp6e3 => .float .fp6e3
  | .fp4e2 => .float .fp4e2

/-- Bits an element of the format takes in a vector register; fp6 takes a byte (R66, R183). -/
def NFmt.regBits (n : NFmt) : Nat :=
  match n with
  | .fp6e2 | .fp6e3 => 8
  | _ => match n.kind with
    | .float f => f.bits
    | .int b _ => b

/-- A narrow scaled float of VQUANT and VDEQUANT (R203). -/
def NFmt.isNarrow : NFmt → Bool
  | .fp8e4 | .fp8e5 | .fp6e2 | .fp6e3 | .fp4e2 => true
  | _ => false

/-- The conversion format that a V type names (codes 0 to 6 agree, R200). -/
def VTy.fmt : VTy → NFmt
  | .i8 => .int8
  | .i16 => .int16
  | .i32 => .int32
  | .i64 => .int64
  | .bf16 => .bf16
  | .fp16 => .fp16
  | .fp32 => .fp32

/-- Element width of a V type in bits (R183). -/
def VTy.bits : VTy → Nat
  | .i8 => 8
  | .i16 | .bf16 | .fp16 => 16
  | .i32 | .fp32 => 32
  | .i64 => 64

/-- bf16, fp16 and fp32. -/
def VTy.isFloat : VTy → Bool
  | .bf16 | .fp16 | .fp32 => true
  | _ => false

/-- int8 to int64. -/
def VTy.isInt (t : VTy) : Bool := !t.isFloat

/-- k-steps held by one vector register for MMA (R220). -/
def MTy.perReg : MTy → Nat
  | .bf16 | .fp16 => 4
  | .fp8e4 | .fp8e5 | .fp6e2 | .fp6e3 | .int8 => 8
  | .fp4e2 | .int4 => 16

/-- int8 and int4, which take no scales (R83). -/
def MTy.isInt : MTy → Bool
  | .int8 | .int4 => true
  | _ => false

/-- The conversion format of an element type. -/
def MTy.fmt : MTy → NFmt
  | .bf16 => .bf16
  | .fp16 => .fp16
  | .fp8e4 => .fp8e4
  | .fp8e5 => .fp8e5
  | .fp6e2 => .fp6e2
  | .fp6e3 => .fp6e3
  | .fp4e2 => .fp4e2
  | .int8 => .int8
  | .int4 => .int4

/-- The ratio k of a conversion (R201), where it is 1, 2 or 4. -/
def cvtRatio (src dst : NFmt) : Option Nat :=
  let hi := max src.regBits dst.regBits
  let lo := min src.regBits dst.regBits
  if hi = lo then some 1 else if hi = 2 * lo then some 2 else if hi = 4 * lo then some 4 else none

/-- Registers of the source and of the destination of a conversion (R201): one of the two is k, the other 1. -/
def cvtGroups (src dst : NFmt) : Nat × Nat :=
  match cvtRatio src dst with
  | none => (1, 1)
  | some k => if src.regBits < dst.regBits then (1, k) else if dst.regBits < src.regBits then (k, 1) else (1, 1)

end Sys2Proof
end

