-- ==== Sys2Proof/Machine/Flags.lean ====
section
/-!
DEFINITION. The sticky flags of IEEE_FLAGS (R78) and the flag rule of a rounding step (R74, R79).
-/

namespace Sys2Proof

/-- A set of IEEE_FLAGS bits, laid out as R78. -/
abbrev Flags := BitVec 8

namespace Flags
/-- No flag. -/
def none : Flags := 0
/-- Invalid operation, bit 0. -/
def nv : Flags := 0x01
/-- Division by zero, bit 1. -/
def dz : Flags := 0x02
/-- Overflow, bit 2. -/
def of : Flags := 0x04
/-- Underflow, bit 3. -/
def uf : Flags := 0x08
/-- Inexact, bit 4. -/
def nx : Flags := 0x10
/-- A value was clamped, bit 5. -/
def sat : Flags := 0x20
/-- One flag under a condition. -/
def when (c : Bool) (f : Flags) : Flags := if c then f else 0
/-- Every flag of a list. -/
def all (l : List Flags) : Flags := l.foldl (· ||| ·) 0
/-- NX and UF of a rounding whose result is below the smallest normal or not (R79). -/
def rounding (inexact tiny : Bool) : Flags := when inexact nx ||| when (inexact && tiny) uf
/-- Bits [7:6] are reserved (R78). -/
def mask : Flags := 0x3F
end Flags

end Sys2Proof
end

