-- ==== Sys2Proof/Machine/State.lean ====
section
/-!
DEFINITION. The state of one Flaern F4 package: its compute contexts, its Harius threads, its memory and its package-level
units, as plain data. One context, one thread and one agent are in focus: the words of `exec` act on those.
-/

namespace Sys2Proof.Machine

/-! Registers (R35) -/

/-- A scalar register and its poison bit (R35). -/
structure SVal where
  v : Dword
  p : Bool
deriving DecidableEq, Repr

/-- A predicate and its poison bit (R35). -/
structure PVal where
  v : Bool
  p : Bool
deriving DecidableEq, Repr

/-- A vector register of 512 bytes and its 128 lane poison bits (R35). -/
structure VVal where
  v : BitVec 4096
  p : BitVec 128
deriving DecidableEq, Repr

/-- A mask register and its poison bit (R35). -/
structure MVal where
  v : BitVec 1024
  p : Bool
deriving DecidableEq, Repr

/-- An accumulator tile, element (i, j) at byte 256i + 4j, and its row poison (R216). -/
structure Tile where
  v : BitVec 131072
  p : BitVec 64
deriving DecidableEq, Repr

/-- The registers that S words and A words use, on a context or on a Harius thread (R35, R37). -/
structure ScalarFile where
  s : Vector SVal 32
  p : Vector PVal 8
  b : Vector Dword 8
deriving DecidableEq, Repr

/-- s all zero, p0 true, b all at one code address (R35, R37). -/
def ScalarFile.start (code : Dword) : ScalarFile where
  s := Vector.replicate 32 ⟨0, false⟩
  p := (Vector.replicate 8 ⟨false, false⟩).set 0 ⟨true, false⟩
  b := Vector.replicate 8 code

/-! Streams (R90 to R103) -/

/-- The six engine streams of a context. -/
inductive StreamId where
  | S | L | M | V | W | Y
deriving DecidableEq, Repr, Inhabited

/-- One stream's walk (R90, R111), with what it has passed ahead of the others: S words that write a register (R147), SETS
words (R40), gating Y words (R282), for Y the memory words of the other streams (R282), and for S the V and M words that write
vector or mask registers, v0 to v31 in bits 0 to 31 and m0 to m7 in bits 32 to 39 (R120). -/
structure Stream where
  pc : Dword
  pos : Nat
  inact : Bool
  fail : Bool
  stall : BitVec 4
  writes : List (Nat × SReg)
  sets : List (Nat × SysNum)
  gates : List Nat
  mems : List (Nat × StreamId)
  vmWrites : List (Nat × StreamId × BitVec 40)
deriving DecidableEq, Repr

/-- A stream at task start (R90). -/
def Stream.start (code : Dword) : Stream := ⟨code, 0, false, false, 0, [], [], [], [], []⟩

/-- The six streams. -/
structure Streams where
  s : Stream
  l : Stream
  m : Stream
  v : Stream
  w : Stream
  y : Stream
deriving DecidableEq, Repr

/-- An entry of the decision FIFO (R94), with the trace position of its word. -/
structure Decision where
  pos : Nat
  taken : Bool
  target : Dword
deriving DecidableEq, Repr

/-- What a trap reports (R110): cause, detail, and the fields that are valid. -/
structure Trap where
  cause : Byte
  detail : Dword
  faddr : Option Dword
  elem : Option Nat
  sect : Option Nat
deriving DecidableEq, Repr

/-- The trap record of a stop (R110); `eng` is the failing stream, none for STREAM_DEADLOCK, and `size` how many positions
SKIP advances it: those of the failing word where it stands at it, else 0 (R361). -/
structure TrapRecord where
  trap : Trap
  eng : Option StreamId
  size : Nat
  ctxid : Dword
  pcs : List Dword
  poss : List Nat
  status : List Word
  time : Dword
  tokens : Word
  fifo : Nat
deriving DecidableEq, Repr

/-! Transfers (R245 to R269) -/

/-- The transfer words (R247, R314, R316). -/
inductive XferKind where
  | copy | copyt | copym | copya | gath | rloadb | stread | netrd | scat | copyf | rred | stwrite | netwr
deriving DecidableEq, Repr

/-- A shape record as read at issue (R261). -/
structure Shape where
  esize : Nat
  swz : Nat
  lpitch : Nat
  dims : List (Nat × Dword)
deriving DecidableEq, Repr

/-- A phaser by scope, scope instance and number (R271, R273). -/
structure PhaserName where
  scope : Scope3
  at_ : Nat
  num : Half
deriving DecidableEq, Repr

/-- A storage object (R391). -/
structure StoreObj where
  obj : Nat
  asid : Asid
  path : Nat
  nsid : Word
  slba : Dword
  nlb : Dword
  perms : BitVec 2
  blk4k : Bool
  live : Bool
deriving DecidableEq, Repr

/-- Data on its way to a destination that takes its 32-byte pieces in any order (R252, R387): what has arrived and is not written, by offset,
no entry reaching over a piece's end, and the pieces written. -/
structure Landing where
  got : List (Nat × List (Byte × Bool))
  landed : List Nat
deriving DecidableEq, Repr

/-- Nothing has arrived. -/
def Landing.start : Landing := ⟨[], []⟩

/-- An issued transfer that has not completed (R245 to R258). `pieces` counts its destination pieces (source sectors for STWRITE
and NETWR) and `done` the next of them; `elem` is the next element of COPYT.out; `waiting` are pieces requested and not yet
answered; `snap` the source of a COPY that may overlap its destination, bytes that could not be read absent; `fault` the
trap of a suspended transfer; `failed` the first refused piece; `dropped` a dropped piece; `started` whether Harius has begun
a storage or network transfer; `name` the phaser of the release; `flag` the flag word named at issue, as physical address and key slot; `leave` the milliwatts
of the grant that it holds (R423); `owed` the lines of the core's L1 that were dirty when it issued, and `wrote` the ranges that it has
written (R252, R254): of HBM by physical address, of scratchpads from 2^60 on. `buf` holds source data read and not yet used, by sector,
part, chunk or piece, so that each source sector is read once (R252); `chunk` is the address of the SCAT chunk under way, `obj` the
storage object that Harius found (R268), and `land` what a storage or network read brings (R268, R269). -/
structure Xfer where
  ref : XferRef
  kind : XferKind
  word : Word
  dst : Dword
  src : Dword
  ctl : Dword
  rel : Option Dword
  name : Option PhaserName
  exportOk : Bool
  shape : Option Shape
  desc : List Byte
  pieces : Nat
  done : Nat
  elem : Nat
  waiting : List Nat
  snap : List (Option (Byte × Bool))
  under : List (Nat × List (Byte × Bool))
  pfDue : Bool
  pbDue : Bool
  fault : Option Trap
  failed : Option Dword
  dropped : Bool
  started : Bool
  leave : Nat
  owed : List Nat
  wrote : List (Nat × Nat)
  buf : List (Nat × List (Byte × Bool))
  chunk : Option Dword
  obj : Option StoreObj
  land : Landing
deriving DecidableEq, Repr

/-- A channel: its next ID, MARK, and the completed IDs above MARK (R245, R246), with what those have written, which lower IDs leave as it
is (R254). -/
structure Channel where
  next : Nat
  mark : Nat
  above : List Nat
  landed : List (Nat × List (Nat × Nat))
deriving DecidableEq, Repr

/-! Context-held tables -/

/-- A level of the nest table (R236). -/
structure NestLevel where
  a : Word
  sa : Word
  b : Word
  sb : Word
  count : BitVec 16
  step : Byte
deriving DecidableEq, Repr

/-- A registration in its registrant's record (R274). -/
structure Registration where
  name : PhaserName
  mode : BitVec 2
  sph : Dword
  wph : Dword
deriving DecidableEq, Repr

/-- The object a region is bound to (R284). -/
inductive BindObj where
  | phaser (name : PhaserName)
  | flag (addr : BitVec 56)
deriving DecidableEq, Repr

/-- A binding (R284, R300). -/
structure Binding where
  obj : BindObj
  base : BitVec 56
  len : Nat
deriving DecidableEq, Repr

/-- A scalar load or atomic whose reply is outstanding (R127): the request, the register, the load's mod (none for an
atomic), and whether its forward push is still to be applied (R101). -/
structure PendingReg where
  req : Nat
  reg : SReg
  mode : Option (BitVec 3)
  push : Bool
deriving DecidableEq, Repr

/-- What a waiting context waits for (R105, R122). -/
inductive ParkWait where
  | phaser (name : PhaserName)
  | mark (w : Bool) (ch : Chan) (target : Nat)
  | flag (addr : Dword) (value : Dword)
  | time (ns : Dword)
deriving DecidableEq, Repr

/-- Where a context stands (R105, R367, R380). `parked` carries its wait and whether the wait has fired. -/
inductive Residency where
  | absent
  | resident
  | parked (wait : ParkWait) (fired : Bool)
  | saved
  | checkpointed
deriving DecidableEq, Repr

/-- The progress of an unfinished M or V word (R178, R233, R368): element, slice or iteration reached; for an MMAR `miter` is 1
once Z has been applied, and `mflags` are the flags of the slices applied so far. -/
structure Progress where
  velem : Nat
  mslice : Nat
  miter : Nat
  mflags : Flags
deriving DecidableEq, Repr

/-! Words under way (R107, R178, R217, R233) -/

/-- A translated address: the full physical address [55:0] and the key slot. -/
structure Phys where
  pa : Nat
  slot : Nat
deriving DecidableEq, Repr

/-- A checked global operand: the 56-bit virtual address (0 on a thread), and what it translates to. -/
structure Global where
  va : BitVec 56
  phys : Phys
deriving DecidableEq, Repr

/-- A place in a scratchpad. -/
structure ScrPlace where
  core : Nat
  off : Nat
deriving DecidableEq, Repr

/-- A place of an element of a V word. -/
inductive VPlace where
  | scr (p : ScrPlace)
  | glob (g : Global)
deriving DecidableEq, Repr

/-- A piece of a V memory word that has passed its checks (R178), within one sector: its elements with their byte offsets from its place,
its place, the request sent for it, and what it brought. -/
structure VPiece where
  elems : List (Nat × Nat)
  place : VPlace
  req : Option Nat
  got : Option (List Byte × Bool)
deriving DecidableEq, Repr

/-- A V memory word under way (R178): its pieces in element order, the fault of the first element that failed its checks, and the registers
that it writes. -/
structure VPlan where
  pieces : List VPiece
  bad : Option (Trap × Nat)
  writes : List VReg
deriving DecidableEq, Repr

/-- A piece of an A-line of an MMAR's slice (R233): the line, the request sent for its sector, its offset and length there, and its bytes. -/
structure MPart where
  line : Nat
  req : Option Nat
  off : Nat
  len : Nat
  got : Option (List Byte × Bool)
deriving DecidableEq, Repr

/-- A slice that an MMAR has requested: its parts in line order, up to the first that faults. -/
structure MSlice where
  parts : List MPart
  fault : Option Trap
deriving DecidableEq, Repr

/-- The families of product words (R226). -/
inductive MFam where
  | mma (a b : VReg)
  | mmas
  | mmaq (seq : BitVec 9)
  | mmar
  | mgrp (gm1 : Nat) (ct : Dword)
deriving DecidableEq, Repr

/-- A product word with its operand registers as read: the pairs' four values, and sC's. -/
structure Product where
  fam : MFam
  ty : MTy
  tile : Nat
  z : Bool
  k : Nat
  g : Gran
  regs : List Dword
  sc : Dword
deriving DecidableEq, Repr

/-- An M array word that has issued and left the stream's program counter (R217): its product, MGRP's counts as checked, its nest (levels,
their number, the iterations and the next of them; a product alone is one iteration), its pushes, its tiles and the milliwatts of its
grant, and its trace position. -/
structure MJob where
  pos : Nat
  product : Product
  counts : List Nat
  levels : Vector NestLevel 6
  n : Nat
  total : Nat
  it : Nat
  push : Tok
  tiles : List Nat
  leave : Nat
deriving DecidableEq, Repr

/-- A word that has issued and still stands at its stream's program counter (R107): its pushes that are checked and not yet applied (R101),
the trap that follows it (R102), and whether it still runs; one that has stopped at a fault does not pop again. -/
structure Issued where
  e : StreamId
  push : Tok
  late : Option Trap
  runs : Bool
deriving DecidableEq, Repr

/-- A PROMOTE or DEMOTE that its bank has not yet accepted, with its forward push (R101, R177): its trace position, the request, or the
address held by a die that is adopting a split. -/
structure BankPush where
  pos : Nat
  req : Option Nat
  addr : Nat
  push : Bool
deriving DecidableEq, Repr

/-- An MMAQ word issued and waiting in its core's quartet queue (R232): the word's fields and its operand registers as read. -/
structure QuartetWord where
  core : Nat
  inst : Nat
  asid : Asid
  t : Tok
  ty : MTy
  tile : TileNo
  z : Bool
  k : Nat
  g : Gran
  seq : BitVec 9
  regs : List Dword
  sc : Dword
deriving DecidableEq, Repr

/-- A stream's request for leave (R215, R251, R306): not yet evaluated, refused, or granted; `part` is what its word has beside that from a
coverage. -/
structure LeaveReq where
  e : StreamId
  milliwatts : Nat
  granted : Bool
  refused : Bool
  part : Nat
deriving DecidableEq, Repr

/-- The coverage of a YLEAVE that some stream has passed (R306): its trace position, how many words it covers, whether its grant has
come, what of the grant no word has taken yet, and the positions of the words that it has covered. -/
structure Cover where
  pos : Nat
  n : Nat
  granted : Bool
  milliwatts : Nat
  taken : List Nat
deriving DecidableEq, Repr

/-- The per-context registers of R41 that hold a value of their own. -/
structure CtxRegs where
  slip : Nat
  tokCeil : Word
  tokInit : Word
  domain : BitVec 3
  remain : BitVec 48
  flags : Flags
  lfsr : Word
  mpref : Nat
  ovf : Bool
  phovr : Bool
  refuse : Nat
  stallCycles : Nat
  ptok : Byte
  drain : Bool
  hold : Bool
  frozen : Bool
  trapped : Bool
  prio : BitVec 2
  exportOk : Bool
  root : BitVec 43
  trapAddr : BitVec 48
  trapEn : Bool
deriving DecidableEq, Repr

/-- A task context (R9, R35, R105). `inst` is its instance number, unique after reset (R357). `idle` are the streams that have
stalled on a wait of R103 since a stream last advanced. `words` are the words, as fetched, in whose middle streams stand; `late` are traps that follow a word of their stream once it has been executed in
full (R102); `slow` marks a turn in which V moves one piece of its memory word or finds the vector unit taken, or M requests one slice ahead. `sees` are registers that Harius has
written since M or Y issued the word under way, with the value that this word goes on with (R40); `phSent` says that Y's word, other than a
wait, has been sent to its phaser's home and not been answered (R107). -/
structure Ctx where
  inst : Nat
  place : Residency
  core : Nat
  slot : Nat
  asid : Asid
  ttype : BitVec 12
  launch : BitVec 128
  code : Dword
  demand : Nat
  tiles : Nat
  scrBase : Nat
  scrBytes : Nat
  sf : ScalarFile
  hist : List (Nat × SReg × SVal)
  v : Vector VVal 32
  m : Vector MVal 8
  msel : MReg
  a : Vector Tile 96
  held : List TileNo
  streams : Streams
  fifo : List Decision
  tok : Word
  regs : CtxRegs
  sysHist : List (Nat × SysNum × Dword)
  sees : List (StreamId × SysNum × Dword)
  lfsrSets : List (Nat × Word)
  errq : List Dword
  lch : Vector Channel 4
  wch : Vector Channel 4
  xfers : List Xfer
  loads : List PendingReg
  banks : List BankPush
  failedWords : List Nat
  issued : List Issued
  words : List (StreamId × Word × Word)
  late : List (StreamId × Trap)
  slow : Bool
  vplan : Option VPlan
  slices : List MSlice
  jobs : List MJob
  prog : Progress
  shadow : Vector NestLevel 6
  active : Vector NestLevel 6
  phasers : List Registration
  bindings : List Binding
  signalled : Bool
  leaves : List LeaveReq
  covers : List Cover
  record : Option TrapRecord
  undelivered : Bool
  phAnswer : Option Reply
  phSent : Bool
  idle : List StreamId
deriving DecidableEq, Repr

/-! Harius threads (R343 to R349) -/

/-- A Harius thread; `rred` is the reduction piece whose fault it handles (R346), `s2` its event's s2 (R347), `maps` the requests on the
wire for which its NMAP waits (R382), `waits` that the word at its program counter has issued and not completed, `ending`
that the watchdog has fired meanwhile (R347), and `disarm` whether the entry that its NDISARM has removed was valid, with the arrivals for which that
waits (R376). -/
structure Thread where
  num : Nat
  running : Bool
  sf : ScalarFile
  pc : Dword
  entry : Dword
  target : Word
  kind : Byte
  asid : Asid
  phasers : List Registration
  phAnswer : Option Reply
  rred : Option Nat
  s2 : Dword
  maps : Option (List Nat)
  disarm : Option (Bool × List Nat)
  waits : Bool
  ending : Bool
deriving DecidableEq, Repr

/-! Memory (06) -/

/-- An L1 line of a core (R161, R284): the physical line, the ASID and virtual line of its last fill or write, valid and
dirty bytes, data, sector poison, the key it was filled or written under, whether each sector's poison is known here (it was filled, or
written whole or poisoned), and whether a clean store has written all of it since the last write-back (R169). -/
structure L1Line where
  core : Nat
  line : Nat
  asid : Asid
  vline : Nat
  key : Nat
  valid : BitVec 64
  dirty : BitVec 64
  data : BitVec 512
  poison : BitVec 2
  known : BitVec 2
  whole : BitVec 2
deriving DecidableEq, Repr

/-- A translation held by a TLB (R14, R15, R156): the TLB (a core's number, or 512 and the die's for the shared TLB of a die), the ASID, the
first page number and how many 64 KiB pages it covers, the leaf, and the entry's physical address. -/
structure TlbEntry where
  home : Nat
  asid : Asid
  page : Nat
  span : Nat
  pte : Dword
  pteAt : Nat
deriving DecidableEq, Repr

/-- A line of a core's instruction cache (R14, R458): the physical line, the address space and virtual line of its fill, its key and its
bytes. -/
structure CodeLine where
  core : Nat
  line : Nat
  asid : Asid
  vline : Nat
  key : Nat
  data : BitVec 512
deriving DecidableEq, Repr

/-- A promotion of a bank (R165); `cached` marks the lines of the block that the die cache holds dirty (R447). -/
structure Promotion where
  row : Nat
  slot : Nat
  dirty : Bool
  cached : BitVec 16
deriving DecidableEq, Repr

/-- A bank's promotion list, oldest first (R165), by its number stack * 1024 + pch * 16 + bank. -/
structure Bank where
  num : Nat
  promos : List Promotion
deriving DecidableEq, Repr

/-- A PROMOTE that waits for its bank to adopt a split (R168): its address, the package that waits for the answer, and the thread that
issued it. -/
structure HeldPromote where
  addr : Nat
  reply : Option Pkg
  thread : Option Nat
deriving DecidableEq, Repr

/-- A die's registers (R164, R167): the split in force, the one being adopted, SETS held meanwhile, the PROMOTEs that wait for a bank,
AUTO_PROMOTE, and the activations of slow rows (bank, row, count) in the epoch. -/
structure Die where
  slots : Nat
  busy : Bool
  newSlots : Nat
  heldSets : List Dword
  heldPromotes : List HeldPromote
  auto : Byte
  acts : List (Nat × Nat × Nat)
deriving DecidableEq, Repr

/-- Memory of the package: HBM and scratchpads as canonical byte lists, poison per sector, the key each sector was last
written under, loaded key slots, L1 lines, instruction-cache lines, held translations, promotions, ingress leases. What the die caches hold
stands in `hbm`, since they are the point of coherence (R162); of their dirty lines only those of promoted blocks have an effect of their
own (R447). `fwd` are the sectors, each with its bytes, that agents have written in the turn: the die caches pass the writes of the control
area on to Harius (R415). `early` are the error counters while no
control area holds them, before START (R417, R421) (DEDUCED, log 47). -/
structure Memory where
  hbm : List Host.Cell
  hbmPoison : List Nat
  keyed : List (Nat × Nat)
  keys : List (Nat × Nat)
  scr : List Host.Cell
  scrPoison : List Nat
  l1 : List L1Line
  code : List CodeLine
  tlb : List TlbEntry
  banks : List Bank
  dies : Vector Die 4
  leases : List Nat
  fwd : List (Nat × BitVec 32)
  own : Pkg
  early : Vector Nat 48
deriving DecidableEq, Repr

/-! Phasers (R271 to R280) -/

/-- A registrant at a phaser's holder (R275). -/
structure Registrant where
  party : Party
  mode : BitVec 2
  sph : Dword
  wph : Dword
deriving DecidableEq, Repr

/-- A phaser at its holder (R275); registrants oldest first, the first is the owner (R277). -/
structure Phaser where
  name : PhaserName
  asid : Asid
  ph : Dword
  arrived : Nat
  ahead : Nat
  brem : Nat
  expset : Bool
  ovr : Nat
  poisoned : Bool
  overrunSent : Bool
  owner : Party
  regs : List Registrant
  heldSignals : List Party
  heldWaits : List Party
deriving DecidableEq, Repr

/-! Harius: pegs, tasks, events (12) -/

/-- A peg (R352). -/
structure Peg where
  count : Dword
  thresh : Dword
  action : Dword
  operand : Dword
deriving DecidableEq, Repr

/-- A peg that nothing has written (DESIGN CHOICE, log 14). -/
def Peg.zero : Peg := ⟨0, 0, 0, 0⟩

/-- What made a launch (R357): a peg's action of a KIND, NLAUNCH or NGANG. -/
inductive LaunchSource where
  | peg (i : Nat) (kind : Nat)
  | word
deriving DecidableEq, Repr

/-- How far an accepted launch has come (R20, R360, R364): waiting for a tracking place, at the scheduler, waiting for
placement, placed, running, killed and to be placed again. -/
inductive TaskPhase where
  | untracked | scheduled | admitted | placed (core base : Nat) | running | killed | released
deriving DecidableEq, Repr

/-- An accepted launch and the task it becomes (R356 to R360). Footprints are byte ranges (base, length). -/
structure Task where
  inst : Nat
  launch : BitVec 128
  asid : Asid
  source : LaunchSource
  phase : TaskPhase
  argRead : Bool
  reads : List (Nat × Nat)
  writes : List (Nat × Nat)
  gang : Option (Pkg × Nat)
  victim : Option Nat
deriving DecidableEq, Repr

/-- An event of the queue (R344, R346); a handler action names its entry (R353). -/
structure Event where
  kind : Byte
  asid : Asid
  s2 : Dword
  s3 : Dword
  s4 : Dword
  s5 : Dword
  time : Dword
  entry : Option Dword
  rred : Option Nat
deriving DecidableEq, Repr

/-- A copy of Harius's copy engine under way (R355), with the peg whose action it is and that action's ASID. -/
structure HCopy where
  id : Nat
  raw : BitVec 256
  peg : Nat
  asid : Asid
deriving DecidableEq, Repr

/-- A gang slot in use (R379). -/
structure Gang where
  id : Nat
  launch : BitVec 128
  asid : Asid
  members : List Pkg
  acked : List Pkg
  donePeg : Half
  deadline : Dword
deriving DecidableEq, Repr

/-- A loaded collective graph (R336 to R341). -/
structure Graph where
  coll : Nat
  probe : Nat
  bases : List Dword
  nodes : List (BitVec 256)
  gen : Word
  done : List Nat
  taken : List Nat
  held : List Chunk
  since : Dword
deriving DecidableEq, Repr

/-- A command in a base die's queue (R334, R335), and whether its leave is granted or has been refused (R424). -/
structure BaseStep where
  stack : Nat
  coll : Nat
  node : Nat
  gen : Word
  base : Dword
  len : Nat
  optype : Byte
  donePeg : Half
  data : List Byte
  poison : List Bool
  granted : Bool
  refused : Bool
deriving DecidableEq, Repr

/-- An RRED piece in a reduction unit (R318): piece k of its word; `exportOk` says whether poison may leave the package with it, and
`fretted` that it waits there because it may not (R317). -/
structure RredPiece where
  id : Nat
  ref : XferRef
  k : Nat
  exportOk : Bool
  fretted : Bool
  asid : Asid
  core : Nat
  addr : Dword
  ty : RedTy
  op : RedOp
  data : List Byte
  poison : Bool
  sent : Bool
  faults : Nat
deriving DecidableEq, Repr

/-- Harius's task and peg state. `ingress` are the chunks that wait in its ingress buffer for a full base-die queue (R334), each with
whether its sender has its answer. `orphans` are RRED words whose context has retired (R318), `bankRejects` the rejected bank words that Harius
counts (R308), where no program sees the count. -/
structure Har where
  entries : List (Nat × BitVec 256)
  pegs : List (Nat × Peg)
  types : List (Nat × BitVec 512)
  queue : List Event
  nextInst : Nat
  tasks : List Task
  copies : List HCopy
  gangs : List Gang
  graphs : List Graph
  steps : List BaseStep
  ingress : List (Chunk × Bool)
  rred : List RredPiece
  orphans : List (Asid × Xfer)
  phasers : List Phaser
  parkOrder : List Nat
  ckptOrder : List Nat
  preemptMargin : Byte
  drainLimit : BitVec 48
  gangWindow : Word
  mapped : List Asid
  bankRejects : Nat
deriving DecidableEq, Repr

/-! The fabric and the network (11, 13) -/

/-- What a remote request is for: where its reply goes (R308, R311); nowhere, once its context has been discarded (R257). -/
inductive Origin where
  | sload (inst : Nat) (pos : Nat)
  | vload (inst : Nat)
  | vatom (inst : Nat) (elem : Nat)
  | store (inst : Nat) (pos : Nat)
  | bank (inst : Nat) (pos : Nat)
  | mmar (inst : Nat)
  | rloadb (ref : XferRef) (part : Nat)
  | copyf (ref : XferRef) (piece : Nat)
  | flagInc (ref : XferRef)
  | rred (id : Nat)
  | probe (coll : Nat) (node : Nat)
  | phaser (inst : Nat) (name : PhaserName) (thread : Bool) (asid : Asid)
  | nobody
deriving DecidableEq, Repr

/-- A remote request on the wire (R308, R325), or a phaser word sent to its home (R271), which has no `kind`. `muted` marks
one already answered by a mute reply (R327), `asid` is the address space whose translation it used (R382), and `link` the link by which it
left (R325). -/
structure Wire where
  id : Nat
  pkg : Pkg
  addr : BitVec 56
  kind : Option ReqKind
  origin : Origin
  muted : Bool
  asid : Asid
  link : Option Nat
deriving DecidableEq, Repr

/-- A memory region (R391, R393); one neither live nor under a revocation is a free index with the generation it takes next. -/
structure Region where
  index : Nat
  gen : Half
  asid : Asid
  base : BitVec 56
  len : Nat
  perms : BitVec 3
  live : Bool
  revokeId : Option Nat
deriving DecidableEq, Repr

/-- An endpoint entry (R391). -/
structure Endpoint where
  index : Nat
  asid : Asid
  raw : BitVec 512
  live : Bool
deriving DecidableEq, Repr

/-- An NVMe/TCP connection (R391). -/
structure Conn where
  index : Nat
  asid : Asid
  raw : BitVec 2048
  up : Bool
  failed : Bool
  live : Bool
deriving DecidableEq, Repr

/-- A posted receive buffer (R395, R401), with the place of its record. -/
structure PostBuf where
  asid : Asid
  raw : BitVec 256
  recAt : Nat
  recKey : Nat
deriving DecidableEq, Repr

/-- Which registration a revocation ends (R402). -/
structure Revocation where
  id : Nat
  kind : RegKind
  asid : Asid
  index : Nat
  donePeg : Half
deriving DecidableEq, Repr

/-- The kinds of operation this package sends (R397 to R399, R269). -/
inductive RmaOpKind where
  | write | read | add | cas
  | netrd (ref : XferRef)
  | netwr (ref : XferRef)
deriving DecidableEq, Repr

/-- An RMA operation of this package that has not ended (R397 to R399): the ASID of the event whose thread issued it and that thread's number
while it runs, the program counter of the word, the key slot of the local bytes, how many packets have left of how many, the payload that
NETWR has read, what has arrived of a read, and the STATUS it ends with once that has landed. -/
structure RmaOp where
  id : Nat
  kind : RmaOpKind
  asid : Asid
  endpoint : Nat
  desc : BitVec 256
  descAt : Nat
  descKey : Nat
  thread : Option Nat
  event : Asid
  pc : Dword
  localKey : Nat
  packets : Nat
  sent : Nat
  data : List Byte
  land : Landing
  ended : Option Nat
deriving DecidableEq, Repr

/-- A message sent and not yet acknowledged (R400); `waits` is one in the packet buffer that has not left for its endpoint, `link` the link by
which it left over the fabric. -/
structure SentMsg where
  id : Nat
  donePeg : Half
  dest : Pkg
  fabric : Bool
  endpoint : Nat
  waits : Option Message
  link : Option Nat
deriving DecidableEq, Repr

/-- An unacknowledged packet of a transport context (R388); `due` is one to send again once its priority is not paused. -/
structure Packet where
  psn : Nat
  op : Nat
  timeouts : Nat
  due : Bool
deriving DecidableEq, Repr

/-- The other end of a transport context: an endpoint that this package sends to, or an initiator whose packets arrive. -/
inductive PeerEnd where
  | to (endpoint : Nat)
  | from_ (fa : BitVec 128) (job : BitVec 24) (pid : Half)
deriving DecidableEq, Repr

/-- What a packet from Ultra Ethernet brings. -/
inductive Arrival where
  | message (v : Via) (m : Message)
  | rma (r : RmaReq)
deriving DecidableEq, Repr

/-- A transport context (R387 to R389). As a sender: the next packet sequence number and the packets not acknowledged. As a receiver: every
number below `expect` has been processed, as have those in `seen`; `bad` are operations refused at their first packet (R393), and
`held` wait for the context's fetch. -/
structure Transport where
  id : Nat
  peer : PeerEnd
  asid : Asid
  ordered : Bool
  tc : Nat
  resident : Bool
  nextPsn : Nat
  packets : List Packet
  expect : Nat
  seen : List Nat
  bad : List Nat
  held : List Arrival
deriving DecidableEq, Repr

/-- What Harius does for something that has arrived: a deposit of the pegboard entry in a slot (R19), a posted buffer (R395), or an admitted RMA
operation under the region as it was then (R393). -/
inductive InWork where
  | deposit (slot : Nat) (entry : BitVec 256) (m : Message)
  | buffer (b : PostBuf) (m : Message)
  | rma (g : Region) (r : RmaReq)
deriving DecidableEq, Repr

/-- Where an arrival's bytes go or come from: nowhere, a physical range, a core's scratchpad, or a range of an address space. -/
inductive Spot where
  | drop
  | hbm (p : Phys)
  | scr (core off : Nat)
  | paged (asid : Asid) (a : Dword)
deriving DecidableEq, Repr

/-- Work on an arrival that has not ended (R19, R387): whether it has begun, where its bytes go, how many they are, and what has landed. -/
structure Inflow where
  id : Nat
  via : Option Via
  work : InWork
  begun : Bool
  spot : Spot
  base : Nat
  len : Nat
  land : Landing
deriving DecidableEq, Repr

/-- An NVMe command outstanding (R396). -/
structure NvmeCmd where
  id : Nat
  ref : XferRef
  asid : Asid
  obj : Nat
  path : Nat
  nsid : Word
  lba : Nat
  off : Nat
  len : Nat
  isWrite : Bool
  fua : Bool
  data : List Byte
  retries : Nat
deriving DecidableEq, Repr

/-- A collective chunk sent and not yet accepted (R338, R339), with the link by which it left. -/
structure SentChunk where
  id : Nat
  coll : Nat
  node : Nat
  gen : Word
  dest : Pkg
  chunk : Chunk
  link : Option Nat
deriving DecidableEq, Repr

/-- A signature request (R406); an SPDM answer that waits for its signature is its code and the bytes before it (R428). -/
structure SignReq where
  digest : BitVec 256
  dst : Nat
  dstKey : Nat
  donePeg : Half
  reply : Option (Nat × List Byte)
deriving DecidableEq, Repr

/-! What leaves the package -/

/-- The model's record of what the package sends: requests, replies, messages, chunks, host records, answers (DESIGN CHOICE, log 44). -/
inductive Out where
  | request (id : Nat) (r : RemoteReq) (dest : Pkg)
  | reply (dest : Pkg) (r : Reply)
  | message (dest : Nat) (fabric : Bool) (m : Message) (packet : Option (Nat × Nat))
  | chunk (dest : Pkg) (k : Chunk)
  | chunkAnswer (dest : Pkg) (accepted : Bool) (ahead : Bool)
  | gangMember (dest : Pkg) (gang : Nat) (rec : BitVec 128) (asid : Asid)
  | gangAck (dest : Pkg) (gang : Nat)
  | phaserMsg (dest : Pkg) (m : PhaserMsg)
  | rma (id : Nat) (desc : BitVec 256) (tc psn : Nat) (data : List Byte)
  | rmaAnswer (via : Via) (data : List Byte) (poison : List Bool)
  | ack (via : Via)
  | nak (via : Via) (why : NakKind)
  | pause (port prio : Nat) (on : Bool)
  | packetAgain (tc : Nat) (psn : Nat)
  | nvme (id : Nat) (isWrite : Bool) (path : Nat) (nsid : Word) (lba : Nat) (len : Nat) (fua : Bool) (data : List Byte)
  | hostRecord (at_ : Dword) (data : List Byte)
  | hostRead (data : List Byte)
  | msix (vector : Nat)
  | management (data : List Byte)
  | spdm (code : Nat) (data : List Byte)
  | signature (data : List Byte)
  | switchTimeout (v : BitVec 6)
  | linkDigest (link : Nat) (d : Dword)
deriving DecidableEq, Repr

/-! The fabric and the network -/

/-- Fabric and network state. `transports` are in order of use, the latest first; `drives` are those that the boot has found (R422), `deadDrives` have
been removed or have failed. `pastPosts` are messages and chunks that wait for no answer any more, each with its peer and whether a mute reply has
come for it (R327); `answers` are answers to packets of others that a pause of their priority holds (R384). -/
structure Net where
  nextId : Nat
  wires : List Wire
  regions : List Region
  endpoints : List Endpoint
  objects : List StoreObj
  conns : List Conn
  posts : List PostBuf
  revokes : List Revocation
  ops : List RmaOp
  sent : List SentMsg
  chunksOut : List SentChunk
  transports : List Transport
  inflows : List Inflow
  nvme : List NvmeCmd
  signs : List SignReq
  pastPosts : List (Nat × Pkg × Bool)
  answers : List (Nat × Out)
  paused : List (Nat × Nat)
  pausing : List (Nat × Nat)
  portsUp : List Nat
  ports : List (Nat × BitVec 512)
  drives : List Nat
  deadDrives : List Nat
  switchTimeout : BitVec 6
  entropyFailing : Bool
deriving DecidableEq, Repr

/-! Package, host and management (14) -/

/-- A scale-up link (R329): down, its training attempt, carrying traffic, or failed. -/
inductive LinkState where
  | down (attempt : Nat)
  | up
  | failed
deriving DecidableEq, Repr

/-- A request at a die's power governor (R424), in arrival order: of a context's stream, or of a stack's next base-die step (R335). -/
inductive LeaveWait where
  | word (inst : Nat) (e : StreamId)
  | step (stack : Nat)
deriving DecidableEq, Repr

/-- A die power governor and thermal state (R423 to R426); powers in milliwatts, `temp` in tenths of a degree. -/
structure Governor where
  base : Nat
  grants : Nat
  queue : List LeaveWait
  dropPct : Nat
  hot : Bool
  halfClock : Bool
  temp : Nat
deriving DecidableEq, Repr

/-- The image header fields in force (R409, R412). -/
structure Header_ where
  textLoad : BitVec 56
  rodataLoad : BitVec 56
  ctlBase : BitVec 56
  logBase : BitVec 56
  logLen : Nat
  ckpBase : BitVec 56
  ckpLen : Nat
deriving DecidableEq, Repr

/-- A checkpoint or saved image's place in the pool (R367, R415). -/
structure PoolImage where
  inst : Nat
  at_ : Nat
  len : Nat
deriving DecidableEq, Repr

/-- Host, boot, attestation and power state. `hostMsgs` are the host messages enqueued and not yet handled (R421); `preCap` is CAP
while no image runs (R418). -/
structure PkgSt where
  bootState : Nat
  bootCode : Nat
  bootIndex : Nat
  bootLen : Nat
  started : Bool
  stopped : Bool
  hdr : Header_
  hrbase : Dword
  hrlen : Dword
  hrhead : Dword
  hrtail : Dword
  hostMsgs : List (BitVec 512)
  mailbox : List (List Byte)
  meas : Vector (BitVec 256) 8
  measLocked : Bool
  links : Vector LinkState 18
  ownSet : Bool
  governors : Vector Governor 4
  time : Dword
  ptpLocked : Bool
  pool : List PoolImage
  preCap : Nat
deriving DecidableEq, Repr

/-! Turns -/

/-- What this package owes itself: arrivals whose sender is the own package, and mute replies that Harius makes on the spot
(R326). -/
inductive Delivery where
  | message (m : Message)
  | messageAck (id : Nat)
  | chunk (k : Chunk)
  | gangMember (gang : Nat) (launch : BitVec 128) (asid : Asid)
  | gangAck (gang : Nat)
  | nodeDone (coll : Nat) (node : Nat) (gen : Word)
  | mute (id : Nat) (reason : BitVec 2)
deriving DecidableEq, Repr

/-- Who moves next: a stream of a context, one piece of a stream's word, an M array word that has issued, a Harius thread, an event of the
package, a delivery to itself, a transfer moving one piece, one piece of a storage or network read landing, one
piece of an arrival or of an RMA read landing, a packet or message leaving, a core's L1, instruction cache or TLB giving up an entry, a PREP's fetch, a die
cache writing a line of a promoted block back, a row activation, time passing, the oldest host
message, a read by the host, the boot ROM, a corrected ECC error of a stack, or a scale-up link dropping at this end. -/
inductive Turn where
  | word (inst : Nat) (e : StreamId)
  | piece (inst : Nat) (e : StreamId)
  | array (inst : Nat) (k : Nat)
  | thread (n : Nat)
  | event (i : Instr)
  | deliver (d : Delivery)
  | move (r : XferRef)
  | land (r : XferRef) (k : Nat)
  | inflow (id k : Nat)
  | send (id : Nat)
  | evict (core : Nat) (line : Nat)
  | evictCode (core : Nat) (line : Nat)
  | evictTlb (e : TlbEntry)
  | prefetch (inst : Nat) (b : BReg)
  | writeBack (bank : Nat) (row : Nat) (k : Nat)
  | activate (bank : Nat) (row : Nat)
  | tick (ns : Nat)
  | hostSlot
  | hostRead (bar2 : Bool) (off n : Nat)
  | boot
  | corrected (stack : Nat)
  | linkDrop (link : Nat)
deriving DecidableEq, Repr, Inhabited

/-- Whose word `exec` runs. -/
inductive Agent where
  | stream (e : StreamId)
  | thread
deriving DecidableEq, Repr

/-- The state of one package. -/
structure State where
  ctx : Ctx
  others : List Ctx
  thr : Thread
  threads : List Thread
  agent : Agent
  mem : Memory
  har : Har
  net : Net
  pkg : PkgSt
  quartet : List QuartetWord
  out : List Out
  agenda : List Turn
  fresh : Nat
deriving DecidableEq, Repr

/-- Reasons a run stops that are no trap of the machine. -/
inductive Fault where
  /-- Raised by `exec` when the word does not belong to the agent in focus (R22, R32): `step` never runs such a word, so
  this is safe: no run reaches it. -/
  | notOwner
deriving DecidableEq, Repr

/-- Instructions without a meaning. -/
inductive Refusal where
  /-- Raised by `exec` for an instruction whose meaning is not written: safe, nothing can be proved of it. -/
  | notModelled (mnemonic : String)
deriving DecidableEq, Repr

/-- The registers of a context that does not exist: every field zero. -/
def CtxRegs.zero : CtxRegs where
  slip := 0
  tokCeil := 0
  tokInit := 0
  domain := 0
  remain := 0
  flags := 0
  lfsr := 0
  mpref := 0
  ovf := false
  phovr := false
  refuse := 0
  stallCycles := 0
  ptok := 0
  drain := false
  hold := false
  frozen := false
  trapped := false
  prio := 0
  exportOk := false
  root := 0
  trapAddr := 0
  trapEn := false

/-- The nest level at task start (R236). -/
def NestLevel.zero : NestLevel := ⟨0, 0, 0, 0, 0, 0⟩

/-- A channel at task start (R35, R245). -/
def Channel.start : Channel := ⟨1, 0, [], []⟩

/-- No context: what the focus holds when no context is in focus. -/
def Ctx.absent : Ctx where
  inst := 0
  place := .absent
  core := 0
  slot := 0
  asid := 0
  ttype := 0
  launch := 0
  code := 0
  demand := 0
  tiles := 0
  scrBase := 0
  scrBytes := 0
  sf := ScalarFile.start 0
  hist := []
  v := Vector.replicate 32 ⟨0, 0⟩
  m := (Vector.replicate 8 ⟨0, false⟩).set 0 ⟨BitVec.allOnes 1024, false⟩
  msel := 0
  a := Vector.replicate 96 ⟨0, 0⟩
  held := []
  streams := ⟨.start 0, .start 0, .start 0, .start 0, .start 0, .start 0⟩
  fifo := []
  tok := 0
  regs := CtxRegs.zero
  sysHist := []
  sees := []
  lfsrSets := []
  errq := []
  lch := Vector.replicate 4 Channel.start
  wch := Vector.replicate 4 Channel.start
  xfers := []
  loads := []
  banks := []
  failedWords := []
  issued := []
  words := []
  late := []
  slow := false
  vplan := .none
  slices := []
  jobs := []
  prog := ⟨0, 0, 0, 0⟩
  shadow := Vector.replicate 6 NestLevel.zero
  active := Vector.replicate 6 NestLevel.zero
  phasers := []
  bindings := []
  signalled := false
  leaves := []
  covers := []
  record := .none
  undelivered := false
  phAnswer := .none
  phSent := .false
  idle := []

/-- A Harius thread that does not run (DESIGN CHOICE, log 14). -/
def Thread.idle (n : Nat) : Thread := ⟨n, false, ScalarFile.start 0, 0, 0, 0, 0, 0, [], .none, .none, 0, .none, .none, .false, .false⟩

/-- A die after reset (R164, R167). -/
def Die.reset : Die := ⟨1024, false, 1024, [], [], 0, []⟩

/-- Memory after reset: nothing listed (DESIGN CHOICE, log 2), no key loaded before the boot ROM runs (R412). -/
def Memory.reset : Memory where
  hbm := []
  hbmPoison := []
  keyed := []
  keys := []
  scr := []
  scrPoison := []
  l1 := []
  code := []
  tlb := []
  banks := []
  dies := Vector.replicate 4 Die.reset
  leases := []
  fwd := []
  own := 0
  early := Vector.replicate 48 0

/-- Harius after reset (R357, R365, R373). -/
def Har.reset : Har where
  entries := []
  pegs := []
  types := []
  queue := []
  nextInst := 1
  tasks := []
  copies := []
  gangs := []
  graphs := []
  steps := []
  ingress := []
  rred := []
  orphans := []
  phasers := []
  parkOrder := []
  ckptOrder := []
  preemptMargin := 16
  drainLimit := 50000
  gangWindow := 50000
  mapped := []
  bankRejects := 0

/-- Fabric and network after reset (R324). -/
def Net.reset : Net where
  nextId := 0
  wires := []
  regions := []
  endpoints := []
  objects := []
  conns := []
  posts := []
  revokes := []
  ops := []
  sent := []
  chunksOut := []
  transports := []
  inflows := []
  nvme := []
  signs := []
  pastPosts := []
  answers := []
  paused := []
  pausing := []
  portsUp := []
  ports := []
  drives := []
  deadDrives := []
  switchTimeout := 7
  entropyFailing := false

/-- A governor after reset (DESIGN CHOICE, log 14). -/
def Governor.reset : Governor := ⟨0, 0, [], 0, false, false, 0⟩

/-- Host, boot and power state after reset (R413, R420) (DESIGN CHOICE, log 14). -/
def PkgSt.reset : PkgSt where
  bootState := 0
  bootLen := 0
  bootCode := 0
  bootIndex := 0
  started := false
  stopped := false
  hdr := ⟨0, 0, 0, 0, 0, 0, 0⟩
  hrbase := 0
  hrlen := 0
  hrhead := 0
  hrtail := 0
  hostMsgs := []
  mailbox := []
  meas := Vector.replicate 8 0
  measLocked := false
  links := Vector.replicate 18 (.down 0)
  ownSet := false
  governors := Vector.replicate 4 Governor.reset
  time := 0
  ptpLocked := false
  pool := []
  preCap := 3200

/-- The package right after reset: no context, no thread, and the boot ROM about to run (R412). -/
def State.reset : State where
  ctx := Ctx.absent
  others := []
  thr := Thread.idle 0
  threads := []
  agent := .thread
  mem := Memory.reset
  har := Har.reset
  net := Net.reset
  pkg := PkgSt.reset
  quartet := []
  out := []
  agenda := [.event .packageReset]
  fresh := 0

end Sys2Proof.Machine
end

