-- ==== Sys2Proof/Config.lean ====
section
/-!
DEFINITION. What the spec leaves open, as constants without a body: nothing in Lean can evaluate them. Each is named in a row
of notes/assumptions. `fresh` arguments are the state's counter of free values drawn.
-/

namespace Sys2Proof.Config

/-- Which of the outcomes the spec allows occurs, where one of n must be picked (R8): a number taken modulo n (DESIGN CHOICE, log 3). -/
opaque choice : Nat → Nat
/-- The next turn, where nothing in the state says which stream, thread or event moves next and the spec fixes no order
(R8, R98, R104, R288) (DESIGN CHOICE, log 1). -/
opaque nextTurn : Nat → Machine.Turn
/-- By which of the scale-up links that carry traffic a request or message leaves (R309): a number taken modulo theirs (DESIGN CHOICE,
log 64). -/
opaque route : Nat → Nat
/-- A sector written under one key and read under another (R158): unrelated to the plaintext; arguments are the sector, the
key it was written under, the key it is read under, and its plaintext (DESIGN CHOICE, log 13). -/
opaque scramble : Nat → Nat → Nat → BitVec 256 → BitVec 256
/-- A value drawn by NRAND (R407) (DESIGN CHOICE, log 5). -/
opaque randomValue : Nat → Dword
/-- The 384-byte signature over a digest under the package's attestation key (R406, R428) (DESIGN CHOICE, log 5). -/
opaque signature : BitVec 256 → List Byte
/-- How the fuses bifurcate the NVMe root complex: into 2 ^ n ports, n taken modulo 5 (R422) (DESIGN CHOICE, log 5). -/
opaque bifurcation : Nat
/-- Whether the boot finds a drive at a port of the root complex (R422) (DESIGN CHOICE, log 5). -/
opaque driveFitted : Nat → Bool
/-- The block size of a namespace, by the path and the namespace number (R391). -/
opaque blockSize : Nat → Nat → Nat
/-- The bytes of a port's receive buffer that are a priority's share (R385) (DESIGN CHOICE, log 5). -/
opaque receiveShare (port prio : Nat) : Nat
/-- ROOTHASH in the fuses (R410) (DESIGN CHOICE, log 5). -/
opaque rootHash : BitVec 256
/-- The digest of the boot ROM (R412). -/
opaque romDigest : BitVec 256
/-- The digest of the fuse and debug state (R412). -/
opaque fuseDigest : BitVec 256
/-- The certificate chain of SPDM slot 0 (R428). -/
opaque certificateChain : List Byte

end Sys2Proof.Config
end

