-- ==== Sys2Proof/Machine/Memory.lean ====
section
/-!
DEFINITION. The storage of the package: HBM and scratchpad bytes in one canonical form, poison per sector (R169), the keys
sectors were written under (R158), promotion lists (R165), and the L1 of each core (R161).
-/

namespace Sys2Proof.Machine

/-! Byte lists -/

/-- What the list holds at an address; an unlisted address reads as zero (DESIGN CHOICE, log 2). -/
def cellRead : List Host.Cell → Nat → Byte
  | [], _ => 0
  | (k, v) :: cs, a => if a = k then v else if a < k then 0 else cellRead cs a

/-- Writes one byte and keeps the canonical form: writing zero removes the entry (DESIGN CHOICE, log 2). -/
def cellWrite : List Host.Cell → Nat → Byte → List Host.Cell
  | [], a, b => if b = 0 then [] else [(a, b)]
  | (k, v) :: cs, a, b =>
    if a < k then (if b = 0 then (k, v) :: cs else (a, b) :: (k, v) :: cs)
    else if a = k then (if b = 0 then cs else (a, b) :: cs)
    else (k, v) :: cellWrite cs a b

/-- Writes bytes at rising addresses. -/
def cellWrites (cs : List Host.Cell) (l : List (Nat × Byte)) : List Host.Cell :=
  l.foldl (fun cs x => cellWrite cs x.1 x.2) cs

/-- Every listed address is above `lo`, addresses rise strictly, and no entry is zero. -/
def cellsAbove (lo : Option Nat) : List Host.Cell → Bool
  | [] => true
  | (k, v) :: cs => lo.all (fun l => decide (l < k)) && v != 0 && cellsAbove (some k) cs

/-- The canonical form of a byte list. -/
def cellsWf (cs : List Host.Cell) : Bool := cellsAbove none cs

/-- The canonical form of memory: byte lists canonical, poisoned sectors strictly rising (DESIGN CHOICE, log 2). -/
def Memory.wf (m : Memory) : Bool := cellsWf m.hbm && cellsWf m.scr && rising m.hbmPoison && rising m.scrPoison

/-! Poison and keys of HBM sectors -/

/-- Sets or clears a sector in a poison list. -/
def markSector (l : List Nat) (sec : Nat) (p : Bool) : List Nat := if p then insertNat sec l else l.filter (· != sec)

/-- The identity of the key that the n-th boot loads into slot 0 (R412, R414): odd numbers, those of software's keys being even. -/
def bootKeyId (n : Nat) : Nat := 2 * n + 1

/-- The key now in a slot, if it is loaded (R158). -/
def Memory.keyOf (m : Memory) (slot : Nat) : Option Nat := (m.keys.find? (·.1 == slot)).map (·.2)

/-- The slot of an access whose slot has been unloaded or loaded anew meanwhile (R158, R416): no slot has this number. -/
def noSlot : Nat := 128

/-- The key used by an access through a slot that has been checked to be loaded. -/
def Memory.key (m : Memory) (slot : Nat) : Nat := (m.keyOf slot).getD (bootKeyId 0)

/-- The key a sector was last written under; the first boot's key where nothing is recorded (DESIGN CHOICE, log 13). -/
def Memory.writtenKey (m : Memory) (sec : Nat) : Nat := ((m.keyed.find? (·.1 == sec)).map (·.2)).getD (bootKeyId 0)

/-- The bytes a sector holds, as written (DESIGN CHOICE, log 13). -/
def Memory.rawSector (m : Memory) (sec : Nat) : BitVec 256 :=
  BitVec.ofNat 256 (leNat ((upTo 32).map fun i => cellRead m.hbm (sec * 32 + i)))

/-- A sector read under a key: its plaintext, or a fixed unrelated value under any other key (R158, DESIGN CHOICE, log 13). -/
def Memory.sector (m : Memory) (key sec : Nat) : BitVec 256 :=
  let w := m.writtenKey sec
  if w = key then m.rawSector sec else Config.scramble sec w key (m.rawSector sec)

/-- One HBM byte read under a key. -/
def Memory.hbmByte (m : Memory) (key a : Nat) : Byte :=
  if m.writtenKey (a / 32) = key then cellRead m.hbm a else (m.sector key (a / 32)).extractLsb' (8 * (a % 32)) 8

/-- n HBM bytes from physical offset a on, under a key. -/
def Memory.hbmBytes (m : Memory) (key a n : Nat) : List Byte := (upTo n).map fun i => m.hbmByte key (a + i)

/-- Poison of a sector (R169). -/
def Memory.sectorPoison (m : Memory) (sec : Nat) : Bool := m.hbmPoison.contains sec

/-- The sectors that n bytes at a touch. -/
def sectorsOf (a n : Nat) : List Nat := if n = 0 then [] else (upTo ((a + n - 1) / 32 - a / 32 + 1)).map (· + a / 32)

/-- Whether a range touches a poisoned sector. -/
def Memory.rangePoison (m : Memory) (a n : Nat) : Bool := (sectorsOf a n).any m.sectorPoison

/-! Banks and rows (R152, R163) -/

/-- STACK of a physical offset (R152). -/
def paStack (a : Nat) : Nat := natField a 36 4
/-- ROW of a physical offset (R152). -/
def paRow (a : Nat) : Nat := natField a 20 16
/-- The bank of a physical offset: stack, pseudo-channel and bank as one number. -/
def paBank (a : Nat) : Nat := paStack a * 1024 + natField a 10 6 * 16 + natField a 16 4
/-- The die local to a stack (R10). -/
def dieOfStack (stack : Nat) : Nat := stack / 3
/-- A physical offset's fields are valid: [43:40] zero and a stack below 12 (R152). -/
def paOk (a : Nat) : Bool := natField a 40 4 == 0 && decide (paStack a < 12)

/-- SLOTS in force for a stack (R163, R164). -/
def Memory.slotsOf (m : Memory) (stack : Nat) : Nat := (m.dies[dieOfStack stack % 4]'(Nat.mod_lt _ (by decide))).slots

/-- A row is a promote slot (R163). -/
def Memory.isSlotRow (m : Memory) (a : Nat) : Bool :=
  decide (paRow a < 4096) && decide (4096 - m.slotsOf (paStack a) ≤ paRow a)

/-- A write to a line of a promoted block: the die cache holds the line dirty (R447). -/
def Memory.dirtyBank (m : Memory) (a : Nat) : Memory :=
  if m.banks.isEmpty then m
  else { m with banks := m.banks.map fun b => if b.num = paBank a then
      { b with promos := b.promos.map fun p =>
        if p.row = paRow a then { p with cached := p.cached ||| BitVec.ofNat 16 (2 ^ (a / 64 % 16)) } else p } else b }

/-- Replaces one key record. -/
def setKeyed (l : List (Nat × Nat)) (sec key : Nat) : List (Nat × Nat) :=
  let rest := l.filter (·.1 != sec)
  if key = bootKeyId 0 then rest else (sec, key) :: rest

/-- Writes bytes of one sector, given as (offset, byte), under a key. A sector written before under another key first takes
the value that key reads (R158). Poison follows R169: set by poisoned data, cleared by a clean write of all 32 bytes. -/
def Memory.writeSector (m : Memory) (key sec : Nat) (l : List (Nat × Byte)) (p : Bool) : Memory :=
  let base := if m.writtenKey sec = key ∨ l.length = 32 then m.hbm
    else cellWrites m.hbm ((upTo 32).map fun i => (sec * 32 + i, m.hbmByte key (sec * 32 + i)))
  let m := m.dirtyBank (sec * 32)
  { m with
    hbm := cellWrites base (l.map fun x => (sec * 32 + x.1, x.2))
    fwd := m.fwd ++ [(sec, packBits fun i => l.any fun x => x.1 == i)]
    keyed := if m.writtenKey sec = key then m.keyed else setKeyed m.keyed sec key
    hbmPoison := if p then markSector m.hbmPoison sec true
      else if l.length = 32 then markSector m.hbmPoison sec false else m.hbmPoison }

/-- The bytes of a list that fall in one sector, as (offset, byte). -/
def bytesIn (sec a : Nat) (l : List Byte) : List (Nat × Byte) :=
  (upTo 32).filterMap fun i => if a ≤ sec * 32 + i then (l[sec * 32 + i - a]?).map (fun b => (i, b)) else none

/-- Writes a byte list at physical offset a, sector by sector, all with one poison (R169). -/
def Memory.hbmWrite (m : Memory) (key a : Nat) (l : List Byte) (p : Bool) : Memory :=
  (sectorsOf a l.length).foldl (fun m sec => m.writeSector key sec (bytesIn sec a l) p) m

/-- An access of the die cache's own agents to a byte range of a line ends an ingress lease (R172). -/
def Memory.endLeases (m : Memory) (a n : Nat) : Memory :=
  { m with leases := m.leases.filter fun l => !(decide (l * 64 < a + n) && decide (a < l * 64 + 64)) }

/-- Poisons a sector without changing its bytes. -/
def Memory.poisonSector (m : Memory) (sec : Nat) : Memory := { m with hbmPoison := markSector m.hbmPoison sec true }

/-! Scratchpads (R160) -/

/-- Bytes of one core's scratchpad. -/
def scrSize : Nat := 2097152
/-- The key of a scratchpad byte in the scratchpad list. -/
def scrAt (core off : Nat) : Nat := core * scrSize + off

/-- n scratchpad bytes. -/
def Memory.scrBytes (m : Memory) (core off n : Nat) : List Byte := (upTo n).map fun i => cellRead m.scr (scrAt core off + i)
/-- Poison of a scratchpad range. -/
def Memory.scrRangePoison (m : Memory) (core off n : Nat) : Bool := (sectorsOf (scrAt core off) n).any m.scrPoison.contains

/-- Writes bytes of one scratchpad sector. -/
def Memory.writeScrSector (m : Memory) (sec : Nat) (l : List (Nat × Byte)) (p : Bool) : Memory :=
  { m with
    scr := cellWrites m.scr (l.map fun x => (sec * 32 + x.1, x.2))
    scrPoison := if p then markSector m.scrPoison sec true
      else if l.length = 32 then markSector m.scrPoison sec false else m.scrPoison }

/-- Writes a byte list to a core's scratchpad with one poison (R169). -/
def Memory.scrWrite (m : Memory) (core off : Nat) (l : List Byte) (p : Bool) : Memory :=
  (sectorsOf (scrAt core off) l.length).foldl (fun m sec => m.writeScrSector sec (bytesIn sec (scrAt core off) l) p) m

/-! The L1 of a core (R161) -/

/-- The line of a core for a physical line. -/
def Memory.l1Find (m : Memory) (core line : Nat) : Option L1Line := m.l1.find? fun x => x.core == core && x.line == line

/-- Puts a line in place of any line of the same core and address. -/
def Memory.l1Put (m : Memory) (x : L1Line) : Memory :=
  { m with l1 := x :: m.l1.filter fun y => !(y.core == x.core && y.line == x.line) }

/-- Drops a line without writing anything back. -/
def Memory.l1Discard (m : Memory) (core line : Nat) : Memory :=
  { m with l1 := m.l1.filter fun y => !(y.core == core && y.line == line) }

/-- The dirty bytes of half h of a line, as (offset, byte). -/
def L1Line.dirtyBytes (x : L1Line) (h : Nat) : List (Nat × Byte) :=
  (upTo 32).filterMap fun i => if x.dirty.getLsbD (h * 32 + i) then some (i, elem 8 x.data (h * 32 + i)) else none

/-- Writes some dirty bytes of half h of a line back. -/
def Memory.backPart (m : Memory) (x : L1Line) (h : Nat) (l : List (Nat × Byte)) : Memory :=
  if l.isEmpty then m else (m.endLeases (x.line * 64) 64).writeSector x.key (x.line * 2 + h) l (x.poison.getLsbD h)

/-- Writes the dirty bytes of a line back, with the poison of the sectors that hold them (R161). Clean stores of parts of a sector leave
its poison unchanged, though together they may cover it (R169). -/
def Memory.l1Back (m : Memory) (x : L1Line) : Memory :=
  (upTo 2).foldl (fun m h =>
    let l := x.dirtyBytes h
    if x.whole.getLsbD h then m.backPart x h l else (m.backPart x h (l.take 16)).backPart x h (l.drop 16)) m

/-- Writes a line back and keeps it, clean. -/
def Memory.l1Clean (m : Memory) (core line : Nat) : Memory :=
  match m.l1Find core line with
  | none => m
  | some x => if x.dirty = 0 then m else (m.l1Back x).l1Put { x with dirty := 0, whole := 0 }

/-- Writes a line back and drops it (DEDUCED, log 15) (DEDUCED, log 18). -/
def Memory.l1Evict (m : Memory) (core line : Nat) : Memory :=
  match m.l1Find core line with
  | none => m
  | some x => (if x.dirty = 0 then m else m.l1Back x).l1Discard core line

/-- Lines that a core's L1 of 64 KiB holds (R14). -/
def l1Lines : Nat := 1024

/-- Room for a line in a core's L1: where the L1 is full and does not hold it, the line filled or written longest ago is evicted
(DESIGN CHOICE, log 55). -/
def Memory.l1Room (m : Memory) (core line : Nat) : Memory :=
  let own := m.l1.filter fun x => x.core == core
  if own.length < l1Lines ∨ (m.l1Find core line).isSome then m
  else match own.getLast? with
    | none => m
    | some x => m.l1Evict core x.line

/-- The line of a core under a key: one held under another key is written back and dropped first (DEDUCED, log 15). -/
def Memory.l1Under (m : Memory) (core line key : Nat) : Memory :=
  match m.l1Find core line with
  | none => m
  | some x => if x.key = key then m else m.l1Evict core line

/-- Brings a line's invalid bytes from the die cache, and the poison of the sectors whose poison is not known here (R161). -/
def Memory.l1Fill (m : Memory) (core line key : Nat) (asid : Asid) (vline : Nat) : Memory :=
  let m := ((m.l1Under core line key).l1Room core line).endLeases (line * 64) 64
  let old : L1Line := (m.l1Find core line).getD ⟨core, line, asid, vline, key, 0, 0, 0, 0, 0, 0⟩
  if old.valid = BitVec.allOnes 64 ∧ old.known = BitVec.allOnes 2 then m
  else m.l1Put { old with
    asid := asid, vline := vline, valid := BitVec.allOnes 64
    data := pack 8 fun i => if old.valid.getLsbD i then elem 8 old.data i else m.hbmByte key (line * 64 + i)
    poison := packBits fun h => old.poison.getLsbD h || (!old.known.getLsbD h && m.sectorPoison (line * 2 + h))
    known := BitVec.allOnes 2 }

/-- The L1 with what n bytes of one sector need: their line under its key, filled where a byte is invalid or the poison unknown (R161)
(DEDUCED, log 15). -/
def Memory.l1Brought (m : Memory) (core : Nat) (asid : Asid) (va a key n : Nat) : Memory :=
  let m := m.l1Under core (a / 64) key
  let need := fun (x : L1Line) => x.known.getLsbD (a / 32 % 2) && (upTo n).all fun i => x.valid.getLsbD (a % 64 + i)
  if (m.l1Find core (a / 64)).any need then m else m.l1Fill core (a / 64) key asid (va / 64)

/-- A load through the L1: n bytes that lie in one sector. Returns them, the sector's poison and the memory after the fill. -/
def Memory.l1Load (m : Memory) (core : Nat) (asid : Asid) (va a key n : Nat) : List Byte × Bool × Memory :=
  let m := m.l1Brought core asid va a key n
  match m.l1Find core (a / 64) with
  | none => ([], false, m)
  | some x => ((upTo n).map fun i => elem 8 x.data (a % 64 + i), x.poison.getLsbD (a / 32 % 2), m)

/-- A store through the L1 of bytes of one sector, given as (offset in the sector, byte) (R161, R169) (DEDUCED, log 15). -/
def Memory.l1Store (m : Memory) (core : Nat) (asid : Asid) (vline sec key : Nat) (l : List (Nat × Byte)) (p : Bool) : Memory :=
  let line := sec / 2
  let h := sec % 2
  let m := (m.l1Under core line key).l1Room core line
  let old : L1Line := (m.l1Find core line).getD ⟨core, line, asid, vline, key, 0, 0, 0, 0, 0, 0⟩
  let hit := fun (i : Nat) => (l.find? fun x => h * 32 + x.1 == i).map (·.2)
  m.l1Put { old with
    asid := asid, vline := vline
    valid := packBits fun i => old.valid.getLsbD i || (hit i).isSome
    dirty := packBits fun i => old.dirty.getLsbD i || (hit i).isSome
    data := pack 8 fun i => (hit i).getD (elem 8 old.data i)
    poison := packBits fun k => if k = h then p || (old.poison.getLsbD k && l.length != 32) else old.poison.getLsbD k
    known := packBits fun k => old.known.getLsbD k || (k == h && (p || l.length == 32))
    whole := packBits fun k => old.whole.getLsbD k || (k == h && !p && l.length == 32) }

/-- Applies an action to every line of a core that a test picks. -/
def Memory.l1ForEach (m : Memory) (core : Nat) (pick : L1Line → Bool) (act : Memory → Nat → Nat → Memory) : Memory :=
  (m.l1.filter fun x => x.core == core && pick x).foldl (fun m x => act m core x.line) m

/-- The lines of a core's L1 that hold dirty bytes. -/
def Memory.l1Dirty (m : Memory) (core : Nat) : List Nat := (m.l1.filter fun x => x.core == core && x.dirty != 0).map fun x => x.line

/-- Writes back every dirty byte of a core's L1 (R285). -/
def Memory.l1CleanAll (m : Memory) (core : Nat) : Memory := m.l1ForEach core (fun _ => true) Memory.l1Clean
/-- Invalidates every line of a core's L1, dirty bytes first written back (R285). -/
def Memory.l1EvictAll (m : Memory) (core : Nat) : Memory := m.l1ForEach core (fun _ => true) Memory.l1Evict
/-- Invalidates every clean line of a core's L1 (R285, task start). -/
def Memory.l1DropClean (m : Memory) (core : Nat) : Memory := m.l1ForEach core (fun x => x.dirty == 0) Memory.l1Discard

/-- R252: at a transfer's completion the issuing core drops every line that overlaps the destination; dirty bytes outside
the destination are written back first, those inside are discarded. -/
def Memory.l1DropAll (m : Memory) (core : Nat) (w : List (Nat × Nat)) : Memory :=
  let inside := fun (i : Nat) => w.any fun r => decide (r.1 ≤ i) && decide (i < r.1 + r.2)
  (m.l1.filter fun x => x.core == core && (upTo 64).any fun i => inside (x.line * 64 + i)).foldl
    (fun m x =>
      let keep : BitVec 64 := packBits fun i => x.dirty.getLsbD i && !inside (x.line * 64 + i)
      (if keep = 0 then m else m.l1Back { x with dirty := keep }).l1Discard core x.line) m
/-- The same for one range. -/
def Memory.l1DropFor (m : Memory) (core a n : Nat) : Memory := m.l1DropAll core [(a, n)]

/-- Whether a line record overlaps a virtual range of an address space (R284). -/
def L1Line.overlaps (x : L1Line) (asid : Asid) (base len : Nat) : Bool :=
  x.asid == asid && decide (x.vline * 64 < base + len) && decide (base < x.vline * 64 + 64) && decide (0 < len)

/-! The instruction cache of a core (R14, R458) -/

/-- Lines that a core's instruction cache of 64 KiB holds (R14). -/
def codeLines : Nat := 1024

/-- The line of a core's instruction cache for a physical line and key. -/
def Memory.codeFind (m : Memory) (core line key : Nat) : Option CodeLine :=
  m.code.find? fun x => x.core == core && x.line == line && x.key == key

/-- Drops a line of a core's instruction cache. -/
def Memory.codeDrop (m : Memory) (core line : Nat) : Memory :=
  { m with code := m.code.filter fun x => !(x.core == core && x.line == line) }

/-- Takes a line into a core's instruction cache; where it is full, the line fetched first of those not pinned goes (R117)
(DESIGN CHOICE, log 48). -/
def Memory.codePut (m : Memory) (x : CodeLine) (pinned : CodeLine → Bool) : Memory :=
  let m := m.codeDrop x.core x.line
  let own := m.code.filter fun y => y.core == x.core
  let m := if own.length < codeLines then m
    else match (own.filter fun y => !pinned y).getLast? with
      | none => m
      | some y => m.codeDrop y.core y.line
  { m with code := x :: m.code }

end Sys2Proof.Machine
end

