-- ==== Sys2Proof/Machine/Landing.lean ====
section
/-!
DEFINITION. Ranges cut at multiples of 32, and data that lands in 32-byte pieces in any order (R252, R387).
-/

namespace Sys2Proof.Machine

/-- Part k of the range [a, a + n) cut at multiples of 32: offset from a and length. -/
def runAt (a n k : Nat) : Nat × Nat :=
  let lo := max a ((a / 32 + k) * 32)
  (lo - a, min (a + n) ((a / 32 + k + 1) * 32) - lo)
/-- How many parts [a, a + n) has. -/
def runCount (a n : Nat) : Nat := (sectorsOf a n).length
/-- All parts. -/
def runs (a n : Nat) : List (Nat × Nat) := (upTo (runCount a n)).map (runAt a n)

/-- Cuts bytes that start at an address at multiples of 32, with the offset of each part; `n` is their number. -/
def cutParts (a off : Nat) : Nat → List (Byte × Bool) → List (Nat × List (Byte × Bool))
  | 0, _ => []
  | n + 1, l =>
    if l.isEmpty then []
    else
      let k := 32 - (a + off) % 32
      (off, l.take k) :: cutParts a (off + k) n (l.drop k)

/-- Bytes arrive for an offset of a destination at address a; they stand in place of earlier ones. -/
def Landing.arrive (x : Landing) (a off : Nat) (l : List (Byte × Bool)) : Landing := { x with got := cutParts a off l.length l ++ x.got }

/-- Joins the parts that hold bytes [pos, stop) of a destination; none while some are missing. -/
def joinParts (got : List (Nat × List (Byte × Bool))) (stop : Nat) : Nat → Nat → Option (List (Byte × Bool))
  | 0, pos => if stop ≤ pos then some [] else none
  | n + 1, pos =>
    if stop ≤ pos then some []
    else match got.find? (·.1 == pos) with
      | none => none
      | some g => if g.2.isEmpty then none else (joinParts got stop n (pos + g.2.length)).map (g.2 ++ ·)

/-- Piece k of n bytes at address a, if it has arrived and is not yet written. -/
def Landing.piece (x : Landing) (a n k : Nat) : Option (List (Byte × Bool)) :=
  let r := runAt a n k
  if x.landed.contains k || decide (runCount a n ≤ k) then none else joinParts x.got (r.1 + r.2) 32 r.1

/-- A piece has been written. -/
def Landing.wrote (x : Landing) (a n k : Nat) : Landing :=
  let r := runAt a n k
  ⟨x.got.filter fun g => !(decide (r.1 ≤ g.1) && decide (g.1 < r.1 + r.2)), k :: x.landed⟩

/-- Every piece has been written. -/
def Landing.done (x : Landing) (a n : Nat) : Bool := decide (runCount a n ≤ x.landed.length)

/-- Bytes whose values are free (DESIGN CHOICE, log 3), poisoned (DEDUCED, log 21). -/
def State.freePoison (s : State) (n : Nat) : State × List (Byte × Bool) :=
  ({ s with fresh := s.fresh + 1 }, (natBytes n (Config.choice s.fresh)).map fun b => (b, true))

end Sys2Proof.Machine
end

