-- ==== Sys2Proof/WellFormed.lean ====
section
/-!
DEFINITION. Which instructions are well formed: the checks of R33 that need the word alone. `typeOk` is step 2 (a type
code the opcode does not accept: ILLEGAL_INSTRUCTION), `fieldsOk` and `tokOk` are step 3 (RESERVED_FIELD). Checks that
need the context (its allocation, its registers' values) are made when the word executes.
-/

namespace Sys2Proof

/-- The token bits an engine's words may carry (R31). -/
def tokLegal : Engine → Tok → Bool
  | .S, t => !t.wf && !t.pb
  | .L, _ | .M, _ | .V, _ => true
  | .W, t => !t.pf && !t.wb
  | .N, t | .Y, t | .A, t => !t.wf && !t.pf && !t.wb && !t.pb

/-- Tiles 96 to 127 are refused (R29). -/
def tileOk (t : TileNo) : Bool := decide (t.toNat ≤ 95)

/-- A register pair is even and from s2 to s30 (R221). -/
def pairOk (r : SReg) : Bool := r.toNat % 2 == 0 && decide (2 ≤ r.toNat)

/-- The shared literal fields of a product word (R226): KLEN is not 0, SC is 0 without scales, integers take none. -/
def prodOk (ty : MTy) (tile : TileNo) (k : KLen) (g : Gran) (sc : SReg) : Bool :=
  tileOk tile && k != 0 && (g != .none || sc == 0) && (g == .none || !ty.isInt)

/-- The register groups of MMA end at v31 or below (R220). -/
def mmaOk (ty : MTy) (a b : VReg) (k : KLen) : Bool :=
  let n := (k.toNat + ty.perReg - 1) / ty.perReg
  decide (a.toNat + n ≤ 32) && decide (b.toNat + n ≤ 32)

/-- Scope codes 110 and 111 are refused (R271). -/
def scopeOk (s : Scope3) : Bool := decide (s.toNat ≤ 5)

/-- The type checks of VCVT (R200, R201). -/
def cvtTypeOk (ty : VTy) (other : NFmt) : Bool := other != ty.fmt && (cvtRatio ty.fmt other).isSome

/-- A group of n registers starts at a multiple of n (R89). -/
def groupOk (r : VReg) (n : Nat) : Bool := r.toNat % n == 0

/-- Source and destination of VCVT: DIR 0 converts from T (R200). -/
def cvtSides (ty : VTy) (other : NFmt) (dir : Bool) : NFmt × NFmt := if dir then (other, ty.fmt) else (ty.fmt, other)

/-- The group starts of VCVT (R89, R201). -/
def cvtFieldsOk (ty : VTy) (other : NFmt) (d a : VReg) (dir : Bool) : Bool :=
  let (src, dst) := cvtSides ty other dir
  let (gs, gd) := cvtGroups src dst
  groupOk a gs && groupOk d gd

/-- The type checks of VQUANT and VDEQUANT (R203, R204). -/
def quantTypeOk (ty : VTy) (other : NFmt) : Bool := ty.isFloat && other.isNarrow && (cvtRatio ty.fmt other).isSome

/-- VQUANT: the source group starts at a multiple of k, and under `.b48` vB overlaps neither vD nor the group (R203). -/
def quantFieldsOk (ty : VTy) (other : NFmt) (d a b : VReg) (tensor : Bool) : Bool :=
  let gs := (cvtGroups ty.fmt other).1
  groupOk a gs && (tensor || (b != d && (decide (b.toNat < a.toNat) || decide (a.toNat + gs ≤ b.toNat))))

/-- VDEQUANT: the destination group starts at a multiple of k (R204). -/
def dequantFieldsOk (ty : VTy) (other : NFmt) (d : VReg) : Bool := groupOk d (cvtGroups other ty.fmt).2

/-- Step 2 of R33 for the type code of a word. -/
def Instr.typeOk : Instr → Bool
  | .vdiv _ ty _ _ _ => ty.isFloat
  | .vminu _ ty _ _ _ => ty.isInt
  | .vmaxu _ ty _ _ _ => ty.isInt
  | .vadds _ ty _ _ _ => ty.isInt
  | .vaddsu _ ty _ _ _ => ty.isInt
  | .vsubs _ ty _ _ _ => ty.isInt
  | .vsubsu _ ty _ _ _ => ty.isInt
  | .vmulh _ ty _ _ _ => ty.isInt
  | .vmulhu _ ty _ _ _ => ty.isInt
  | .vand _ ty _ _ _ => ty.isInt
  | .vor _ ty _ _ _ => ty.isInt
  | .vxor _ ty _ _ _ => ty.isInt
  | .vandn _ ty _ _ _ => ty.isInt
  | .vshl _ ty _ _ _ => ty.isInt
  | .vshrl _ ty _ _ _ => ty.isInt
  | .vshra _ ty _ _ _ => ty.isInt
  | .vcmpltu _ ty _ _ _ => ty.isInt
  | .vcmpleu _ ty _ _ _ => ty.isInt
  | .vcmpun _ ty _ _ _ => ty.isFloat
  | .vcvt _ ty _ _ _ _ _ other => cvtTypeOk ty other
  | .vquant _ ty _ _ _ _ _ _ other => quantTypeOk ty other
  | .vdequant _ ty _ _ _ _ _ _ other => quantTypeOk ty other
  | .vrcp _ ty _ _ => ty.isFloat
  | .vrsq _ ty _ _ => ty.isFloat
  | .vexp2 _ ty _ _ => ty.isFloat
  | .vlog2 _ ty _ _ => ty.isFloat
  | .vtanh _ ty _ _ => ty.isFloat
  | .vsqrt _ ty _ _ => ty.isFloat
  | _ => true

/-- Step 3 of R33 for the operand fields of a word. -/
def Instr.fieldsOk : Instr → Bool
  | .fcvtfi _ _ _ _ _ rm => rm != .sr
  | .fcvtif _ _ _ _ _ rm => rm != .sr
  | .ldg _ _ _ _ m => m != 7
  | .ldgw _ _ _ m _ => m != 7
  | .lds _ _ _ _ m => m != 7
  | .copya _ tile _ _ _ => tileOk tile
  | .mma _ ty tile a b _ k g sc => prodOk ty tile k g sc && mmaOk ty a b k
  | .mmas _ ty tile a b _ k g sc => prodOk ty tile k g sc && pairOk a && pairOk b
  | .mmaq _ ty tile a b _ k g sc _ => prodOk ty tile k g sc && pairOk a && pairOk b
  | .mmar _ ty tile a b _ k g sc => prodOk ty tile k g sc && pairOk a && pairOk b
  | .mgrp _ ty tile a b _ k g sc _ _ => prodOk ty tile k g sc && pairOk a && pairOk b
  | .mncfg _ l _ _ _ _ => decide (l.toNat ≤ 5)
  | .mnest _ n => decide (1 ≤ n.toNat && n.toNat ≤ 6)
  | .mzero _ tile nm1 => decide (tile.toNat + nm1.toNat ≤ 95)
  | .mtov _ tile _ _ => tileOk tile
  | .mfromv _ tile _ _ _ => tileOk tile
  | .mstore _ tile a _ => tileOk tile && pairOk a
  | .mloadacc _ tile a => tileOk tile && pairOk a
  | .vmlog _ op _ _ b => (op != .not || b == 0)
  | .vcvt _ ty d a _ _ dir other => cvtFieldsOk ty other d a dir
  | .vquant _ ty d a b tensor _ _ other => quantFieldsOk ty other d a b tensor
  | .vdequant _ ty d _ _ _ _ _ other => dequantFieldsOk ty other d
  | .vgath _ d _ b _ => d != b
  | .vgathg _ d _ b _ => d != b
  | .vatom _ _ d _ b => d != b
  | .phreg mode _ s => mode != 0 && scopeOk s
  | .phdrop _ s => scopeOk s
  | .phsig _ s => scopeOk s
  | .phwait _ s => scopeOk s
  | .phnext _ s => scopeOk s
  | .phexpb _ _ s => scopeOk s
  | .phq _ _ s => scopeOk s
  | .unbind a all => (!all || a == 0)
  | .fence fl s => fl != 0 && scopeOk s
  | .yleave n => n != 0
  | .prep _ lit => lit.extractLsb' 0 2 == 0
  | .brDnz _ s => s != 0
  | .brlDnz _ s => s != 0
  | _ => true

/-- Step 3 of R33 for the token bits of a word (R31). -/
def Instr.tokOk : Instr → Bool
  | .add t _ _ _ => tokLegal .S t
  | .sub t _ _ _ => tokLegal .S t
  | .and t _ _ _ => tokLegal .S t
  | .or t _ _ _ => tokLegal .S t
  | .xor t _ _ _ => tokLegal .S t
  | .andn t _ _ _ => tokLegal .S t
  | .shl t _ _ _ => tokLegal .S t
  | .shrl t _ _ _ => tokLegal .S t
  | .shra t _ _ _ => tokLegal .S t
  | .rotr t _ _ _ => tokLegal .S t
  | .min t _ _ _ => tokLegal .S t
  | .max t _ _ _ => tokLegal .S t
  | .minu t _ _ _ => tokLegal .S t
  | .maxu t _ _ _ => tokLegal .S t
  | .clz t _ _ => tokLegal .S t
  | .ctz t _ _ => tokLegal .S t
  | .popc t _ _ => tokLegal .S t
  | .mul t _ _ _ => tokLegal .S t
  | .mulh t _ _ _ => tokLegal .S t
  | .mulhu t _ _ _ => tokLegal .S t
  | .div t _ _ _ => tokLegal .S t
  | .divu t _ _ _ => tokLegal .S t
  | .rem t _ _ _ => tokLegal .S t
  | .remu t _ _ _ => tokLegal .S t
  | .sel t _ _ _ _ => tokLegal .S t
  | .addi t _ _ => tokLegal .S t
  | .andi t _ _ => tokLegal .S t
  | .ori t _ _ => tokLegal .S t
  | .xori t _ _ => tokLegal .S t
  | .shli t _ _ => tokLegal .S t
  | .shrli t _ _ => tokLegal .S t
  | .shrai t _ _ => tokLegal .S t
  | .movi t _ _ => tokLegal .S t
  | .movw t _ _ => tokLegal .S t
  | .movhw t _ _ => tokLegal .S t
  | .cmpeq t _ _ _ => tokLegal .S t
  | .cmpne t _ _ _ => tokLegal .S t
  | .cmplt t _ _ _ => tokLegal .S t
  | .cmple t _ _ _ => tokLegal .S t
  | .cmpltu t _ _ _ => tokLegal .S t
  | .cmpleu t _ _ _ => tokLegal .S t
  | .pand t _ _ _ => tokLegal .S t
  | .por t _ _ _ => tokLegal .S t
  | .pxor t _ _ _ => tokLegal .S t
  | .pandn t _ _ _ => tokLegal .S t
  | .fadd t _ _ _ => tokLegal .S t
  | .fsub t _ _ _ => tokLegal .S t
  | .fmul t _ _ _ => tokLegal .S t
  | .fdiv t _ _ _ => tokLegal .S t
  | .ffma t _ _ _ => tokLegal .S t
  | .fmin t _ _ _ => tokLegal .S t
  | .fmax t _ _ _ => tokLegal .S t
  | .fsqrt t _ _ => tokLegal .S t
  | .fcmpeq t _ _ _ => tokLegal .S t
  | .fcmplt t _ _ _ => tokLegal .S t
  | .fcmple t _ _ _ => tokLegal .S t
  | .fcvtfi t _ _ _ _ _ => tokLegal .S t
  | .fcvtif t _ _ _ _ _ => tokLegal .S t
  | .gets t _ _ => tokLegal .S t
  | .sets t _ _ => tokLegal .S t
  | .ldg t _ _ _ _ => tokLegal .S t
  | .ldgw t _ _ _ _ => tokLegal .S t
  | .stg t _ _ _ _ => tokLegal .S t
  | .stgw t _ _ _ _ => tokLegal .S t
  | .lds t _ _ _ _ => tokLegal .S t
  | .sts t _ _ _ _ => tokLegal .S t
  | .amo t _ _ _ _ => tokLegal .S t
  | .amos t _ _ _ _ => tokLegal .S t
  | .promote t _ _ => tokLegal .S t
  | .demote t _ _ => tokLegal .S t
  | .rstf t _ _ _ _ => tokLegal .S t
  | .copyIn t _ _ _ _ _ => tokLegal .L t
  | .copytIn t _ _ _ _ _ => tokLegal .L t
  | .copym t _ _ _ _ _ => tokLegal .L t
  | .copya t _ _ _ _ => tokLegal .L t
  | .gath t _ _ _ _ _ => tokLegal .L t
  | .pref t _ _ => tokLegal .L t
  | .rloadb t _ _ _ _ _ => tokLegal .L t
  | .stread t _ _ _ _ _ => tokLegal .L t
  | .netrd t _ _ _ _ _ => tokLegal .L t
  | .copyOut t _ _ _ _ _ => tokLegal .W t
  | .copytOut t _ _ _ _ _ => tokLegal .W t
  | .scat t _ _ _ _ _ => tokLegal .W t
  | .copyf t _ _ _ _ => tokLegal .W t
  | .rred t _ _ _ _ _ => tokLegal .W t
  | .stwrite t _ _ _ _ _ => tokLegal .W t
  | .netwr t _ _ _ _ _ => tokLegal .W t
  | .mma t _ _ _ _ _ _ _ _ => tokLegal .M t
  | .mmas t _ _ _ _ _ _ _ _ => tokLegal .M t
  | .mmaq t _ _ _ _ _ _ _ _ _ => tokLegal .M t
  | .mmar t _ _ _ _ _ _ _ _ => tokLegal .M t
  | .mgrp t _ _ _ _ _ _ _ _ _ _ => tokLegal .M t
  | .mncfg t _ _ _ _ _ => tokLegal .M t
  | .mnest t _ => tokLegal .M t
  | .mzero t _ _ => tokLegal .M t
  | .mtov t _ _ _ => tokLegal .M t
  | .mfromv t _ _ _ _ => tokLegal .M t
  | .mstore t _ _ _ => tokLegal .M t
  | .mloadacc t _ _ => tokLegal .M t
  | .vadd t _ _ _ _ => tokLegal .V t
  | .vsub t _ _ _ _ => tokLegal .V t
  | .vmul t _ _ _ _ => tokLegal .V t
  | .vfma t _ _ _ _ => tokLegal .V t
  | .vdiv t _ _ _ _ => tokLegal .V t
  | .vmin t _ _ _ _ => tokLegal .V t
  | .vmax t _ _ _ _ => tokLegal .V t
  | .vminu t _ _ _ _ => tokLegal .V t
  | .vmaxu t _ _ _ _ => tokLegal .V t
  | .vabs t _ _ _ => tokLegal .V t
  | .vneg t _ _ _ => tokLegal .V t
  | .vadds t _ _ _ _ => tokLegal .V t
  | .vaddsu t _ _ _ _ => tokLegal .V t
  | .vsubs t _ _ _ _ => tokLegal .V t
  | .vsubsu t _ _ _ _ => tokLegal .V t
  | .vmulh t _ _ _ _ => tokLegal .V t
  | .vmulhu t _ _ _ _ => tokLegal .V t
  | .vand t _ _ _ _ => tokLegal .V t
  | .vor t _ _ _ _ => tokLegal .V t
  | .vxor t _ _ _ _ => tokLegal .V t
  | .vandn t _ _ _ _ => tokLegal .V t
  | .vshl t _ _ _ _ => tokLegal .V t
  | .vshrl t _ _ _ _ => tokLegal .V t
  | .vshra t _ _ _ _ => tokLegal .V t
  | .vcmpeq t _ _ _ _ => tokLegal .V t
  | .vcmpne t _ _ _ _ => tokLegal .V t
  | .vcmplt t _ _ _ _ => tokLegal .V t
  | .vcmple t _ _ _ _ => tokLegal .V t
  | .vcmpltu t _ _ _ _ => tokLegal .V t
  | .vcmpleu t _ _ _ _ => tokLegal .V t
  | .vcmpun t _ _ _ _ => tokLegal .V t
  | .vsel t _ _ _ _ => tokLegal .V t
  | .vmsel t _ => tokLegal .V t
  | .vmlog t _ _ _ _ => tokLegal .V t
  | .vcvt t _ _ _ _ _ _ _ => tokLegal .V t
  | .vquant t _ _ _ _ _ _ _ _ => tokLegal .V t
  | .vdequant t _ _ _ _ _ _ _ _ => tokLegal .V t
  | .vrcp t _ _ _ => tokLegal .V t
  | .vrsq t _ _ _ => tokLegal .V t
  | .vexp2 t _ _ _ => tokLegal .V t
  | .vlog2 t _ _ _ => tokLegal .V t
  | .vtanh t _ _ _ => tokLegal .V t
  | .vsqrt t _ _ _ => tokLegal .V t
  | .vredadd t _ _ _ => tokLegal .V t
  | .vredmax t _ _ _ => tokLegal .V t
  | .vredmin t _ _ _ => tokLegal .V t
  | .vperm t _ _ _ _ => tokLegal .V t
  | .vbcast t _ _ _ => tokLegal .V t
  | .vins t _ _ _ _ => tokLegal .V t
  | .vext t _ _ _ _ => tokLegal .V t
  | .vlds t _ _ _ _ => tokLegal .V t
  | .vsts t _ _ _ _ => tokLegal .V t
  | .vgath t _ _ _ _ => tokLegal .V t
  | .vldg t _ _ _ _ => tokLegal .V t
  | .vstg t _ _ _ _ => tokLegal .V t
  | .vgathg t _ _ _ _ => tokLegal .V t
  | .vatom t _ _ _ _ => tokLegal .V t
  | _ => true

/-- A well-formed instruction passes steps 2 and 3 of R33; an event always does. -/
def Instr.wellFormed (i : Instr) : Bool := i.typeOk && i.fieldsOk && i.tokOk

end Sys2Proof
end

