-- ==== Sys2Proof/Decode.lean ====
section
/-!
DEFINITION. Instruction words to instructions and back (R27 to R33, R43 to R51). `decodeWord` is total and refuses by name;
`encode` writes the words of a well-formed instruction from the same tables. Fates that need the executing core
(an engine or opcode the core type lacks) are met in Machine/Fetch.lean, before a word is decoded.
-/

namespace Sys2Proof

/-- Why a word is no instruction: step 2 or step 3 of R33, or there are too few bytes. -/
inductive Reject where
  | illegalInstruction
  | reservedField
  | tooShort
deriving DecidableEq, Repr

/-- What an arm of a decoder finds: no such instruction, a reserved code, or an instruction and whether its unused bits are zero. -/
inductive Raw where
  | illegal
  | reserved
  | got (i : Instr) (clean : Bool)
deriving DecidableEq, Repr

/-- The fields every word has (R27). -/
structure Header where
  eng : BitVec 3
  tok : BitVec 4
  op  : BitVec 7
  ops : BitVec 18
deriving DecidableEq, Repr

/-- Fields to word (R27). -/
def Header.pack (h : Header) : Word := h.eng ++ h.tok ++ h.op ++ h.ops

/-- Word to fields (R27). -/
def Header.unpack (w : Word) : Header :=
  ⟨w.extractLsb' 29 3, w.extractLsb' 25 4, w.extractLsb' 18 7, w.extractLsb' 0 18⟩

/-- The operand field [17:0] seen in the layouts of R28. -/
structure Operands where
  all : BitVec 18
deriving DecidableEq, Repr

namespace Operands
/-- d [17:13] of RRR and RI. -/
def d (o : Operands) : BitVec 5 := o.all.extractLsb' 13 5
/-- a [12:8] of RRR. -/
def a (o : Operands) : BitVec 5 := o.all.extractLsb' 8 5
/-- b [7:3] of RRR. -/
def b (o : Operands) : BitVec 5 := o.all.extractLsb' 3 5
/-- mod [2:0] of RRR. -/
def m (o : Operands) : BitVec 3 := o.all.extractLsb' 0 3
/-- imm13 [12:0] of RI. -/
def imm13 (o : Operands) : BitVec 13 := o.all.extractLsb' 0 13
/-- breg [17:15] of Branch. -/
def breg (o : Operands) : BitVec 3 := o.all.extractLsb' 15 3
/-- cond [14:12] of Branch. -/
def cond (o : Operands) : BitVec 3 := o.all.extractLsb' 12 3
/-- opnd [11:7] of Branch. -/
def opnd (o : Operands) : BitVec 5 := o.all.extractLsb' 7 5
/-- imm7 [6:0] of Branch. -/
def imm7 (o : Operands) : BitVec 7 := o.all.extractLsb' 0 7
end Operands

/-- The RRR operand field (R28). -/
def rrr (d a b : BitVec 5) (m : BitVec 3) : BitVec 18 := d ++ a ++ b ++ m
/-- The RI operand field (R28). -/
def ri (d : BitVec 5) (imm : BitVec 13) : BitVec 18 := d ++ imm
/-- The Branch operand field (R28). -/
def branch (r c : BitVec 3) (o : BitVec 5) (i : BitVec 7) : BitVec 18 := r ++ c ++ o ++ i

/-- A 3-bit register name in a 5-bit field (R29). -/
def low3 (r : BitVec 3) : BitVec 5 := (0 : BitVec 2) ++ r
/-- One bit in a 3-bit field. -/
def bit0 (x : Bool) : BitVec 3 := (0 : BitVec 2) ++ BitVec.ofBool x
/-- Two control bits in the b field (R144, R145). -/
def low2 (b1 b0 : Bool) : BitVec 5 := (0 : BitVec 3) ++ BitVec.ofBool b1 ++ BitVec.ofBool b0
/-- mod of a transfer word: REL and the channel (R247). -/
def relCh (rel : Bool) (c : BitVec 2) : BitVec 3 := BitVec.ofBool rel ++ c
/-- Tile bits [4:0], held in d (R29). -/
def tileLo (t : TileNo) : BitVec 5 := t.extractLsb' 0 5
/-- Tile bits [6:5], held in mod[1:0] (R29). -/
def tileHi (t : TileNo) : BitVec 2 := t.extractLsb' 5 2
/-- mod of a word that names a tile: one modifier bit and tile bits [6:5] (R29). -/
def zHi (z : Bool) (t : TileNo) : BitVec 3 := BitVec.ofBool z ++ tileHi t
/-- The tile a word names (R29). -/
def tileOf (o : Operands) : TileNo := o.m.extractLsb' 0 2 ++ o.d
/-- mod of a gather: .u32 is 010, .u64 is 011 (R180). -/
def gathMod (w64 : Bool) : BitVec 3 := (1 : BitVec 2) ++ BitVec.ofBool w64
/-- GRAN of a quantising word: `.b48` 01, `.tensor` 11 (R203). -/
def granOf (tensor : Bool) : BitVec 2 := BitVec.ofBool tensor ++ (1 : BitVec 1)

/-- Engine codes (R27). -/
def Engine.code : Engine → BitVec 3
  | .S => 0 | .L => 1 | .M => 2 | .V => 3 | .W => 4 | .N => 5 | .Y => 6 | .A => 7

/-- Engine of a code (R27). -/
def Engine.ofCode (c : BitVec 3) : Engine :=
  match c.toNat with
  | 0 => .S | 1 => .L | 2 => .M | 3 => .V | 4 => .W | 5 => .N | 6 => .Y | _ => .A

/-- Token bits [28:25] (R27). -/
def Tok.toBits (t : Tok) : BitVec 4 := BitVec.ofBool t.wf ++ BitVec.ofBool t.pf ++ BitVec.ofBool t.wb ++ BitVec.ofBool t.pb
/-- Token bits [28:25] (R27). -/
def Tok.ofBits (b : BitVec 4) : Tok := ⟨b.getLsbD 3, b.getLsbD 2, b.getLsbD 1, b.getLsbD 0⟩
/-- No token bit set. -/
def Tok.none : Tok := ⟨false, false, false, false⟩

/-- V type codes (R47). -/
def VTy.code : VTy → BitVec 3
  | .i8 => 0 | .i16 => 1 | .i32 => 2 | .i64 => 3 | .bf16 => 4 | .fp16 => 5 | .fp32 => 6
/-- V type of a code; 111 is reserved (R47). -/
def VTy.ofCode (c : BitVec 3) : Option VTy :=
  match c.toNat with
  | 0 => some .i8 | 1 => some .i16 | 2 => some .i32 | 3 => some .i64 | 4 => some .bf16 | 5 => some .fp16 | 6 => some .fp32
  | _ => Option.none
/-- M type codes (R46). -/
def MTy.code : MTy → BitVec 4
  | .bf16 => 0 | .fp16 => 1 | .fp8e4 => 2 | .fp8e5 => 3 | .fp6e2 => 4 | .fp6e3 => 5 | .fp4e2 => 6 | .int8 => 7 | .int4 => 8
/-- M type of a code; 9 to 15 are unassigned (R46). -/
def MTy.ofCode (c : BitVec 4) : Option MTy :=
  match c.toNat with
  | 0 => some .bf16 | 1 => some .fp16 | 2 => some .fp8e4 | 3 => some .fp8e5 | 4 => some .fp6e2 | 5 => some .fp6e3
  | 6 => some .fp4e2 | 7 => some .int8 | 8 => some .int4
  | _ => Option.none
/-- Conversion format codes (R200). -/
def NFmt.code : NFmt → BitVec 5
  | .int8 => 0 | .int16 => 1 | .int32 => 2 | .int64 => 3 | .bf16 => 4 | .fp16 => 5 | .fp32 => 6
  | .uint8 => 8 | .uint16 => 9 | .uint32 => 10 | .uint64 => 11 | .int4 => 12 | .uint4 => 13
  | .fp8e4 => 16 | .fp8e5 => 17 | .fp6e2 => 18 | .fp6e3 => 19 | .fp4e2 => 20
/-- Conversion format of a code (R200). -/
def NFmt.ofCode (c : BitVec 5) : Option NFmt :=
  match c.toNat with
  | 0 => some .int8 | 1 => some .int16 | 2 => some .int32 | 3 => some .int64 | 4 => some .bf16 | 5 => some .fp16 | 6 => some .fp32
  | 8 => some .uint8 | 9 => some .uint16 | 10 => some .uint32 | 11 => some .uint64 | 12 => some .int4 | 13 => some .uint4
  | 16 => some .fp8e4 | 17 => some .fp8e5 | 18 => some .fp6e2 | 19 => some .fp6e3 | 20 => some .fp4e2
  | _ => Option.none
/-- Rounding mode codes (R73). -/
def RMode.code : RMode → BitVec 3
  | .rne => 0 | .rz => 1 | .ru => 2 | .rd => 3 | .sr => 4
/-- Rounding mode of a code; 101 to 111 are reserved (R73). -/
def RMode.ofCode (c : BitVec 3) : Option RMode :=
  match c.toNat with
  | 0 => some .rne | 1 => some .rz | 2 => some .ru | 3 => some .rd | 4 => some .sr
  | _ => Option.none
/-- Granularity codes (R69). -/
def Gran.code : Gran → BitVec 2
  | .none => 0 | .b48 => 1 | .row => 2 | .tensor => 3
/-- Granularity of a code (R69). -/
def Gran.ofCode (c : BitVec 2) : Option Gran :=
  match c.toNat with
  | 0 => some .none | 1 => some .b48 | 2 => some .row | _ => some .tensor
/-- AMO operation codes (R176). -/
def AmoOp.code : AmoOp → BitVec 3
  | .add => 0 | .and => 1 | .or => 2 | .xor => 3 | .min => 4 | .max => 5 | .swap => 6 | .cas => 7
/-- AMO operation of a code (R176). -/
def AmoOp.ofCode (c : BitVec 3) : Option AmoOp :=
  match c.toNat with
  | 0 => some .add | 1 => some .and | 2 => some .or | 3 => some .xor | 4 => some .min | 5 => some .max | 6 => some .swap | _ => some .cas
/-- VATOM codes (R181). -/
def VAtomOp.code : VAtomOp → BitVec 3
  | .i32add => 0 | .i32min => 1 | .i32max => 2 | .fp32add => 3 | .i64add => 4 | .i64min => 5 | .i64max => 6
/-- VATOM operation of a code; 111 is reserved (R181). -/
def VAtomOp.ofCode (c : BitVec 3) : Option VAtomOp :=
  match c.toNat with
  | 0 => some .i32add | 1 => some .i32min | 2 => some .i32max | 3 => some .fp32add | 4 => some .i64add | 5 => some .i64min
  | 6 => some .i64max
  | _ => Option.none
/-- VMLOG codes (R199). -/
def MLogOp.code : MLogOp → BitVec 3
  | .and => 0 | .or => 1 | .xor => 2 | .andn => 3 | .not => 4
/-- VMLOG operation of a code; 101 to 111 are reserved (R199). -/
def MLogOp.ofCode (c : BitVec 3) : Option MLogOp :=
  match c.toNat with
  | 0 => some .and | 1 => some .or | 2 => some .xor | 3 => some .andn | 4 => some .not
  | _ => Option.none
/-- Peg field codes (R375). -/
def PegField.code : PegField → BitVec 3
  | .cnt => 0 | .thr => 1 | .act => 2 | .opd => 3
/-- Peg field of a code; 100 to 111 are bad (R375). -/
def PegField.ofCode (c : BitVec 3) : Option PegField :=
  match c.toNat with
  | 0 => some .cnt | 1 => some .thr | 2 => some .act | 3 => some .opd
  | _ => Option.none
/-- NMAP codes (R382). -/
def MapOp.code : MapOp → BitVec 3
  | .page => 0 | .asid => 1 | .all => 2
/-- NMAP operation of a code; 011 to 111 are bad (R382). -/
def MapOp.ofCode (c : BitVec 3) : Option MapOp :=
  match c.toNat with
  | 0 => some .page | 1 => some .asid | 2 => some .all
  | _ => Option.none
/-- Registration kind codes (R391). -/
def RegKind.code : RegKind → BitVec 3
  | .region => 0 | .endpoint => 1 | .object => 2 | .connection => 3
/-- Registration kind of a code; 100 to 111 end the thread (R391). -/
def RegKind.ofCode (c : BitVec 3) : Option RegKind :=
  match c.toNat with
  | 0 => some .region | 1 => some .endpoint | 2 => some .object | 3 => some .connection
  | _ => Option.none

/-- The opcode of a product word: family in [6:4], type in [3:0] (R46). -/
def famOp (fam : BitVec 3) (ty : MTy) : BitVec 7 := fam ++ ty.code
/-- The literal of a product word (R226). -/
def prodLit (k : KLen) (g : Gran) (sc : SReg) (fam : BitVec 11) : Word := k ++ g.code ++ sc ++ fam
/-- The literal of a conversion (R200). -/
def cvtLit (gran : BitVec 2) (sinv : Bool) (rm : RMode) (dir : Bool) (other : NFmt) : Word :=
  (0 : BitVec 20) ++ gran ++ BitVec.ofBool sinv ++ rm.code ++ BitVec.ofBool dir ++ other.code

/-- Continue with a code's meaning, or find no such instruction. -/
def orIllegal {α : Type} (o : Option α) (k : α → Raw) : Raw :=
  match o with
  | some x => k x
  | Option.none => .illegal
/-- Continue with a code's meaning, or find a reserved code. -/
def orReserved {α : Type} (o : Option α) (k : α → Raw) : Raw :=
  match o with
  | some x => k x
  | Option.none => .reserved

/-- A rounding code that R73 lists. -/
def rmListed (c : BitVec 3) : Bool := (RMode.ofCode c).isSome
/-- The rounding mode of a code; RNE for a code that is not listed, which is judged after the types (R33). -/
def rmOr (c : BitVec 3) : RMode := (RMode.ofCode c).getD .rne

/-- S words (R44). -/
def decodeS (t : Tok) (op : BitVec 7) (o : Operands) (lit : Word) : Raw :=
  match op.toNat with
  | 0x0 => .got (.add t o.d o.a o.b) (o.m == 0)
  | 0x1 => .got (.sub t o.d o.a o.b) (o.m == 0)
  | 0x2 => .got (.and t o.d o.a o.b) (o.m == 0)
  | 0x3 => .got (.or t o.d o.a o.b) (o.m == 0)
  | 0x4 => .got (.xor t o.d o.a o.b) (o.m == 0)
  | 0x5 => .got (.andn t o.d o.a o.b) (o.m == 0)
  | 0x6 => .got (.shl t o.d o.a o.b) (o.m == 0)
  | 0x7 => .got (.shrl t o.d o.a o.b) (o.m == 0)
  | 0x8 => .got (.shra t o.d o.a o.b) (o.m == 0)
  | 0x9 => .got (.rotr t o.d o.a o.b) (o.m == 0)
  | 0xa => .got (.min t o.d o.a o.b) (o.m == 0)
  | 0xb => .got (.max t o.d o.a o.b) (o.m == 0)
  | 0xc => .got (.minu t o.d o.a o.b) (o.m == 0)
  | 0xd => .got (.maxu t o.d o.a o.b) (o.m == 0)
  | 0xe => .got (.clz t o.d o.a) ((o.b == 0) && (o.m == 0))
  | 0xf => .got (.ctz t o.d o.a) ((o.b == 0) && (o.m == 0))
  | 0x10 => .got (.popc t o.d o.a) ((o.b == 0) && (o.m == 0))
  | 0x11 => .got (.mul t o.d o.a o.b) (o.m == 0)
  | 0x12 => .got (.mulh t o.d o.a o.b) (o.m == 0)
  | 0x13 => .got (.mulhu t o.d o.a o.b) (o.m == 0)
  | 0x14 => .got (.div t o.d o.a o.b) (o.m == 0)
  | 0x15 => .got (.divu t o.d o.a o.b) (o.m == 0)
  | 0x16 => .got (.rem t o.d o.a o.b) (o.m == 0)
  | 0x17 => .got (.remu t o.d o.a o.b) (o.m == 0)
  | 0x18 => .got (.sel t o.d o.a o.b o.m) true
  | 0x20 => .got (.addi t o.d o.imm13) true
  | 0x21 => .got (.andi t o.d o.imm13) true
  | 0x22 => .got (.ori t o.d o.imm13) true
  | 0x23 => .got (.xori t o.d o.imm13) true
  | 0x24 => .got (.shli t o.d (o.imm13.setWidth 6)) (o.imm13.extractLsb' 6 7 == 0)
  | 0x25 => .got (.shrli t o.d (o.imm13.setWidth 6)) (o.imm13.extractLsb' 6 7 == 0)
  | 0x26 => .got (.shrai t o.d (o.imm13.setWidth 6)) (o.imm13.extractLsb' 6 7 == 0)
  | 0x27 => .got (.movi t o.d o.imm13) true
  | 0x28 => .got (.movw t o.d lit) (o.imm13 == 0)
  | 0x29 => .got (.movhw t o.d lit) (o.imm13 == 0)
  | 0x30 => .got (.cmpeq t (o.d.setWidth 3) o.a o.b) ((o.d.extractLsb' 3 2 == 0) && (o.m == 0))
  | 0x31 => .got (.cmpne t (o.d.setWidth 3) o.a o.b) ((o.d.extractLsb' 3 2 == 0) && (o.m == 0))
  | 0x32 => .got (.cmplt t (o.d.setWidth 3) o.a o.b) ((o.d.extractLsb' 3 2 == 0) && (o.m == 0))
  | 0x33 => .got (.cmple t (o.d.setWidth 3) o.a o.b) ((o.d.extractLsb' 3 2 == 0) && (o.m == 0))
  | 0x34 => .got (.cmpltu t (o.d.setWidth 3) o.a o.b) ((o.d.extractLsb' 3 2 == 0) && (o.m == 0))
  | 0x35 => .got (.cmpleu t (o.d.setWidth 3) o.a o.b) ((o.d.extractLsb' 3 2 == 0) && (o.m == 0))
  | 0x36 => .got (.pand t (o.d.setWidth 3) (o.a.setWidth 3) (o.b.setWidth 3)) ((o.d.extractLsb' 3 2 == 0) && (o.a.extractLsb' 3 2 == 0) && (o.b.extractLsb' 3 2 == 0) && (o.m == 0))
  | 0x37 => .got (.por t (o.d.setWidth 3) (o.a.setWidth 3) (o.b.setWidth 3)) ((o.d.extractLsb' 3 2 == 0) && (o.a.extractLsb' 3 2 == 0) && (o.b.extractLsb' 3 2 == 0) && (o.m == 0))
  | 0x38 => .got (.pxor t (o.d.setWidth 3) (o.a.setWidth 3) (o.b.setWidth 3)) ((o.d.extractLsb' 3 2 == 0) && (o.a.extractLsb' 3 2 == 0) && (o.b.extractLsb' 3 2 == 0) && (o.m == 0))
  | 0x39 => .got (.pandn t (o.d.setWidth 3) (o.a.setWidth 3) (o.b.setWidth 3)) ((o.d.extractLsb' 3 2 == 0) && (o.a.extractLsb' 3 2 == 0) && (o.b.extractLsb' 3 2 == 0) && (o.m == 0))
  | 0x40 => .got (.fadd t o.d o.a o.b) (o.m == 0)
  | 0x41 => .got (.fsub t o.d o.a o.b) (o.m == 0)
  | 0x42 => .got (.fmul t o.d o.a o.b) (o.m == 0)
  | 0x43 => .got (.fdiv t o.d o.a o.b) (o.m == 0)
  | 0x44 => .got (.ffma t o.d o.a o.b) (o.m == 0)
  | 0x45 => .got (.fmin t o.d o.a o.b) (o.m == 0)
  | 0x46 => .got (.fmax t o.d o.a o.b) (o.m == 0)
  | 0x47 => .got (.fsqrt t o.d o.a) ((o.b == 0) && (o.m == 0))
  | 0x48 => .got (.fcmpeq t (o.d.setWidth 3) o.a o.b) ((o.d.extractLsb' 3 2 == 0) && (o.m == 0))
  | 0x49 => .got (.fcmplt t (o.d.setWidth 3) o.a o.b) ((o.d.extractLsb' 3 2 == 0) && (o.m == 0))
  | 0x4a => .got (.fcmple t (o.d.setWidth 3) o.a o.b) ((o.d.extractLsb' 3 2 == 0) && (o.m == 0))
  | 0x4b => orReserved (RMode.ofCode o.m) fun rm => .got (.fcvtfi t o.d o.a (o.b.getLsbD 1) (o.b.getLsbD 0) rm) (o.b.extractLsb' 2 3 == 0)
  | 0x4c => orReserved (RMode.ofCode o.m) fun rm => .got (.fcvtif t o.d o.a (o.b.getLsbD 1) (o.b.getLsbD 0) rm) (o.b.extractLsb' 2 3 == 0)
  | 0x50 => .got (.gets t o.d (o.imm13.setWidth 12)) (o.imm13.extractLsb' 12 1 == 0)
  | 0x51 => .got (.sets t o.d (o.imm13.setWidth 12)) (o.imm13.extractLsb' 12 1 == 0)
  | 0x60 => .got (.ldg t o.d o.a o.b o.m) true
  | 0x61 => .got (.ldgw t o.d o.a o.m lit) (o.b == 0)
  | 0x62 => .got (.stg t o.d o.a o.b (o.m.setWidth 2)) (o.m.extractLsb' 2 1 == 0)
  | 0x63 => .got (.stgw t o.d o.a (o.m.setWidth 2) lit) ((o.b == 0) && (o.m.extractLsb' 2 1 == 0))
  | 0x64 => .got (.lds t o.d o.a o.b o.m) true
  | 0x65 => .got (.sts t o.d o.a o.b (o.m.setWidth 2)) (o.m.extractLsb' 2 1 == 0)
  | 0x66 => orReserved (AmoOp.ofCode o.m) fun op => .got (.amo t o.d o.a o.b op) true
  | 0x67 => orReserved (AmoOp.ofCode o.m) fun op => .got (.amos t o.d o.a o.b op) true
  | 0x68 => .got (.promote t o.a o.b) ((o.d == 0) && (o.m == 0))
  | 0x69 => .got (.demote t o.a o.b) ((o.d == 0) && (o.m == 0))
  | 0x6a => .got (.rstf t o.d o.a o.b (o.m.setWidth 2)) (o.m.extractLsb' 2 1 == 0)
  | _ => .illegal

/-- L words (R45). -/
def decodeL (t : Tok) (op : BitVec 7) (o : Operands) : Raw :=
  match op.toNat with
  | 0x0 => .got (.copyIn t o.d o.a o.b (o.m.getLsbD 2) (o.m.setWidth 2)) true
  | 0x1 => .got (.copytIn t o.d o.a o.b (o.m.getLsbD 2) (o.m.setWidth 2)) true
  | 0x2 => .got (.copym t o.d o.a o.b (o.m.getLsbD 2) (o.m.setWidth 2)) true
  | 0x3 => .got (.copya t (tileOf o) o.a o.b (o.m.getLsbD 2)) true
  | 0x4 => .got (.gath t o.d o.a o.b (o.m.getLsbD 2) (o.m.setWidth 2)) true
  | 0x5 => .got (.pref t o.a o.b) ((o.d == 0) && (o.m == 0))
  | 0x6 => .got (.rloadb t o.d o.a o.b (o.m.getLsbD 2) (o.m.setWidth 2)) true
  | 0x7 => .got (.stread t o.d o.a o.b (o.m.getLsbD 2) (o.m.setWidth 2)) true
  | 0x8 => .got (.netrd t o.d o.a o.b (o.m.getLsbD 2) (o.m.setWidth 2)) true
  | _ => .illegal

/-- W words (R45). -/
def decodeW (t : Tok) (op : BitVec 7) (o : Operands) : Raw :=
  match op.toNat with
  | 0x0 => .got (.copyOut t o.d o.a o.b (o.m.getLsbD 2) (o.m.setWidth 2)) true
  | 0x1 => .got (.copytOut t o.d o.a o.b (o.m.getLsbD 2) (o.m.setWidth 2)) true
  | 0x2 => .got (.scat t o.d o.a o.b (o.m.getLsbD 2) (o.m.setWidth 2)) true
  | 0x3 => .got (.copyf t o.d o.a o.b (o.m.setWidth 2)) (o.m.extractLsb' 2 1 == 1)
  | 0x4 => .got (.rred t o.d o.a o.b (o.m.getLsbD 2) (o.m.setWidth 2)) true
  | 0x5 => .got (.stwrite t o.d o.a o.b (o.m.getLsbD 2) (o.m.setWidth 2)) true
  | 0x6 => .got (.netwr t o.d o.a o.b (o.m.getLsbD 2) (o.m.setWidth 2)) true
  | _ => .illegal

/-- The five families of product words, opcodes 0x00 to 0x4F (R46). -/
def decodeProd (t : Tok) (op : BitVec 7) (o : Operands) (lit : Word) : Raw :=
  orIllegal (MTy.ofCode (op.extractLsb' 0 4)) fun ty =>
  match (op.extractLsb' 4 3).toNat with
  | 0 => orReserved (Gran.ofCode (lit.extractLsb' 16 2)) fun g => .got (.mma t ty (tileOf o) o.a o.b (o.m.getLsbD 2) (lit.extractLsb' 18 14) g (lit.extractLsb' 11 5)) (lit.extractLsb' 0 11 == 0)
  | 1 => orReserved (Gran.ofCode (lit.extractLsb' 16 2)) fun g => .got (.mmas t ty (tileOf o) o.a o.b (o.m.getLsbD 2) (lit.extractLsb' 18 14) g (lit.extractLsb' 11 5)) (lit.extractLsb' 0 11 == 0)
  | 2 => orReserved (Gran.ofCode (lit.extractLsb' 16 2)) fun g => .got (.mmaq t ty (tileOf o) o.a o.b (o.m.getLsbD 2) (lit.extractLsb' 18 14) g (lit.extractLsb' 11 5) (lit.extractLsb' 0 9)) (lit.extractLsb' 9 2 == 0)
  | 3 => orReserved (Gran.ofCode (lit.extractLsb' 16 2)) fun g => .got (.mmar t ty (tileOf o) o.a o.b (o.m.getLsbD 2) (lit.extractLsb' 18 14) g (lit.extractLsb' 11 5)) (lit.extractLsb' 0 11 == 0)
  | 4 => orReserved (Gran.ofCode (lit.extractLsb' 16 2)) fun g => .got (.mgrp t ty (tileOf o) o.a o.b (o.m.getLsbD 2) (lit.extractLsb' 18 14) g (lit.extractLsb' 11 5) (lit.extractLsb' 5 6) (lit.extractLsb' 0 5)) true
  | _ => .illegal

/-- M words (R46). -/
def decodeM (t : Tok) (op : BitVec 7) (o : Operands) (lit : Word) : Raw :=
  match op.toNat with
  | 0x50 => .got (.mncfg t (o.d.setWidth 3) o.a o.b (lit.extractLsb' 16 16) (lit.extractLsb' 8 8)) ((o.d.extractLsb' 3 2 == 0) && (o.m == 0) && (lit.extractLsb' 0 8 == 0))
  | 0x51 => .got (.mnest t (o.d.setWidth 3)) ((o.d.extractLsb' 3 2 == 0) && (o.a == 0) && (o.b == 0) && (o.m == 0))
  | 0x52 => .got (.mzero t (tileOf o) o.a) ((o.b == 0) && (o.m.extractLsb' 2 1 == 0))
  | 0x53 => .got (.mtov t (tileOf o) o.a o.b) (o.m.extractLsb' 2 1 == 0)
  | 0x54 => .got (.mfromv t (tileOf o) o.a o.b (o.m.getLsbD 2)) true
  | 0x55 => .got (.mstore t (tileOf o) o.a o.b) (o.m.extractLsb' 2 1 == 0)
  | 0x56 => .got (.mloadacc t (tileOf o) o.a) ((o.b == 0) && (o.m.extractLsb' 2 1 == 0))
  | _ => decodeProd t op o lit

/-- V words (R47). -/
def decodeV (t : Tok) (op : BitVec 7) (o : Operands) (lit : Word) : Raw :=
  match op.toNat with
  | 0x0 => orReserved (VTy.ofCode o.m) fun ty => .got (.vadd t ty o.d o.a o.b) true
  | 0x1 => orReserved (VTy.ofCode o.m) fun ty => .got (.vsub t ty o.d o.a o.b) true
  | 0x2 => orReserved (VTy.ofCode o.m) fun ty => .got (.vmul t ty o.d o.a o.b) true
  | 0x3 => orReserved (VTy.ofCode o.m) fun ty => .got (.vfma t ty o.d o.a o.b) true
  | 0x4 => orReserved (VTy.ofCode o.m) fun ty => .got (.vdiv t ty o.d o.a o.b) true
  | 0x5 => orReserved (VTy.ofCode o.m) fun ty => .got (.vmin t ty o.d o.a o.b) true
  | 0x6 => orReserved (VTy.ofCode o.m) fun ty => .got (.vmax t ty o.d o.a o.b) true
  | 0x7 => orReserved (VTy.ofCode o.m) fun ty => .got (.vminu t ty o.d o.a o.b) true
  | 0x8 => orReserved (VTy.ofCode o.m) fun ty => .got (.vmaxu t ty o.d o.a o.b) true
  | 0x9 => orReserved (VTy.ofCode o.m) fun ty => .got (.vabs t ty o.d o.a) (o.b == 0)
  | 0xa => orReserved (VTy.ofCode o.m) fun ty => .got (.vneg t ty o.d o.a) (o.b == 0)
  | 0xb => orReserved (VTy.ofCode o.m) fun ty => .got (.vadds t ty o.d o.a o.b) true
  | 0xc => orReserved (VTy.ofCode o.m) fun ty => .got (.vaddsu t ty o.d o.a o.b) true
  | 0xd => orReserved (VTy.ofCode o.m) fun ty => .got (.vsubs t ty o.d o.a o.b) true
  | 0xe => orReserved (VTy.ofCode o.m) fun ty => .got (.vsubsu t ty o.d o.a o.b) true
  | 0xf => orReserved (VTy.ofCode o.m) fun ty => .got (.vmulh t ty o.d o.a o.b) true
  | 0x10 => orReserved (VTy.ofCode o.m) fun ty => .got (.vmulhu t ty o.d o.a o.b) true
  | 0x18 => orReserved (VTy.ofCode o.m) fun ty => .got (.vand t ty o.d o.a o.b) true
  | 0x19 => orReserved (VTy.ofCode o.m) fun ty => .got (.vor t ty o.d o.a o.b) true
  | 0x1a => orReserved (VTy.ofCode o.m) fun ty => .got (.vxor t ty o.d o.a o.b) true
  | 0x1b => orReserved (VTy.ofCode o.m) fun ty => .got (.vandn t ty o.d o.a o.b) true
  | 0x1c => orReserved (VTy.ofCode o.m) fun ty => .got (.vshl t ty o.d o.a o.b) true
  | 0x1d => orReserved (VTy.ofCode o.m) fun ty => .got (.vshrl t ty o.d o.a o.b) true
  | 0x1e => orReserved (VTy.ofCode o.m) fun ty => .got (.vshra t ty o.d o.a o.b) true
  | 0x20 => orReserved (VTy.ofCode o.m) fun ty => .got (.vcmpeq t ty (o.d.setWidth 3) o.a o.b) (o.d.extractLsb' 3 2 == 0)
  | 0x21 => orReserved (VTy.ofCode o.m) fun ty => .got (.vcmpne t ty (o.d.setWidth 3) o.a o.b) (o.d.extractLsb' 3 2 == 0)
  | 0x22 => orReserved (VTy.ofCode o.m) fun ty => .got (.vcmplt t ty (o.d.setWidth 3) o.a o.b) (o.d.extractLsb' 3 2 == 0)
  | 0x23 => orReserved (VTy.ofCode o.m) fun ty => .got (.vcmple t ty (o.d.setWidth 3) o.a o.b) (o.d.extractLsb' 3 2 == 0)
  | 0x24 => orReserved (VTy.ofCode o.m) fun ty => .got (.vcmpltu t ty (o.d.setWidth 3) o.a o.b) (o.d.extractLsb' 3 2 == 0)
  | 0x25 => orReserved (VTy.ofCode o.m) fun ty => .got (.vcmpleu t ty (o.d.setWidth 3) o.a o.b) (o.d.extractLsb' 3 2 == 0)
  | 0x26 => orReserved (VTy.ofCode o.m) fun ty => .got (.vcmpun t ty (o.d.setWidth 3) o.a o.b) (o.d.extractLsb' 3 2 == 0)
  | 0x27 => .got (.vsel t (o.m.setWidth 2) o.d o.a o.b) (o.m.extractLsb' 2 1 == 0)
  | 0x28 => .got (.vmsel t (o.a.setWidth 3)) ((o.d == 0) && (o.a.extractLsb' 3 2 == 0) && (o.b == 0) && (o.m == 0))
  | 0x29 => orReserved (MLogOp.ofCode o.m) fun op => .got (.vmlog t op (o.d.setWidth 3) (o.a.setWidth 3) (o.b.setWidth 3)) ((o.d.extractLsb' 3 2 == 0) && (o.a.extractLsb' 3 2 == 0) && (o.b.extractLsb' 3 2 == 0))
  | 0x30 => orIllegal (NFmt.ofCode (lit.extractLsb' 0 5)) fun other => orReserved (VTy.ofCode o.m) fun ty => .got (.vcvt t ty o.d o.a (lit.getLsbD 9) (rmOr (lit.extractLsb' 6 3)) (lit.getLsbD 5) other) (rmListed (lit.extractLsb' 6 3) && (o.b == 0) && (lit.extractLsb' 12 20 == 0) && (lit.extractLsb' 10 2 == 0))
  | 0x31 => orIllegal ((NFmt.ofCode (lit.extractLsb' 0 5)).filter NFmt.isNarrow) fun other => orReserved (VTy.ofCode o.m) fun ty => .got (.vquant t ty o.d o.a o.b (lit.getLsbD 11) (lit.getLsbD 9) (rmOr (lit.extractLsb' 6 3)) other) (rmListed (lit.extractLsb' 6 3) && (lit.extractLsb' 12 20 == 0) && (lit.getLsbD 5 == false) && (lit.getLsbD 10 == true))
  | 0x32 => orIllegal ((NFmt.ofCode (lit.extractLsb' 0 5)).filter NFmt.isNarrow) fun other => orReserved (VTy.ofCode o.m) fun ty => .got (.vdequant t ty o.d o.a o.b (lit.getLsbD 11) (lit.getLsbD 9) (rmOr (lit.extractLsb' 6 3)) other) (rmListed (lit.extractLsb' 6 3) && (lit.extractLsb' 12 20 == 0) && (lit.getLsbD 5 == false) && (lit.getLsbD 10 == true))
  | 0x38 => orReserved (VTy.ofCode o.m) fun ty => .got (.vrcp t ty o.d o.a) (o.b == 0)
  | 0x39 => orReserved (VTy.ofCode o.m) fun ty => .got (.vrsq t ty o.d o.a) (o.b == 0)
  | 0x3a => orReserved (VTy.ofCode o.m) fun ty => .got (.vexp2 t ty o.d o.a) (o.b == 0)
  | 0x3b => orReserved (VTy.ofCode o.m) fun ty => .got (.vlog2 t ty o.d o.a) (o.b == 0)
  | 0x3c => orReserved (VTy.ofCode o.m) fun ty => .got (.vtanh t ty o.d o.a) (o.b == 0)
  | 0x3d => orReserved (VTy.ofCode o.m) fun ty => .got (.vsqrt t ty o.d o.a) (o.b == 0)
  | 0x40 => orReserved (VTy.ofCode o.m) fun ty => .got (.vredadd t ty o.d o.a) (o.b == 0)
  | 0x41 => orReserved (VTy.ofCode o.m) fun ty => .got (.vredmax t ty o.d o.a) (o.b == 0)
  | 0x42 => orReserved (VTy.ofCode o.m) fun ty => .got (.vredmin t ty o.d o.a) (o.b == 0)
  | 0x48 => orReserved (VTy.ofCode o.m) fun ty => .got (.vperm t ty o.d o.a o.b) true
  | 0x49 => orReserved (VTy.ofCode o.m) fun ty => .got (.vbcast t ty o.d o.a) (o.b == 0)
  | 0x4a => orReserved (VTy.ofCode o.m) fun ty => .got (.vins t ty o.d o.a o.b) true
  | 0x4b => orReserved (VTy.ofCode o.m) fun ty => .got (.vext t ty o.d o.a o.b) true
  | 0x50 => .got (.vlds t o.d o.a o.b (o.m.setWidth 2)) (o.m.extractLsb' 2 1 == 0)
  | 0x51 => .got (.vsts t o.d o.a o.b (o.m.setWidth 2)) (o.m.extractLsb' 2 1 == 0)
  | 0x52 => .got (.vgath t o.d o.a o.b (o.m.getLsbD 0)) (o.m.extractLsb' 1 2 == 1)
  | 0x53 => .got (.vldg t o.d o.a o.b (o.m.setWidth 2)) (o.m.extractLsb' 2 1 == 0)
  | 0x54 => .got (.vstg t o.d o.a o.b (o.m.setWidth 2)) (o.m.extractLsb' 2 1 == 0)
  | 0x55 => .got (.vgathg t o.d o.a o.b (o.m.getLsbD 0)) (o.m.extractLsb' 1 2 == 1)
  | 0x56 => orReserved (VAtomOp.ofCode o.m) fun op => .got (.vatom t op o.d o.a o.b) true
  | _ => .illegal

/-- N words (R49). -/
def decodeN (op : BitVec 7) (o : Operands) : Raw :=
  match op.toNat with
  | 0x0 => .got (.nsend o.a o.b) ((o.d == 0) && (o.m == 0))
  | 0x1 => .got (.npost o.a o.b) ((o.d == 0) && (o.m == 0))
  | 0x2 => .got (.nrmaw o.a o.b) ((o.d == 0) && (o.m == 0))
  | 0x3 => .got (.nrmar o.a o.b) ((o.d == 0) && (o.m == 0))
  | 0x4 => .got (.natom o.a o.b (o.m.getLsbD 0)) ((o.d == 0) && (o.m.extractLsb' 1 2 == 0))
  | 0x8 => .got (.narm o.a o.b) ((o.d == 0) && (o.m == 0))
  | 0x9 => .got (.ndisarm o.d o.a) ((o.b == 0) && (o.m == 0))
  | 0xa => orReserved (PegField.ofCode o.m) fun f => .got (.pegset o.a o.b f) (o.d == 0)
  | 0xb => .got (.pegadd o.d o.a o.b) (o.m == 0)
  | 0xc => orReserved (PegField.ofCode o.m) fun f => .got (.pegrd o.d o.a f) (o.b == 0)
  | 0x10 => .got (.nlaunch o.d o.a o.b) (o.m == 0)
  | 0x11 => .got (.ngang o.d o.a o.b) (o.m == 0)
  | 0x12 => .got (.nsave o.d o.a (o.m.getLsbD 0)) ((o.b == 0) && (o.m.extractLsb' 1 2 == 0))
  | 0x13 => .got (.nload o.d o.a) ((o.b == 0) && (o.m == 0))
  | 0x14 => .got .nfreeze ((o.d == 0) && (o.a == 0) && (o.b == 0) && (o.m == 0))
  | 0x15 => .got .nthaw ((o.d == 0) && (o.a == 0) && (o.b == 0) && (o.m == 0))
  | 0x16 => orReserved (MapOp.ofCode o.m) fun op => .got (.nmap o.a o.b op) (o.d == 0)
  | 0x18 => orReserved (RegKind.ofCode o.m) fun k => .got (.nreg o.d o.a o.b k) true
  | 0x19 => orReserved (RegKind.ofCode o.m) fun k => .got (.nrevoke o.a o.b k) (o.d == 0)
  | 0x1a => .got (.ncoll o.a (o.m.getLsbD 0)) ((o.d == 0) && (o.b == 0) && (o.m.extractLsb' 1 2 == 0))
  | 0x1b => .got (.nrearm o.a o.b) ((o.d == 0) && (o.m == 0))
  | 0x20 => .got (.nhash o.a o.b) ((o.d == 0) && (o.m == 0))
  | 0x21 => .got (.nsign o.d o.a o.b) (o.m == 0)
  | 0x22 => .got (.nrand o.d) (o.imm13 == 0)
  | _ => .illegal

/-- Y words (R48). -/
def decodeY (op : BitVec 7) (o : Operands) : Raw :=
  match op.toNat with
  | 0x0 => .got (.phreg (o.d.setWidth 2) o.a o.m) ((o.d.extractLsb' 2 3 == 0) && (o.b == 0))
  | 0x1 => .got (.phdrop o.a o.m) ((o.d == 0) && (o.b == 0))
  | 0x2 => .got (.phsig o.a o.m) ((o.d == 0) && (o.b == 0))
  | 0x3 => .got (.phwait o.a o.m) ((o.d == 0) && (o.b == 0))
  | 0x4 => .got (.phnext o.a o.m) ((o.d == 0) && (o.b == 0))
  | 0x5 => .got (.phexpb o.a o.b o.m) (o.d == 0)
  | 0x6 => .got (.phq o.a o.b o.m) (o.d == 0)
  | 0x8 => .got (.bind o.d o.a o.b) (o.m == 0)
  | 0x9 => .got (.unbind o.a (o.m.getLsbD 0)) ((o.d == 0) && (o.b == 0) && (o.m.extractLsb' 1 2 == 0))
  | 0xa => .got (.fence (o.d.setWidth 2) o.m) ((o.d.extractLsb' 2 3 == 0) && (o.a == 0) && (o.b == 0))
  | 0x10 => .got (.waitw o.b (o.m.getLsbD 2) (o.m.setWidth 2)) ((o.d == 0) && (o.a == 0))
  | 0x11 => .got (.waitf o.a o.b) ((o.d == 0) && (o.m == 0))
  | 0x12 => .got (.waitt o.b) ((o.d == 0) && (o.a == 0) && (o.m == 0))
  | 0x13 => .got (.yleave o.d) ((o.a == 0) && (o.b == 0) && (o.m == 0))
  | _ => .illegal

/-- BR and BRL by their condition (R51, R118, R119): the four forms of one opcode. -/
def decodeBr (all : BReg → Instr) (yes no : BReg → PReg → Instr) (dnz : BReg → SReg → Instr) (o : Operands) : Raw :=
  match o.cond.toNat with
  | 0 => .got (all o.breg) (o.opnd == 0 && o.imm7 == 0)
  | 1 => .got (yes o.breg (o.opnd.setWidth 3)) (o.opnd.extractLsb' 3 2 == 0 && o.imm7 == 0)
  | 2 => .got (no o.breg (o.opnd.setWidth 3)) (o.opnd.extractLsb' 3 2 == 0 && o.imm7 == 0)
  | 3 => .got (dnz o.breg o.opnd) (o.imm7 == 0)
  | _ => .reserved

/-- CHECK by the file it tests (R120). -/
def decodeCheck (o : Operands) : Raw :=
  if o.cond.toNat = 4 then
    let clean := o.imm7.extractLsb' 0 5 == 0
    match (o.imm7.extractLsb' 5 2).toNat with
    | 0 => .got (.checkS o.breg o.opnd) clean
    | 1 => .got (.checkP o.breg (o.opnd.setWidth 3)) (clean && o.opnd.extractLsb' 3 2 == 0)
    | 2 => .got (.checkV o.breg o.opnd) clean
    | _ => .got (.checkM o.breg (o.opnd.setWidth 3)) (clean && o.opnd.extractLsb' 3 2 == 0)
  else .reserved

/-- A words (R50). -/
def decodeA (op : BitVec 7) (o : Operands) (lit : Word) : Raw :=
  match op.toNat with
  | 0x0 => .got .nop (o.all == 0)
  | 0x1 => .got (.prep o.breg lit) ((o.cond == 0) && (o.opnd == 0) && (o.imm7 == 0))
  | 0x5 => .got .endTask (o.all == 0)
  | 0x6 => .got .yield (o.all == 0)
  | 0x7 => .got (.trap (o.imm7.setWidth 4)) ((o.breg == 0) && (o.cond == 0) && (o.opnd == 0) && (o.imm7.extractLsb' 4 3 == 0))
  | 0x8 => .got .align (o.all == 0)
  | 0x9 => .got .eret (o.all == 0)
  | 0x2 => decodeBr .br .brT .brF .brDnz o
  | 0x3 => decodeBr .brl .brlT .brlF .brlDnz o
  | 0x4 => decodeCheck o
  | _ => .illegal

/-- Every engine's decoder. -/
def decodeRaw (h : Header) (lit : Word) : Raw :=
  let t := Tok.ofBits h.tok
  let o : Operands := ⟨h.ops⟩
  match Engine.ofCode h.eng with
  | .S => decodeS t h.op o lit
  | .L => decodeL t h.op o
  | .M => decodeM t h.op o lit
  | .V => decodeV t h.op o lit
  | .W => decodeW t h.op o
  | .N => decodeN h.op o
  | .Y => decodeY h.op o
  | .A => decodeA h.op o lit

/-- N, Y and A words carry no token bit (R31); the others' tokens are judged with their instruction. -/
def headerTokOk (h : Header) : Bool :=
  match Engine.ofCode h.eng with
  | .N | .Y | .A => h.tok == 0
  | _ => true

/-- A word and the word after it (its literal, where it is wide) to an instruction, in the order of R33 (DEDUCED, log 9). -/
def decodeWord (w lit : Word) : Except Reject Instr :=
  let h := Header.unpack w
  match decodeRaw h lit with
  | .illegal => .error .illegalInstruction
  | .reserved => .error .reservedField
  | .got i clean =>
    if !i.typeOk then .error .illegalInstruction
    else if clean && i.fieldsOk && i.tokOk && headerTokOk h then .ok i
    else .error .reservedField

/-- Wideness by engine and opcode (R30, R43). -/
def wideOp (e : Engine) (op : BitVec 7) : Bool :=
  match e, op.toNat with
  | .S, 0x28 | .S, 0x29 | .S, 0x61 | .S, 0x63 => true
  | .M, n => (decide (n < 0x50) && decide (n % 16 ≤ 8)) || n == 0x50
  | .V, 0x30 | .V, 0x31 | .V, 0x32 => true
  | .A, 0x01 => true
  | _, _ => false

/-- A word that is followed by a literal (R30). -/
def isWide (w : Word) : Bool := let h := Header.unpack w; wideOp (Engine.ofCode h.eng) h.op

/-- Four bytes, the least significant first (R2). -/
def word32 (b0 b1 b2 b3 : Byte) : Word := b3 ++ b2 ++ b1 ++ b0

/-- The bytes of a word, the least significant first (R2). -/
def wordBytes (w : Word) : List Byte := [w.extractLsb' 0 8, w.extractLsb' 8 8, w.extractLsb' 16 8, w.extractLsb' 24 8]

/-- Decodes the instruction at the head of a byte list and returns the bytes after it. -/
def decode : List Byte → Except Reject (Instr × List Byte)
  | b0 :: b1 :: b2 :: b3 :: rest =>
    let w := word32 b0 b1 b2 b3
    if isWide w then
      match rest with
      | c0 :: c1 :: c2 :: c3 :: rest' => (decodeWord w (word32 c0 c1 c2 c3)).map (·, rest')
      | _ => .error .tooShort
    else (decodeWord w 0).map (·, rest)
  | _ => .error .tooShort

/-- One word from its fields (R27). -/
def word (e : Engine) (tok : BitVec 4) (op : BitVec 7) (ops : BitVec 18) : Word := (Header.mk e.code tok op ops).pack

/-- The words of an instruction (its literal second); an event has none. -/
def encode : Instr → List Word
  | .add t d a b => [word .S t.toBits 0x0 (rrr d a b 0)]
  | .sub t d a b => [word .S t.toBits 0x1 (rrr d a b 0)]
  | .and t d a b => [word .S t.toBits 0x2 (rrr d a b 0)]
  | .or t d a b => [word .S t.toBits 0x3 (rrr d a b 0)]
  | .xor t d a b => [word .S t.toBits 0x4 (rrr d a b 0)]
  | .andn t d a b => [word .S t.toBits 0x5 (rrr d a b 0)]
  | .shl t d a b => [word .S t.toBits 0x6 (rrr d a b 0)]
  | .shrl t d a b => [word .S t.toBits 0x7 (rrr d a b 0)]
  | .shra t d a b => [word .S t.toBits 0x8 (rrr d a b 0)]
  | .rotr t d a b => [word .S t.toBits 0x9 (rrr d a b 0)]
  | .min t d a b => [word .S t.toBits 0xa (rrr d a b 0)]
  | .max t d a b => [word .S t.toBits 0xb (rrr d a b 0)]
  | .minu t d a b => [word .S t.toBits 0xc (rrr d a b 0)]
  | .maxu t d a b => [word .S t.toBits 0xd (rrr d a b 0)]
  | .clz t d a => [word .S t.toBits 0xe (rrr d a 0 0)]
  | .ctz t d a => [word .S t.toBits 0xf (rrr d a 0 0)]
  | .popc t d a => [word .S t.toBits 0x10 (rrr d a 0 0)]
  | .mul t d a b => [word .S t.toBits 0x11 (rrr d a b 0)]
  | .mulh t d a b => [word .S t.toBits 0x12 (rrr d a b 0)]
  | .mulhu t d a b => [word .S t.toBits 0x13 (rrr d a b 0)]
  | .div t d a b => [word .S t.toBits 0x14 (rrr d a b 0)]
  | .divu t d a b => [word .S t.toBits 0x15 (rrr d a b 0)]
  | .rem t d a b => [word .S t.toBits 0x16 (rrr d a b 0)]
  | .remu t d a b => [word .S t.toBits 0x17 (rrr d a b 0)]
  | .sel t d a b p => [word .S t.toBits 0x18 (rrr d a b p)]
  | .addi t d imm => [word .S t.toBits 0x20 (ri d imm)]
  | .andi t d imm => [word .S t.toBits 0x21 (ri d imm)]
  | .ori t d imm => [word .S t.toBits 0x22 (ri d imm)]
  | .xori t d imm => [word .S t.toBits 0x23 (ri d imm)]
  | .shli t d c => [word .S t.toBits 0x24 (ri d (c.setWidth 13))]
  | .shrli t d c => [word .S t.toBits 0x25 (ri d (c.setWidth 13))]
  | .shrai t d c => [word .S t.toBits 0x26 (ri d (c.setWidth 13))]
  | .movi t d imm => [word .S t.toBits 0x27 (ri d imm)]
  | .movw t d lit => [word .S t.toBits 0x28 (ri d 0), lit]
  | .movhw t d lit => [word .S t.toBits 0x29 (ri d 0), lit]
  | .cmpeq t d a b => [word .S t.toBits 0x30 (rrr (low3 d) a b 0)]
  | .cmpne t d a b => [word .S t.toBits 0x31 (rrr (low3 d) a b 0)]
  | .cmplt t d a b => [word .S t.toBits 0x32 (rrr (low3 d) a b 0)]
  | .cmple t d a b => [word .S t.toBits 0x33 (rrr (low3 d) a b 0)]
  | .cmpltu t d a b => [word .S t.toBits 0x34 (rrr (low3 d) a b 0)]
  | .cmpleu t d a b => [word .S t.toBits 0x35 (rrr (low3 d) a b 0)]
  | .pand t d a b => [word .S t.toBits 0x36 (rrr (low3 d) (low3 a) (low3 b) 0)]
  | .por t d a b => [word .S t.toBits 0x37 (rrr (low3 d) (low3 a) (low3 b) 0)]
  | .pxor t d a b => [word .S t.toBits 0x38 (rrr (low3 d) (low3 a) (low3 b) 0)]
  | .pandn t d a b => [word .S t.toBits 0x39 (rrr (low3 d) (low3 a) (low3 b) 0)]
  | .fadd t d a b => [word .S t.toBits 0x40 (rrr d a b 0)]
  | .fsub t d a b => [word .S t.toBits 0x41 (rrr d a b 0)]
  | .fmul t d a b => [word .S t.toBits 0x42 (rrr d a b 0)]
  | .fdiv t d a b => [word .S t.toBits 0x43 (rrr d a b 0)]
  | .ffma t d a b => [word .S t.toBits 0x44 (rrr d a b 0)]
  | .fmin t d a b => [word .S t.toBits 0x45 (rrr d a b 0)]
  | .fmax t d a b => [word .S t.toBits 0x46 (rrr d a b 0)]
  | .fsqrt t d a => [word .S t.toBits 0x47 (rrr d a 0 0)]
  | .fcmpeq t d a b => [word .S t.toBits 0x48 (rrr (low3 d) a b 0)]
  | .fcmplt t d a b => [word .S t.toBits 0x49 (rrr (low3 d) a b 0)]
  | .fcmple t d a b => [word .S t.toBits 0x4a (rrr (low3 d) a b 0)]
  | .fcvtfi t d a i32 wrap rm => [word .S t.toBits 0x4b (rrr d a (low2 i32 wrap) rm.code)]
  | .fcvtif t d a w32 uns rm => [word .S t.toBits 0x4c (rrr d a (low2 w32 uns) rm.code)]
  | .gets t d n => [word .S t.toBits 0x50 (ri d (n.setWidth 13))]
  | .sets t d n => [word .S t.toBits 0x51 (ri d (n.setWidth 13))]
  | .ldg t d a b m => [word .S t.toBits 0x60 (rrr d a b m)]
  | .ldgw t d a m lit => [word .S t.toBits 0x61 (rrr d a 0 m), lit]
  | .stg t d a b z => [word .S t.toBits 0x62 (rrr d a b (z.setWidth 3))]
  | .stgw t d a z lit => [word .S t.toBits 0x63 (rrr d a 0 (z.setWidth 3)), lit]
  | .lds t d a b m => [word .S t.toBits 0x64 (rrr d a b m)]
  | .sts t d a b z => [word .S t.toBits 0x65 (rrr d a b (z.setWidth 3))]
  | .amo t d a b op => [word .S t.toBits 0x66 (rrr d a b op.code)]
  | .amos t d a b op => [word .S t.toBits 0x67 (rrr d a b op.code)]
  | .promote t a b => [word .S t.toBits 0x68 (rrr 0 a b 0)]
  | .demote t a b => [word .S t.toBits 0x69 (rrr 0 a b 0)]
  | .rstf t d a b z => [word .S t.toBits 0x6a (rrr d a b (z.setWidth 3))]
  | .copyIn t d a b rel ch => [word .L t.toBits 0x0 (rrr d a b (relCh rel ch))]
  | .copytIn t d a b rel ch => [word .L t.toBits 0x1 (rrr d a b (relCh rel ch))]
  | .copym t d a b rel ch => [word .L t.toBits 0x2 (rrr d a b (relCh rel ch))]
  | .copya t tile a b rel => [word .L t.toBits 0x3 (rrr (tileLo tile) a b (relCh rel (tileHi tile)))]
  | .gath t d a b rel ch => [word .L t.toBits 0x4 (rrr d a b (relCh rel ch))]
  | .pref t a b => [word .L t.toBits 0x5 (rrr 0 a b 0)]
  | .rloadb t d a b rel ch => [word .L t.toBits 0x6 (rrr d a b (relCh rel ch))]
  | .stread t d a b rel ch => [word .L t.toBits 0x7 (rrr d a b (relCh rel ch))]
  | .netrd t d a b rel ch => [word .L t.toBits 0x8 (rrr d a b (relCh rel ch))]
  | .copyOut t d a b rel ch => [word .W t.toBits 0x0 (rrr d a b (relCh rel ch))]
  | .copytOut t d a b rel ch => [word .W t.toBits 0x1 (rrr d a b (relCh rel ch))]
  | .scat t d a b rel ch => [word .W t.toBits 0x2 (rrr d a b (relCh rel ch))]
  | .copyf t d a b ch => [word .W t.toBits 0x3 (rrr d a b (relCh true ch))]
  | .rred t d a b rel ch => [word .W t.toBits 0x4 (rrr d a b (relCh rel ch))]
  | .stwrite t d a b rel ch => [word .W t.toBits 0x5 (rrr d a b (relCh rel ch))]
  | .netwr t d a b rel ch => [word .W t.toBits 0x6 (rrr d a b (relCh rel ch))]
  | .mma t ty tile a b z k g sc => [word .M t.toBits (famOp 0 ty) (rrr (tileLo tile) a b (zHi z tile)), prodLit k g sc 0]
  | .mmas t ty tile a b z k g sc => [word .M t.toBits (famOp 1 ty) (rrr (tileLo tile) a b (zHi z tile)), prodLit k g sc 0]
  | .mmaq t ty tile a b z k g sc seq => [word .M t.toBits (famOp 2 ty) (rrr (tileLo tile) a b (zHi z tile)), prodLit k g sc (seq.setWidth 11)]
  | .mmar t ty tile a b z k g sc => [word .M t.toBits (famOp 3 ty) (rrr (tileLo tile) a b (zHi z tile)), prodLit k g sc 0]
  | .mgrp t ty tile a b z k g sc gm1 ct => [word .M t.toBits (famOp 4 ty) (rrr (tileLo tile) a b (zHi z tile)), prodLit k g sc (gm1 ++ ct)]
  | .mncfg t l a b count acc => [word .M t.toBits 0x50 (rrr (low3 l) a b 0), count ++ acc ++ (0 : BitVec 8)]
  | .mnest t n => [word .M t.toBits 0x51 (rrr (low3 n) 0 0 0)]
  | .mzero t tile nm1 => [word .M t.toBits 0x52 (rrr (tileLo tile) nm1 0 (zHi false tile))]
  | .mtov t tile d b => [word .M t.toBits 0x53 (rrr (tileLo tile) d b (zHi false tile))]
  | .mfromv t tile a b ad => [word .M t.toBits 0x54 (rrr (tileLo tile) a b (zHi ad tile))]
  | .mstore t tile a b => [word .M t.toBits 0x55 (rrr (tileLo tile) a b (zHi false tile))]
  | .mloadacc t tile a => [word .M t.toBits 0x56 (rrr (tileLo tile) a 0 (zHi false tile))]
  | .vadd t ty d a b => [word .V t.toBits 0x0 (rrr d a b ty.code)]
  | .vsub t ty d a b => [word .V t.toBits 0x1 (rrr d a b ty.code)]
  | .vmul t ty d a b => [word .V t.toBits 0x2 (rrr d a b ty.code)]
  | .vfma t ty d a b => [word .V t.toBits 0x3 (rrr d a b ty.code)]
  | .vdiv t ty d a b => [word .V t.toBits 0x4 (rrr d a b ty.code)]
  | .vmin t ty d a b => [word .V t.toBits 0x5 (rrr d a b ty.code)]
  | .vmax t ty d a b => [word .V t.toBits 0x6 (rrr d a b ty.code)]
  | .vminu t ty d a b => [word .V t.toBits 0x7 (rrr d a b ty.code)]
  | .vmaxu t ty d a b => [word .V t.toBits 0x8 (rrr d a b ty.code)]
  | .vabs t ty d a => [word .V t.toBits 0x9 (rrr d a 0 ty.code)]
  | .vneg t ty d a => [word .V t.toBits 0xa (rrr d a 0 ty.code)]
  | .vadds t ty d a b => [word .V t.toBits 0xb (rrr d a b ty.code)]
  | .vaddsu t ty d a b => [word .V t.toBits 0xc (rrr d a b ty.code)]
  | .vsubs t ty d a b => [word .V t.toBits 0xd (rrr d a b ty.code)]
  | .vsubsu t ty d a b => [word .V t.toBits 0xe (rrr d a b ty.code)]
  | .vmulh t ty d a b => [word .V t.toBits 0xf (rrr d a b ty.code)]
  | .vmulhu t ty d a b => [word .V t.toBits 0x10 (rrr d a b ty.code)]
  | .vand t ty d a b => [word .V t.toBits 0x18 (rrr d a b ty.code)]
  | .vor t ty d a b => [word .V t.toBits 0x19 (rrr d a b ty.code)]
  | .vxor t ty d a b => [word .V t.toBits 0x1a (rrr d a b ty.code)]
  | .vandn t ty d a b => [word .V t.toBits 0x1b (rrr d a b ty.code)]
  | .vshl t ty d a b => [word .V t.toBits 0x1c (rrr d a b ty.code)]
  | .vshrl t ty d a b => [word .V t.toBits 0x1d (rrr d a b ty.code)]
  | .vshra t ty d a b => [word .V t.toBits 0x1e (rrr d a b ty.code)]
  | .vcmpeq t ty d a b => [word .V t.toBits 0x20 (rrr (low3 d) a b ty.code)]
  | .vcmpne t ty d a b => [word .V t.toBits 0x21 (rrr (low3 d) a b ty.code)]
  | .vcmplt t ty d a b => [word .V t.toBits 0x22 (rrr (low3 d) a b ty.code)]
  | .vcmple t ty d a b => [word .V t.toBits 0x23 (rrr (low3 d) a b ty.code)]
  | .vcmpltu t ty d a b => [word .V t.toBits 0x24 (rrr (low3 d) a b ty.code)]
  | .vcmpleu t ty d a b => [word .V t.toBits 0x25 (rrr (low3 d) a b ty.code)]
  | .vcmpun t ty d a b => [word .V t.toBits 0x26 (rrr (low3 d) a b ty.code)]
  | .vsel t z d a b => [word .V t.toBits 0x27 (rrr d a b (z.setWidth 3))]
  | .vmsel t k => [word .V t.toBits 0x28 (rrr 0 (low3 k) 0 0)]
  | .vmlog t op d a b => [word .V t.toBits 0x29 (rrr (low3 d) (low3 a) (low3 b) op.code)]
  | .vcvt t ty d a sinv rm dir other => [word .V t.toBits 0x30 (rrr d a 0 ty.code), cvtLit 0 sinv rm dir other]
  | .vquant t ty d a b tensor sinv rm other => [word .V t.toBits 0x31 (rrr d a b ty.code), cvtLit (granOf tensor) sinv rm false other]
  | .vdequant t ty d a b tensor sinv rm other => [word .V t.toBits 0x32 (rrr d a b ty.code), cvtLit (granOf tensor) sinv rm false other]
  | .vrcp t ty d a => [word .V t.toBits 0x38 (rrr d a 0 ty.code)]
  | .vrsq t ty d a => [word .V t.toBits 0x39 (rrr d a 0 ty.code)]
  | .vexp2 t ty d a => [word .V t.toBits 0x3a (rrr d a 0 ty.code)]
  | .vlog2 t ty d a => [word .V t.toBits 0x3b (rrr d a 0 ty.code)]
  | .vtanh t ty d a => [word .V t.toBits 0x3c (rrr d a 0 ty.code)]
  | .vsqrt t ty d a => [word .V t.toBits 0x3d (rrr d a 0 ty.code)]
  | .vredadd t ty d a => [word .V t.toBits 0x40 (rrr d a 0 ty.code)]
  | .vredmax t ty d a => [word .V t.toBits 0x41 (rrr d a 0 ty.code)]
  | .vredmin t ty d a => [word .V t.toBits 0x42 (rrr d a 0 ty.code)]
  | .vperm t ty d a b => [word .V t.toBits 0x48 (rrr d a b ty.code)]
  | .vbcast t ty d a => [word .V t.toBits 0x49 (rrr d a 0 ty.code)]
  | .vins t ty d a b => [word .V t.toBits 0x4a (rrr d a b ty.code)]
  | .vext t ty d a b => [word .V t.toBits 0x4b (rrr d a b ty.code)]
  | .vlds t d a b z => [word .V t.toBits 0x50 (rrr d a b (z.setWidth 3))]
  | .vsts t d a b z => [word .V t.toBits 0x51 (rrr d a b (z.setWidth 3))]
  | .vgath t d a b w64 => [word .V t.toBits 0x52 (rrr d a b (gathMod w64))]
  | .vldg t d a b z => [word .V t.toBits 0x53 (rrr d a b (z.setWidth 3))]
  | .vstg t d a b z => [word .V t.toBits 0x54 (rrr d a b (z.setWidth 3))]
  | .vgathg t d a b w64 => [word .V t.toBits 0x55 (rrr d a b (gathMod w64))]
  | .vatom t op d a b => [word .V t.toBits 0x56 (rrr d a b op.code)]
  | .phreg mode a s => [word .Y 0 0x0 (rrr (mode.setWidth 5) a 0 s)]
  | .phdrop a s => [word .Y 0 0x1 (rrr 0 a 0 s)]
  | .phsig a s => [word .Y 0 0x2 (rrr 0 a 0 s)]
  | .phwait a s => [word .Y 0 0x3 (rrr 0 a 0 s)]
  | .phnext a s => [word .Y 0 0x4 (rrr 0 a 0 s)]
  | .phexpb a b s => [word .Y 0 0x5 (rrr 0 a b s)]
  | .phq a b s => [word .Y 0 0x6 (rrr 0 a b s)]
  | .bind d a b => [word .Y 0 0x8 (rrr d a b 0)]
  | .unbind a all => [word .Y 0 0x9 (rrr 0 a 0 (bit0 all))]
  | .fence fl s => [word .Y 0 0xa (rrr (fl.setWidth 5) 0 0 s)]
  | .waitw b w ch => [word .Y 0 0x10 (rrr 0 0 b (relCh w ch))]
  | .waitf a b => [word .Y 0 0x11 (rrr 0 a b 0)]
  | .waitt b => [word .Y 0 0x12 (rrr 0 0 b 0)]
  | .yleave n => [word .Y 0 0x13 (rrr n 0 0 0)]
  | .nsend a b => [word .N 0 0x0 (rrr 0 a b 0)]
  | .npost a b => [word .N 0 0x1 (rrr 0 a b 0)]
  | .nrmaw a b => [word .N 0 0x2 (rrr 0 a b 0)]
  | .nrmar a b => [word .N 0 0x3 (rrr 0 a b 0)]
  | .natom a b cas => [word .N 0 0x4 (rrr 0 a b (bit0 cas))]
  | .narm a b => [word .N 0 0x8 (rrr 0 a b 0)]
  | .ndisarm d a => [word .N 0 0x9 (rrr d a 0 0)]
  | .pegset a b f => [word .N 0 0xa (rrr 0 a b f.code)]
  | .pegadd d a b => [word .N 0 0xb (rrr d a b 0)]
  | .pegrd d a f => [word .N 0 0xc (rrr d a 0 f.code)]
  | .nlaunch d a b => [word .N 0 0x10 (rrr d a b 0)]
  | .ngang d a b => [word .N 0 0x11 (rrr d a b 0)]
  | .nsave d a rel => [word .N 0 0x12 (rrr d a 0 (bit0 rel))]
  | .nload d a => [word .N 0 0x13 (rrr d a 0 0)]
  | .nfreeze => [word .N 0 0x14 (rrr 0 0 0 0)]
  | .nthaw => [word .N 0 0x15 (rrr 0 0 0 0)]
  | .nmap a b op => [word .N 0 0x16 (rrr 0 a b op.code)]
  | .nreg d a b k => [word .N 0 0x18 (rrr d a b k.code)]
  | .nrevoke a b k => [word .N 0 0x19 (rrr 0 a b k.code)]
  | .ncoll a unload => [word .N 0 0x1a (rrr 0 a 0 (bit0 unload))]
  | .nrearm a b => [word .N 0 0x1b (rrr 0 a b 0)]
  | .nhash a b => [word .N 0 0x20 (rrr 0 a b 0)]
  | .nsign d a b => [word .N 0 0x21 (rrr d a b 0)]
  | .nrand d => [word .N 0 0x22 (ri d 0)]
  | .nop => [word .A 0 0x0 0]
  | .prep r lit => [word .A 0 0x1 (branch r 0 0 0), lit]
  | .br r => [word .A 0 0x2 (branch r 0 0 0)]
  | .brT r p => [word .A 0 0x2 (branch r 1 (low3 p) 0)]
  | .brF r p => [word .A 0 0x2 (branch r 2 (low3 p) 0)]
  | .brDnz r s => [word .A 0 0x2 (branch r 3 s 0)]
  | .brl r => [word .A 0 0x3 (branch r 0 0 0)]
  | .brlT r p => [word .A 0 0x3 (branch r 1 (low3 p) 0)]
  | .brlF r p => [word .A 0 0x3 (branch r 2 (low3 p) 0)]
  | .brlDnz r s => [word .A 0 0x3 (branch r 3 s 0)]
  | .checkS r s => [word .A 0 0x4 (branch r 4 s 0x00)]
  | .checkP r p => [word .A 0 0x4 (branch r 4 (low3 p) 0x20)]
  | .checkV r v => [word .A 0 0x4 (branch r 4 v 0x40)]
  | .checkM r m => [word .A 0 0x4 (branch r 4 (low3 m) 0x60)]
  | .endTask => [word .A 0 0x5 0]
  | .yield => [word .A 0 0x6 0]
  | .trap n => [word .A 0 0x7 (branch 0 0 0 (n.setWidth 7))]
  | .align => [word .A 0 0x8 0]
  | .eret => [word .A 0 0x9 0]
  | .streamDeadlock _ => []
  | .trapDeliver _ => []
  | .registerWrite _ _ _ => []
  | .fsplitWrite _ _ => []
  | .fsplitAdopt _ => []
  | .autoPromotion _ _ => []
  | .promoteEpoch _ => []
  | .eccError _ _ => []
  | .ctxSkip _ => []
  | .ctxAbandon _ => []
  | .ctxHold _ _ => []
  | .errqPop _ => []
  | .transferComplete _ => []
  | .transferFault _ => []
  | .leaveGrant _ => []
  | .governorSample _ _ => []
  | .thermalSample _ _ => []
  | .thermalCapStep _ => []
  | .quartetJoin _ => []
  | .quartetTimeout _ => []
  | .messageArrival _ => []
  | .pegCopyComplete _ => []
  | .launchTrack => []
  | .schedulerAdmit _ => []
  | .placement _ => []
  | .contextStart _ => []
  | .taskRetire _ => []
  | .parkedReturn _ => []
  | .checkpointReturn _ => []
  | .eventDispatch => []
  | .threadWatchdog _ => []
  | .remoteRequest _ => []
  | .remoteReply _ _ => []
  | .switchMute _ => []
  | .hariusBackstop _ => []
  | .linkDown _ => []
  | .linkTrained _ _ _ _ => []
  | .leaseExpire _ => []
  | .rredRetry _ => []
  | .collectiveChunk _ => []
  | .chunkRetry _ => []
  | .baseDieStep _ => []
  | .collProbe _ _ => []
  | .gangMemberLaunch _ _ _ _ => []
  | .gangAck _ _ => []
  | .gangWindowExpire _ => []
  | .rmaRequest _ => []
  | .rmaComplete _ _ => []
  | .messageAck _ => []
  | .packetNak _ _ _ => []
  | .retransmitTimeout _ _ => []
  | .contextFetch _ => []
  | .revokeComplete _ => []
  | .pfcPause _ _ _ => []
  | .ptpSync _ => []
  | .nvmeCompletion _ _ _ => []
  | .phaserEvent _ => []
  | .asidFree _ => []
  | .packageReset => []
  | .doorbell _ => []
  | .reload _ => []
  | .stage _ _ _ => []
  | .readStatus => []
  | .setCap _ => []
  | .readCounters _ _ => []
  | .clearCounters _ _ => []
  | .readLog _ _ => []
  | .mgmtUnknownCommand _ => []
  | .getVersion => []
  | .getCapabilities => []
  | .negotiateAlgorithms => []
  | .getDigests => []
  | .getCertificate _ _ _ => []
  | .challenge _ _ => []
  | .getMeasurements _ _ => []
  | .spdmUnsupportedRequest _ => []
  | .hostMessage _ => []
  | .hostRecordSend => []
  | .keyLoad => []
  | .meas7Extend => []
  | .peerTableWrite _ _ => []
  | .portTableWrite _ => []
  | .errorCounterClear _ _ => []
  | .timeNsReached _ => []
  | .signatureComplete => []
  | .healthTestFailure _ => []
  | .driveFailure _ => []
  | .connectionEstablished _ => []
  | .connectionFailure _ => []
  | .portUp _ => []
  | .stagingWrite _ _ => []

/-- The bytes of an instruction as the text holds them. -/
def encodeBytes (i : Instr) : List Byte := (encode i).flatMap wordBytes

/-- A word of the machine, as against an event. -/
def Instr.isWord (i : Instr) : Bool := !(encode i).isEmpty

/-- The words of an instruction given as one number, its first word in the low 32 bits: the first and the second. -/
def tableWords (w : Nat) : Word × Word := (BitVec.ofNat 32 w, BitVec.ofNat 32 (w / 2 ^ 32))

/-- The instruction this decoder reads from an instruction whose bits are `w`, bit 0 the least significant bit of the first
word; bits above `nbits` are zero. -/
def decodeTableWord (nbits w : Nat) : Option Instr :=
  let (a, b) := tableWords (w % 2 ^ nbits)
  match decode (wordBytes a ++ wordBytes b) with
  | .ok (i, _) => some i
  | .error _ => Option.none

end Sys2Proof
end

