-- ==== Sys2Proof/Machine/Holder.lean ====
section
/-!
DEFINITION. A phaser at its holder (R275 to R279): registrations, signals, drops, expectations, byte arrivals, waits, queries.
-/

namespace Sys2Proof.Machine

/-- PHASER_RANGE and the other causes of R280. -/
def causeRange : Byte := 0x50
/-- PHASER_NOT_REGISTERED. -/
def causeNotReg : Byte := 0x51
/-- PHASER_ASID. -/
def causePhAsid : Byte := 0x52
/-- PHASER_FULL. -/
def causeFull : Byte := 0x53
/-- PHASER_SCOPE. -/
def causePhScope : Byte := 0x54
/-- PHASER_REGISTERED. -/
def causeRegistered : Byte := 0x55

/-- The mode includes SIG. -/
def modeSig (m : BitVec 2) : Bool := m.getLsbD 0
/-- The mode includes WAIT. -/
def modeWait (m : BitVec 2) : Bool := m.getLsbD 1

namespace Phaser

/-- NSIG. -/
def nsig (p : Phaser) : Nat := (p.regs.filter fun r => modeSig r.mode).length
/-- NWAIT. -/
def nwait (p : Phaser) : Nat := (p.regs.filter fun r => modeWait r.mode).length

/-- A phaser as its first registration creates it (R275). -/
def fresh (name : PhaserName) (asid : Asid) (owner : Party) : Phaser :=
  ⟨name, asid, 0, 0, 0, 0, false, 0, false, false, owner, [], [], []⟩

/-- Whether the current phase is complete (R275). -/
def complete (p : Phaser) : Bool := (decide (0 < p.nsig) || p.expset) && p.arrived == p.nsig && p.brem == 0

/-- One completed phase (R275). -/
def advance (p : Phaser) : Phaser :=
  { p with ph := p.ph + 1, arrived := p.ahead, ahead := 0, expset := false, overrunSent := false }

/-- R275's evaluation. A phase that completes leaves AHEAD 0 and EXPSET false, so no more than two complete in a row. -/
def evaluate (p : Phaser) : Phaser :=
  if p.complete then (if p.advance.complete then p.advance.advance else p.advance) else p

/-- The registrant's entry. -/
def reg (p : Phaser) (g : Party) : Option Registrant := p.regs.find? (·.party == g)

/-- Changes a registrant's entry. -/
def setReg (p : Phaser) (g : Party) (f : Registrant → Registrant) : Phaser :=
  { p with regs := p.regs.map fun r => if r.party = g then f r else r }

/-- The one-phase lead holds a signal (R275). -/
def leads (p : Phaser) (r : Registrant) : Bool := decide (p.ph.toNat + 2 ≤ r.sph.toNat)

/-- Counts a signal that the lead does not hold. -/
def count (p : Phaser) (r : Registrant) : Phaser :=
  let p := if r.sph = p.ph then { p with arrived := p.arrived + 1 } else { p with ahead := p.ahead + 1 }
  (p.setReg r.party fun r => { r with sph := r.sph + 1 }).evaluate

/-- Takes a registrant and its signals out (R276); the oldest that remains becomes the owner (R277). -/
def takeOut (p : Phaser) (g : Party) : Phaser :=
  match p.reg g with
  | none => p
  | some r =>
    let sig := modeSig r.mode
    let rest := p.regs.filter fun x => x.party != g
    { p with
      arrived := if sig && decide (p.ph.toNat < r.sph.toNat) then p.arrived - 1 else p.arrived
      ahead := if sig && decide (p.ph.toNat + 1 < r.sph.toNat) then p.ahead - 1 else p.ahead
      regs := rest
      owner := if p.owner = g then ((rest.head?).map fun x => x.party).getD g else p.owner
      heldSignals := p.heldSignals.filter (· != g)
      heldWaits := p.heldWaits.filter (· != g) }

/-- Removes a registrant (R276): the phaser is evaluated. -/
def remove (p : Phaser) (g : Party) : Phaser := if (p.reg g).isNone then p else (p.takeOut g).evaluate

/-- No registrant is left (R278). -/
def empty (p : Phaser) : Bool := p.nsig == 0 && p.nwait == 0

end Phaser

/-- The phaser of a name, if it exists. -/
def findPhaser (l : List Phaser) (n : PhaserName) : Option Phaser := l.find? (·.name == n)

/-- Stores a phaser in place of its old state, or deletes it when no registrant is left (R278). -/
def putPhaser (l : List Phaser) (p : Phaser) : List Phaser :=
  let rest := l.filter (·.name != p.name)
  if p.empty then rest else p :: rest

/-- What a holder answers to a word: a cause, or not yet, or done at a phase. For PHASER_FULL `more` is 1 where the phaser's count is
full and 2 where a thread's signal would exceed the lead (R280); for POISON_FRET it is 1 where the party is registered (R279). -/
inductive HolderAns where
  | fault (cause : Byte) (more : Nat)
  | held
  | done (ph : Dword)
deriving DecidableEq, Repr

/-- A registration (R274, R294). -/
def holdRegister (l : List Phaser) (n : PhaserName) (asid : Asid) (g : Party) (mode : BitVec 2) : List Phaser × HolderAns :=
  let p := (findPhaser l n).getD (Phaser.fresh n asid g)
  if p.asid ≠ asid then (l, .fault causePhAsid 0)
  else if (p.reg g).isSome then (l, .fault causeRegistered 0)
  else if (modeSig mode ∧ 65535 ≤ p.nsig) ∨ (modeWait mode ∧ 65535 ≤ p.nwait) then (l, .fault causeFull 1)
  else (putPhaser l (Phaser.evaluate { p with regs := p.regs ++ [⟨g, mode, p.ph, p.ph⟩] }), .done p.ph)

/-- Looks a registrant up for a word that needs a registration (R279, R280). -/
def holdLookup (l : List Phaser) (n : PhaserName) (asid : Asid) (g : Party) : Except HolderAns (Phaser × Registrant) :=
  match findPhaser l n with
  | none => .error (.fault causeNotReg 0)
  | some p =>
    if p.asid ≠ asid then .error (.fault causePhAsid 0)
    else match p.reg g with
      | none => .error (.fault causeNotReg 0)
      | some r => .ok (p, r)

/-- A signal (R275, R296): one beyond the lead is held for a context and refused to a Harius thread. -/
def holdSignal (l : List Phaser) (n : PhaserName) (asid : Asid) (g : Party) : List Phaser × HolderAns :=
  match holdLookup l n asid g with
  | .error e => (l, e)
  | .ok (p, r) =>
    if !modeSig r.mode then (l, .fault causeNotReg 0)
    else if p.leads r then (l, if g.thread then .fault causeFull 2 else .held)
    else (putPhaser l (p.count r), .done p.ph)

/-- The signal of PHNEXT (R279, R297): none on a poisoned phaser, nor without SIGWAIT. -/
def holdNext (l : List Phaser) (n : PhaserName) (asid : Asid) (g : Party) : List Phaser × HolderAns :=
  match (findPhaser l n).filter fun p => p.asid == asid && p.poisoned with
  | some p => (l, .fault 0x20 (p.reg g).isSome.toNat)
  | none => match holdLookup l n asid g with
    | .error e => (l, e)
    | .ok (_, r) => if modeWait r.mode then holdSignal l n asid g else (l, .fault causeNotReg 0)

/-- A drop (R276, R295). -/
def holdDrop (l : List Phaser) (n : PhaserName) (asid : Asid) (g : Party) : List Phaser × HolderAns :=
  match holdLookup l n asid g with
  | .error e => (l, e)
  | .ok (p, _) => (putPhaser l (p.remove g), .done p.ph)

/-- An expectation (R277, R298). -/
def holdExpect (l : List Phaser) (n : PhaserName) (asid : Asid) (g : Party) (bytes : Dword) : List Phaser × HolderAns :=
  match holdLookup l n asid g with
  | .error e => (l, e)
  | .ok (p, _) => (putPhaser l { p with brem := min (p.brem + bytes.toNat) (2 ^ 64 - 1), expset := true }.evaluate, .done p.ph)

/-- A byte arrival (R275, R277): none where the phaser does not exist, else the phasers and whether the owner is told of an
overrun. -/
def holdArrive (l : List Phaser) (n : PhaserName) (bytes : Nat) : Option (List Phaser × Option Party) :=
  match findPhaser l n with
  | none => none
  | some p =>
    if p.brem < bytes then
      let q := { p with ovr := p.ovr + bytes - p.brem, brem := 0, overrunSent := true }
      some (putPhaser l q.evaluate, if p.overrunSent then none else some p.owner)
    else some (putPhaser l { p with brem := p.brem - bytes }.evaluate, none)

/-- A wait (R275, R279, R297): released with WPH moved on, not yet, or a trap. On a poisoned phaser a wait that begins traps at
once, and one that was `opened` before traps when it returns. -/
def holdWait (opened : Bool) (l : List Phaser) (n : PhaserName) (asid : Asid) (g : Party) : List Phaser × HolderAns :=
  match findPhaser l n with
  | none => (l, .fault causeNotReg 0)
  | some p =>
    if p.asid ≠ asid then (l, .fault causePhAsid 0)
    else match p.reg g with
      | none => (l, .fault (if p.poisoned then 0x20 else causeNotReg) 0)
      | some r =>
        if p.poisoned && (!opened || decide (r.wph.toNat < p.ph.toNat)) then (l, .fault 0x20 1)
        else if !modeWait r.mode then (l, .fault causeNotReg 0)
        else if r.wph.toNat < p.ph.toNat then (putPhaser l (p.setReg g fun r => { r with wph := r.wph + 1 }), .done p.ph)
        else (l, .held)

/-- The 64-byte record of PHQ (R299). -/
def holdQuery (l : List Phaser) (n : PhaserName) (g : Party) : List Byte :=
  match findPhaser l n with
  | none => (List.replicate 64 (0 : Byte)).set 0x31 (n.scope.setWidth 8)
  | some p =>
    let r := p.reg g
    let sig := r.any fun r => modeSig r.mode
    let wt := r.any fun r => modeWait r.mode
    let status := 1 + p.expset.toNat * 2 + p.poisoned.toNat * 4 + r.isSome.toNat * 8 + ((r.map (·.mode.toNat)).getD 0) * 16
    natBytes 8 p.ph.toNat ++ natBytes 8 p.brem ++ natBytes 8 p.ovr ++ natBytes 2 p.nsig ++ natBytes 2 p.nwait ++
      natBytes 2 p.arrived ++ natBytes 2 p.ahead ++
      natBytes 8 (if sig then ((r.map (·.sph.toNat)).getD 0) else 0) ++ natBytes 8 (if wt then ((r.map (·.wph.toNat)).getD 0) else 0) ++
      natBytes 1 status ++ natBytes 1 n.scope.toNat ++ natBytes 2 0 ++ natBytes 4 p.asid.toNat ++ natBytes 8 0

/-- R279: all registrations of a silent package leave a phaser, which is poisoned, and only then evaluated. -/
def Phaser.losePkg (p : Phaser) (pkg : Pkg) : Phaser :=
  let gone := p.regs.filter (·.party.pkg == pkg)
  if gone.isEmpty then p
  else Phaser.evaluate { gone.foldl (fun (q : Phaser) r => q.takeOut r.party) p with poisoned := true }

/-- The phasers after a package falls silent: only system phasers lose registrations (R279). -/
def phasersLosePkg (l : List Phaser) (pkg : Pkg) : List Phaser :=
  (l.map fun p => if p.name.scope = 5 then p.losePkg pkg else p).filter (fun p => !p.empty)

end Sys2Proof.Machine
end

