-- ==== Sys2Proof/Machine/Translate.lean ====
section
/-!
DEFINITION. Address forms (R149 to R151), translation (R153 to R157) and the checks of an access (R155, R158, R159, R173).
-/

namespace Sys2Proof.Machine

/-- Cause codes (R112). -/
def causeIllegal : Byte := 0x01
/-- ILLEGAL_ENGINE. -/
def causeEngine : Byte := 0x02
/-- RESERVED_FIELD. -/
def causeReserved : Byte := 0x03
/-- TOKEN_OVERFLOW. -/
def causeToken : Byte := 0x10
/-- STREAM_DEADLOCK. -/
def causeDeadlock : Byte := 0x11
/-- POISON_FRET. -/
def causeFret : Byte := 0x20
/-- PAGE_FAULT. -/
def causePage : Byte := 0x30
/-- ACCESS_VIOLATION. -/
def causeAccess : Byte := 0x31
/-- MISALIGNED. -/
def causeAlign : Byte := 0x32
/-- SCRATCH_BOUND. -/
def causeBound : Byte := 0x33

/-- A trap without a detail or address. -/
def Trap.plain (cause : Byte) : Trap := ⟨cause, 0, none, none, none⟩
/-- A trap with a detail alone. -/
def Trap.withDetail (cause : Byte) (d : Nat) : Trap := ⟨cause, BitVec.ofNat 64 d, none, none, none⟩

/-- KIND of R159. -/
inductive AKind where
  | load | store | atomic | promote | fetch | copyRead | copyWrite
deriving DecidableEq, Repr

/-- KIND's code (R159). -/
def AKind.code : AKind → Nat
  | .load => 0 | .store => 1 | .atomic => 2 | .promote => 3 | .fetch => 4 | .copyRead => 5 | .copyWrite => 6

/-- DETAIL of R159: KIND, LEVEL, SCR, MALF, WHY. -/
def memDetail (k : AKind) (level : Nat) (scr malf : Bool) (why : Nat) : Dword :=
  BitVec.ofNat 64 (k.code + level * 8 + scr.toNat * 32 + malf.toNat * 64 + why * 256)

/-- A memory fault of causes 0x30 to 0x33 at an address (R159). -/
def memTrap (cause : Byte) (k : AKind) (scr : Bool) (why : Nat) (addr : Dword) : Trap :=
  ⟨cause, memDetail k 0 scr false why, some addr, none, none⟩

/-- ACCESS_VIOLATION with a WHY and no address (R39, R36). -/
def whyTrap (why : Nat) : Trap := ⟨causeAccess, memDetail .load 0 false false why, none, none, none⟩

/-- POISON_FRET's DETAIL (R333): SITE, REG, FILE. -/
def fretTrap (site reg file : Nat) (addr : Option Dword) : Trap :=
  ⟨causeFret, BitVec.ofNat 64 (site + reg * 16 + file * 512), addr, none, none⟩

/-! Global addresses (R25, R149) -/

/-- The package field of a global address. -/
def vaPkg (va : Dword) : Nat := natField va.toNat 44 12

/-- R149: a global address with the own package's number put in place of 0xFFF; none where its form is bad. -/
def globalForm (own : Pkg) (a : Dword) : Option (BitVec 56) :=
  if a.extractLsb' 56 8 != 0 then none
  else if vaPkg a = 0xFFF then some (own.setWidth 12 ++ a.extractLsb' 0 44)
  else if vaPkg a < 0x400 then some (a.setWidth 56)
  else none

/-! Page tables (R153, R154) -/

/-- V. -/
def pteV (p : Dword) : Bool := p.getLsbD 0
/-- LEAF. -/
def pteLeaf (p : Dword) : Bool := p.getLsbD 1
/-- SIZE. -/
def pteSize (p : Dword) : Nat := natField p.toNat 2 2
/-- R. -/
def pteR (p : Dword) : Bool := p.getLsbD 4
/-- W. -/
def pteW (p : Dword) : Bool := p.getLsbD 5
/-- X. -/
def pteX (p : Dword) : Bool := p.getLsbD 6
/-- D. -/
def pteD (p : Dword) : Bool := p.getLsbD 8
/-- SRC. -/
def pteSrc (p : Dword) : Bool := p.getLsbD 9
/-- KEYID. -/
def pteKey (p : Dword) : Nat := natField p.toNat 57 7
/-- Bits [55:13] as an address, the own number put in place of a package field of 0xFFF (R153). -/
def pteAddr (own : Pkg) (p : Dword) : Nat :=
  let a := natField p.toNat 13 43 * 8192
  if natField a 44 12 = 0xFFF then natField a 0 44 + own.toNat * 2 ^ 44 else a

/-- Page size in bytes of a leaf at a level, if the pair is one of R153's. -/
def leafSpan (lvl size : Nat) : Option Nat :=
  if lvl = 1 ∧ size = 0 then some (2 ^ 16) else if lvl = 1 ∧ size = 1 then some (2 ^ 21)
  else if lvl = 2 ∧ size = 2 then some (2 ^ 30) else none

/-- What a walk ends in: a leaf with its address, page size and level, a page fault at a level, a poisoned entry, or the table's address
being no physical address (R152). -/
inductive Walk where
  | leaf (pte : Dword) (at_ : Nat) (span : Nat) (lvl : Nat)
  | fault (lvl : Nat) (malf : Bool)
  | poisoned
  | bad
deriving DecidableEq, Repr

/-- A leaf's FRAME is well formed for its page size (R153): frame bits below the page zero, a valid physical address. Of an entry's
reserved bits, a leaf's [15:13] are held to zero with its frame; [56] and [12:10] are ignored (R154 gives non-zero ones no effect)
(DESIGN CHOICE, log 50). -/
def frameOk (own : Pkg) (p : Dword) (span : Nat) : Bool :=
  let a := pteAddr own p
  natField p.toNat 13 3 == 0 && a % span == 0 && paOk (natField a 0 44) && decide (natField a 44 12 < 0x400)

/-- The address of the entry that a walk reads in a table at a level (R153). -/
def pteIn (tbl lvl va : Nat) : Nat := tbl + 8 * natField va (10 * lvl + 6) 10

/-- The eight bytes of an entry, read under key slot 0 (R153). -/
def Memory.pte (m : Memory) (at_ : Nat) : Dword := BitVec.ofNat 64 (leNat (m.hbmBytes (m.key 0) at_ 8))

/-- The walk of R153 over the levels still to go; `tbl` is the table's address in this package. A table's address with a non-zero reserved
field, or a STACK of 12 to 15, is an ACCESS_VIOLATION (R152); a NEXT that names another package is malformed first (DESIGN CHOICE,
log 50). -/
def walkFrom (m : Memory) (va : Nat) : List Nat → Nat → Walk
  | [], _ => .fault 1 true
  | lvl :: rest, tbl =>
    if !paOk tbl then .bad
    else
      let at_ := pteIn tbl lvl va
      if m.rangePoison at_ 8 then .poisoned
      else
        let p := m.pte at_
        if !pteV p then .fault lvl false
        else if pteLeaf p then
          match leafSpan lvl (pteSize p) with
          | none => .fault lvl true
          | some span => if frameOk m.own p span then .leaf p at_ span lvl else .fault lvl true
        else if lvl = 1 then .fault 1 true
        else
          let n := pteAddr m.own p
          if natField n 44 12 = m.own.toNat then walkFrom m va rest (natField n 0 44) else .fault lvl true

/-- The levels of a walk, the first one first. -/
def walkLevels : List Nat := [4, 3, 2, 1]

/-- The address of the level-4 table. The package field of PT_ROOT is dropped: the tables lie in the own package's HBM (R153), and the spec
gives a root that names another package no effect (DESIGN CHOICE, log 50). -/
def rootTable (root : BitVec 43) : Nat := natField (root.toNat * 8192) 0 44

/-- The walk of R153 from PT_ROOT. -/
def walk (m : Memory) (root : BitVec 43) (va : BitVec 56) : Walk := walkFrom m va.toNat walkLevels (rootTable root)

/-- A walk's reads at the die cache end the ingress leases of the lines that it reads (R172). -/
def Memory.walkReads (va : Nat) : List Nat → Nat → Memory → Memory
  | [], _, m => m
  | lvl :: rest, tbl, m =>
    let at_ := pteIn tbl lvl va
    let p := m.pte at_
    let m := m.endLeases at_ 8
    if pteV p && !pteLeaf p && lvl != 1 then Memory.walkReads va rest (natField (pteAddr m.own p) 0 44) m else m

/-- Memory after a walk. -/
def Memory.walked (m : Memory) (root : BitVec 43) (va : BitVec 56) : Memory :=
  if m.leases.isEmpty then m else m.walkReads va.toNat walkLevels (rootTable root)

/-- PKG of a physical address (R152). -/
def Phys.pkg (p : Phys) : Nat := natField p.pa 44 12
/-- Offset [43:0] of a physical address. -/
def Phys.off (p : Phys) : Nat := natField p.pa 0 44

/-- The permission a kind of access needs (R155). -/
def permitted (k : AKind) (p : Dword) : Bool :=
  match k with
  | .load | .promote | .copyRead => pteR p
  | .store | .copyWrite => pteW p
  | .atomic => pteR p && pteW p
  | .fetch => pteX p

/-- What a translation answers: the memory after the walker's updates, the free values drawn, and the address or the trap. -/
structure Xlat where
  mem : Memory
  fresh : Nat
  res : Except Trap Phys

/-- Entries that differ only in A and D translate alike. -/
def samePte (p q : Dword) : Bool := (p ||| 0x180) == (q ||| 0x180)

/-- The replicas of a large page's leaf: well-formed leaves of the same size among the consecutive entries that write the page (R153). -/
def replicas (m : Memory) : Walk → List Walk
  | .leaf _ at_ span lvl =>
    let n := if span = 2 ^ 21 then 32 else if span = 2 ^ 30 then 16 else 0
    (upTo n).filterMap fun i =>
      let a := at_ / (8 * n) * (8 * n) + 8 * i
      let q := m.pte a
      if !m.rangePoison a 8 && pteV q && pteLeaf q && leafSpan lvl (pteSize q) == some span && frameOk m.own q span then some (.leaf q a span lvl)
      else none
  | _ => []

/-- A translation that an access may use: from a walk, or held by a TLB (R156). -/
inductive Route where
  | fill (w : Walk)
  | held (e : TlbEntry)
deriving DecidableEq, Repr

/-- The TLBs of a core: its own, and the shared one of its die (R14, R15). -/
def homesOf (core : Nat) : List Nat := [core, 512 + core / 128]

/-- Entries that a TLB holds (R14, R15). -/
def tlbSize (home : Nat) : Nat := if home < 512 then 256 else 8192

/-- A held entry covers a page of an address space. -/
def TlbEntry.covers (e : TlbEntry) (asid : Asid) (page : Nat) : Bool :=
  e.asid == asid && decide (e.page ≤ page) && decide (page < e.page + e.span)

/-- A held entry and the leaf of a walk lead to the same state: alike but for A and D, with A set in the leaf, and D where a write
needs it. -/
def TlbEntry.alike (e : TlbEntry) (writes : Bool) : Walk → Bool
  | .leaf p _ _ _ => samePte e.pte p && p.getLsbD 7 && (!writes || pteD p || !pteD e.pte)
  | _ => false

/-- A leaf and another walk's end translate alike. -/
def Walk.alike : Walk → Walk → Bool
  | .leaf p _ _ _, .leaf q _ _ _ => samePte p q
  | _, _ => false

/-- The translations an access of a core, or of a Harius agent, may use (R153, R156, R157): the table's own, then replicas of a large page
and translations that the core's TLBs still hold, where they differ from it (DESIGN CHOICE, log 4). -/
def candidates (m : Memory) (who : Option Nat) (asid : Asid) (root : BitVec 43) (va : BitVec 56) (writes : Bool) : List Route :=
  let now := walk m root va
  let homes := (who.map homesOf).getD []
  let held := m.tlb.filter fun e => homes.contains e.home && e.covers asid (va.toNat / 65536) && !e.alike writes now
  .fill now :: ((replicas m now).filter fun w => !w.alike now).map .fill ++ held.map .held

/-- A TLB takes an entry in place of any for the same page and leaf; where it is full, the one taken first goes (DESIGN CHOICE, log 4). -/
def Memory.tlbPut (m : Memory) (e : TlbEntry) : Memory :=
  let rest := m.tlb.filter fun x => !(x.home == e.home && x.asid == e.asid && x.page == e.page && x.span == e.span && x.pteAt == e.pteAt)
  let own := rest.filter (·.home == e.home)
  let rest := if own.length < tlbSize e.home then rest
    else match own.getLast? with
      | none => rest
      | some x => rest.filter (· != x)
  { m with tlb := e :: rest }

/-- The TLBs of a core take a translation (R156) (DESIGN CHOICE, log 4). -/
def holdTlb (m : Memory) (who : Option Nat) (asid : Asid) (va : BitVec 56) (p : Dword) (at_ span : Nat) : Memory :=
  ((who.map homesOf).getD []).foldl (fun (m : Memory) home => m.tlbPut ⟨home, asid, va.toNat / span * span / 65536, span / 65536, p, at_⟩) m

/-- Sets bits in a page-table entry in memory (R156). -/
def setPte (m : Memory) (at_ : Nat) (bits : Dword) : Memory :=
  let p := m.pte at_
  if p ||| bits = p then m else (m.endLeases at_ 8).hbmWrite (m.key 0) at_ (natBytes 8 (p ||| bits).toNat) false

/-- A page fault's trap (R159). -/
def pageTrap (k : AKind) (lvl : Nat) (malf : Bool) (addr : Dword) : Trap :=
  ⟨causePage, memDetail k (lvl - 1) false malf 0, some addr, none, none⟩

/-- A kind of access that sets D (R156). -/
def AKind.writes (k : AKind) : Bool := k == .store || k == .atomic || k == .copyWrite

/-- Step 5 of R173 for a leaf: permission, promote-slot row, key slot (R155, R158). -/
def leafTrap (m : Memory) (p : Dword) (pa : Nat) (k : AKind) (addr : Dword) : Option Trap :=
  if !permitted k p then some (memTrap causeAccess k false 0 addr)
  else if natField pa 44 12 = m.own.toNat ∧ m.isSlotRow (natField pa 0 44) then some (memTrap causeAccess k false 3 addr)
  else if (m.keyOf (pteKey p)).isNone then some (memTrap causeAccess k false 4 addr)
  else none

/-- What a leaf's first write does (R156): D is set in the entry as memory now holds it, unless that is no longer valid or writable. -/
def dirtyTrap (m : Memory) (at_ lvl : Nat) (k : AKind) (addr : Dword) : Option Trap :=
  if !pteV (m.pte at_) then some (pageTrap k lvl false addr)
  else if !pteW (m.pte at_) then some (memTrap causeAccess k false 0 addr)
  else none

/-- The level of a leaf that covers so many 64 KiB pages (R153). -/
def TlbEntry.level (e : TlbEntry) : Nat := if e.span * 65536 = 2 ^ 30 then 2 else 1

/-- Steps 4 and 5 of R173 along one route, for memory after the walk: permission, promote-slot row, key slot; then A on a fill, and D on the
first write through the entry (R156). A poisoned entry is reported as R153 states, a code fetch's too: POISON_FRET's DETAIL has no KIND
(R333) (DEDUCED, log 49). -/
def Route.take (m : Memory) (who : Option Nat) (asid : Asid) (va : BitVec 56) (k : AKind) (addr : Dword) : Route → Memory × Except Trap Phys
  | .fill .poisoned => (m, .error (fretTrap 1 0 7 (some addr)))
  | .fill .bad => (m, .error (memTrap causeAccess k false 1 addr))
  | .fill (.fault lvl malf) => (m, .error (pageTrap k lvl malf addr))
  | .fill (.leaf p at_ span _) =>
    let pa := pteAddr m.own p / span * span + va.toNat % span
    match leafTrap m p pa k addr with
    | some t => (m, .error t)
    | none =>
      let bits : Dword := if k.writes then 0x180 else 0x080
      (holdTlb (setPte m at_ bits) who asid va (p ||| bits) at_ span, .ok ⟨pa, pteKey p⟩)
  | .held e =>
    let span := e.span * 65536
    let pa := pteAddr m.own e.pte / span * span + va.toNat % span
    match leafTrap m e.pte pa k addr with
    | some t => (m, .error t)
    | none =>
      if k.writes && !pteD e.pte then
        match dirtyTrap m e.pteAt e.level k addr with
        | some t => (m, .error t)
        | none => ((setPte m e.pteAt 0x100).tlbPut { e with pte := e.pte ||| 0x100 }, .ok ⟨pa, pteKey e.pte⟩)
      else (m, .ok ⟨pa, pteKey e.pte⟩)

/-- Steps 4 and 5 of R173 for a checked form, for an access of a core (`who`) or of a Harius agent, along one of the routes that R153, R156
and R157 allow (DESIGN CHOICE, log 4). -/
def translate (m : Memory) (fresh : Nat) (who : Option Nat) (asid : Asid) (root : BitVec 43) (va : BitVec 56) (k : AKind) (addr : Dword) : Xlat :=
  let cs := candidates m who asid root va k.writes
  let i := if cs.length ≤ 1 then 0 else Config.choice fresh % cs.length
  let r := (cs.getD i (.fill (.fault 1 false))).take (m.walked root va) who asid va k addr
  ⟨r.1, if cs.length ≤ 1 then fresh else fresh + 1, r.2⟩

/-! Scratch addresses (R150) -/

/-- What a scratch address names before any bound is checked: an own offset, or a core and offset, or nothing. -/
inductive ScrForm where
  | own (off : Nat)
  | package (core off : Nat)
  | bad
deriving DecidableEq, Repr

/-- The form of a scratch address (R150). -/
def scrForm (a : Dword) : ScrForm :=
  if a.extractLsb' 32 32 != 0 then .bad
  else if a.extractLsb' 30 2 == 0 then (if a.extractLsb' 21 9 == 0 then .own (natField a.toNat 0 21) else .bad)
  else if a.extractLsb' 30 2 == 1 then .package (natField a.toNat 28 2 * 128 + natField a.toNat 21 7) (natField a.toNat 0 21)
  else .bad

/-- An allocation on a core: its address space, base and declared bytes. -/
structure Alloc where
  asid : Asid
  core : Nat
  base : Nat
  bytes : Nat
deriving DecidableEq, Repr

/-- The allocations of the package's contexts, resident or parked (R150). -/
def allocs (cs : List Ctx) : List Alloc :=
  cs.filterMap fun c => match c.place with
    | .resident | .parked _ _ => some ⟨c.asid, c.core, c.scrBase, c.scrBytes⟩
    | _ => none

/-- A form-01 range lies wholly in an allocation of the address space (R150). -/
def allocHolds (l : List Alloc) (asid : Asid) (core off n : Nat) : Bool :=
  l.any fun a => a.asid == asid && a.core == core && decide (a.base ≤ off) && decide (off + n ≤ a.base + a.bytes)

/-! Physical operands of a Harius thread (R151, R152) -/

/-- A Harius thread's physical operand: the offset and the key slot, or the WHY of its fault. Bit 63 must be zero, the package
the own one, reserved fields zero, the stack below 12; then the promote-slot row, then the key slot. -/
def physForm (m : Memory) (a : Dword) : Except Nat Phys :=
  let pkg := vaPkg a
  let off := natField a.toNat 0 44
  if a.getLsbD 63 then .error 1
  else if pkg ≠ 0xFFF ∧ pkg ≠ m.own.toNat then .error 1
  else if !paOk off then .error 1
  else if m.isSlotRow off then .error 3
  else if (m.keyOf (natField a.toNat 56 7)).isNone then .error 4
  else .ok ⟨m.own.toNat * 2 ^ 44 + off, natField a.toNat 56 7⟩

end Sys2Proof.Machine
end

