-- ==== Sys2Proof/Machine/Store.lean ====
section
/-!
DEFINITION. Harius's own records in HBM: the control area (R415), error counters (R417), the package log (R347), address-space
entries (R369) and peer entries (R328). Harius reaches them under key slot 0.
-/

namespace Sys2Proof.Machine

/-- A read by an agent of the die caches: it ends an ingress lease of the lines it touches (R172). -/
def Memory.dieRead (m : Memory) (slot a n : Nat) : List Byte × Bool × Memory :=
  (m.hbmBytes (m.key slot) a n, m.rangePoison a n, m.endLeases a n)

/-- A write by an agent of the die caches (DEDUCED, log 18). -/
def Memory.dieWrite (m : Memory) (slot a : Nat) (l : List Byte) (p : Bool) : Memory :=
  (m.endLeases a l.length).hbmWrite (m.key slot) a l p

/-- The entries of a list of bytes with poison that fall in one sector, as (offset, byte, poison). -/
def cellsIn (sec a : Nat) (l : List (Byte × Bool)) : List (Nat × Byte × Bool) :=
  (upTo 32).filterMap fun i => if a ≤ sec * 32 + i then (l[sec * 32 + i - a]?).map (fun b => (i, b.1, b.2)) else none

/-- Writes bytes that carry poison: each sector takes the poison of any byte written to it (R169). -/
def Memory.hbmWriteP (m : Memory) (key a : Nat) (l : List (Byte × Bool)) : Memory :=
  (sectorsOf a l.length).foldl (fun m sec =>
    let cs := cellsIn sec a l
    m.writeSector key sec (cs.map fun c => (c.1, c.2.1)) (cs.any (·.2.2))) m

/-- The same to a core's scratchpad. -/
def Memory.scrWriteP (m : Memory) (core off : Nat) (l : List (Byte × Bool)) : Memory :=
  (sectorsOf (scrAt core off) l.length).foldl (fun m sec =>
    let cs := cellsIn sec (scrAt core off) l
    m.writeScrSector sec (cs.map fun c => (c.1, c.2.1)) (cs.any (·.2.2))) m

/-- Bytes of HBM with the poison of their sectors. -/
def Memory.hbmReadP (m : Memory) (key a n : Nat) : List (Byte × Bool) :=
  (upTo n).map fun i => (m.hbmByte key (a + i), m.sectorPoison ((a + i) / 32))

/-- Bytes of a scratchpad with the poison of their sectors. -/
def Memory.scrReadP (m : Memory) (core off n : Nat) : List (Byte × Bool) :=
  (upTo n).map fun i => (cellRead m.scr (scrAt core off + i), m.scrPoison.contains ((scrAt core off + i) / 32))

/-- Bytes given with one poison bit for each 32 of them. -/
def withSectorPoison (l : List Byte) (p : List Bool) : List (Byte × Bool) := l.zipIdx.map fun x => (x.1, p.getD (x.2 / 32) false)

/-- One poison bit for each 32 bytes. -/
def sectorPoisons (l : List (Byte × Bool)) : List Bool := (chunks 32 l.length l).map fun c => c.any (·.2)

/-- Offset [43:0] of a header address (R409). -/
def hdrOff (a : BitVec 56) : Nat := natField a.toNat 0 44

/-- Where the control area lies, once an image runs (R415). -/
def PkgSt.ctl (p : PkgSt) : Option Nat := if p.started then some (hdrOff p.hdr.ctlBase) else none

/-- Address-space table (R369), peer table (R328), port table (R385), error counters, key record, MEAS7 record, power block,
host mailbox and log head: their offsets in the control area (R415). -/
def ctlPeers : Nat := 0x40000
/-- The port table's offset. -/
def ctlPorts : Nat := 0x42000
/-- The error counters' offset. -/
def ctlCounters : Nat := 0x42200
/-- The key record's offset. -/
def ctlKey : Nat := 0x42A00
/-- The MEAS7 record's offset. -/
def ctlMeas7 : Nat := 0x42A80
/-- The power block's offset. -/
def ctlPower : Nat := 0x42AC0
/-- The host mailbox's offset. -/
def ctlMailbox : Nat := 0x42B00
/-- The package log head's offset. -/
def ctlLogHead : Nat := 0x42F00
/-- The control area's length. -/
def ctlSize : Nat := 0x100000

/-- Reads n bytes of the control area as a number; 0 before an image runs. -/
def Memory.ctlNat (m : Memory) (p : PkgSt) (off n : Nat) : Nat :=
  match p.ctl with
  | some b => leNat (m.hbmBytes (m.key 0) (b + off) n)
  | none => 0

/-- Harius writes n bytes of the control area; its own writes are not forwarded to it. -/
def Memory.ctlPut (m : Memory) (p : PkgSt) (off n x : Nat) : Memory :=
  match p.ctl with
  | some b => { m.dieWrite 0 (b + off) (natBytes n x) false with fwd := m.fwd }
  | none => m

/-! Error counters (R417) -/

/-- The counters that R417 lists. -/
def counterListed (i : Nat) : Bool := decide (i ≤ 47)

/-- A counter: in the control area, or before START in Harius (DEDUCED, log 47). -/
def Memory.counter (m : Memory) (p : PkgSt) (i : Nat) : Nat :=
  if p.ctl.isSome then m.ctlNat p (ctlCounters + 8 * i) 8 else (m.early.toList)[i]?.getD 0

/-- Stores a value to a counter. -/
def Memory.counterPut (m : Memory) (p : PkgSt) (i x : Nat) : Memory :=
  if p.ctl.isSome then m.ctlPut p (ctlCounters + 8 * i) 8 x else if h : i < 48 then { m with early := m.early.set i x } else m

/-- Adds 1 to a counter, saturating. -/
def Memory.count (m : Memory) (p : PkgSt) (i : Nat) : Memory := m.counterPut p i (min (m.counter p i + 1) (2 ^ 64 - 1))

/-- A store to a counter: 0 clears a listed one, any other value is ignored. -/
def Memory.counterStore (m : Memory) (p : PkgSt) (i : Nat) (v : Dword) : Memory :=
  if counterListed i && v == 0 then m.counterPut p i 0 else m

/-! Logs (R322, R347, R370) -/

/-- Appends a 32-byte record to the package log (R347, R415). -/
def Memory.packageLog (m : Memory) (p : PkgSt) (l : List Byte) : Memory :=
  if !p.started || p.hdr.logLen == 0 then m
  else
    let n := m.ctlNat p ctlLogHead 8
    (m.dieWrite 0 (hdrOff p.hdr.logBase + 32 * (n % p.hdr.logLen)) l false).ctlPut p ctlLogHead 8 (n + 1)

/-- A package-log record (R347). -/
def logRecord (code cause : Nat) (thread : Nat) (data time detail : Nat) : List Byte :=
  natBytes 1 code ++ natBytes 1 cause ++ natBytes 2 thread ++ natBytes 4 0 ++ natBytes 8 data ++ natBytes 8 time ++ natBytes 8 detail

/-- The offset of an address space's entry (R369). -/
def asidAt (asid : Asid) : Nat := 64 * asid.toNat

/-- STATE of an address space (R369): 0 free, 1 live, 2 tearing down. -/
def Memory.asidState (m : Memory) (p : PkgSt) (asid : Asid) : Nat := m.ctlNat p (asidAt asid + 0x18) 1

/-- ROOT of an address space (R369). -/
def Memory.asidRoot (m : Memory) (p : PkgSt) (asid : Asid) : BitVec 43 := BitVec.ofNat 43 (natField (m.ctlNat p (asidAt asid) 8) 13 43)

/-- Changes RREDOUT, the address space's RRED words not yet complete (R369). -/
def Memory.rredOut (m : Memory) (p : PkgSt) (asid : Asid) (up : Bool) : Memory :=
  let x := m.ctlNat p (asidAt asid + 0x20) 8
  m.ctlPut p (asidAt asid + 0x20) 8 (if up then x + 1 else x - 1)

/-- Appends a 32-byte record to an address space's error log, or to the package log where it has none (R370). -/
def Memory.errorLog (m : Memory) (p : PkgSt) (asid : Asid) (l : List Byte) : Memory :=
  let e := asidAt asid
  let len := m.ctlNat p (e + 0x10) 4
  if len = 0 then m.packageLog p l
  else
    let head := m.ctlNat p (e + 0x14) 4
    let base := natField (m.ctlNat p (e + 0x08) 8) 0 44
    (m.dieWrite 0 (base + 32 * (head % len)) l false).ctlPut p (e + 0x14) 4 ((head + 1) % 2 ^ 32)

/-- An error-log record (R322). -/
def errorRecord (entry : Dword) (ctxid time : Dword) : List Byte :=
  natBytes 8 entry.toNat ++ natBytes 8 ctxid.toNat ++ natBytes 8 time.toNat ++ natBytes 8 0

/-! The peer table (R328) -/

/-- A peer's entry. -/
def Memory.peer (m : Memory) (p : PkgSt) (n : Pkg) : Dword := BitVec.ofNat 64 (m.ctlNat p (ctlPeers + 8 * n.toNat) 8)
/-- Writes a peer's entry. -/
def Memory.peerPut (m : Memory) (p : PkgSt) (n : Pkg) (v : Dword) : Memory := m.ctlPut p (ctlPeers + 8 * n.toNat) 8 v.toNat
/-- SILENT. -/
def Memory.silent (m : Memory) (p : PkgSt) (n : Pkg) : Bool := (m.peer p n).getLsbD 0

/-- Adds 1 to a field of a number, saturating. -/
def satField (x lo w : Nat) : Nat :=
  let f := natField x lo w
  if f = 2 ^ w - 1 then x else x + 2 ^ lo

end Sys2Proof.Machine
end

