-- ==== Sys2Proof/Machine/Ops.lean ====
section
/-!
DEFINITION. The operations that every word shares: registers and their text-ordered views (R35, R96, R97), tokens (R99 to R102),
stalls, taking a trap (R107 to R111), resuming from one (R113), the end of a Harius thread (R347), and completing a word.
-/

namespace Sys2Proof.Machine

/-- The frame lies in another package. -/
def State.remote (s : State) (g : Global) : Bool := g.phys.pkg != s.mem.own.toNat

/-! Registers (R35, R36) -/

/-- A scalar register; s0 reads 0, clean. -/
def ScalarFile.getS (f : ScalarFile) (r : SReg) : SVal := if r = 0 then ⟨0, false⟩ else f.s[r.toNat]'r.isLt
/-- Writes a scalar register; a write of s0 is discarded. -/
def ScalarFile.setS (f : ScalarFile) (r : SReg) (v : SVal) : ScalarFile := if r = 0 then f else { f with s := f.s.set r.toNat v r.isLt }
/-- A predicate; p0 is true, clean. -/
def ScalarFile.getP (f : ScalarFile) (r : PReg) : PVal := if r = 0 then ⟨true, false⟩ else f.p[r.toNat]'r.isLt
/-- Writes a predicate; a write of p0 is discarded. -/
def ScalarFile.setP (f : ScalarFile) (r : PReg) (v : PVal) : ScalarFile := if r = 0 then f else { f with p := f.p.set r.toNat v r.isLt }
/-- A b register. -/
def ScalarFile.getB (f : ScalarFile) (r : BReg) : Dword := f.b[r.toNat]'r.isLt
/-- Writes a b register. -/
def ScalarFile.setB (f : ScalarFile) (r : BReg) (v : Dword) : ScalarFile := { f with b := f.b.set r.toNat v r.isLt }

/-- A vector register. -/
def Ctx.getV (c : Ctx) (r : VReg) : VVal := c.v[r.toNat]'r.isLt
/-- Writes a vector register. -/
def Ctx.setV (c : Ctx) (r : VReg) (v : VVal) : Ctx := { c with v := c.v.set r.toNat v r.isLt }
/-- A mask register; m0 is all ones, clean. -/
def Ctx.getM (c : Ctx) (r : MReg) : MVal := if r = 0 then ⟨BitVec.allOnes 1024, false⟩ else c.m[r.toNat]'r.isLt
/-- Writes a mask register; a write of m0 is discarded. -/
def Ctx.setM (c : Ctx) (r : MReg) (v : MVal) : Ctx := if r = 0 then c else { c with m := c.m.set r.toNat v r.isLt }
/-- A tile; 96 to 127 do not exist and read as the zero tile (no word reaches them, R29). -/
def Ctx.getA (c : Ctx) (t : Nat) : Tile := if h : t < 96 then c.a[t] else ⟨0, 0⟩
/-- Writes a tile. -/
def Ctx.setA (c : Ctx) (t : Nat) (v : Tile) : Ctx := if h : t < 96 then { c with a := c.a.set t v h } else c

/-! Streams (R90) -/

/-- One of the six streams. -/
def Streams.get (x : Streams) : StreamId → Stream
  | .S => x.s | .L => x.l | .M => x.m | .V => x.v | .W => x.w | .Y => x.y

/-- Replaces one of the six streams. -/
def Streams.put (x : Streams) (e : StreamId) (st : Stream) : Streams :=
  match e with
  | .S => { x with s := st } | .L => { x with l := st } | .M => { x with m := st }
  | .V => { x with v := st } | .W => { x with w := st } | .Y => { x with y := st }

/-- The order of the streams in every record (R110). -/
def streamOrder : List StreamId := [.S, .L, .M, .V, .W, .Y]

/-- The engine code of R27. -/
def StreamId.code : StreamId → Nat
  | .S => 0 | .L => 1 | .M => 2 | .V => 3 | .W => 4 | .Y => 6

/-- One of a context's streams. -/
def Ctx.stream (c : Ctx) (e : StreamId) : Stream := c.streams.get e
/-- Changes one of a context's streams. -/
def Ctx.onStream (c : Ctx) (e : StreamId) (f : Stream → Stream) : Ctx := { c with streams := c.streams.put e (f (c.streams.get e)) }
/-- The active streams (R91). -/
def Ctx.activeStreams (c : Ctx) : List StreamId := streamOrder.filter fun e => !(c.stream e).inact
/-- The positions of the active streams other than S. -/
def Ctx.lagging (c : Ctx) : List Nat := (c.activeStreams.filter (· != .S)).map fun e => (c.stream e).pos

/-- Moves a stream past a word of n positions. -/
def Stream.advance (st : Stream) (n : Nat) : Stream := { st with pc := st.pc + BitVec.ofNat 64 (4 * n), pos := st.pos + n, stall := 0 }

/-- Reports a stall (R111). -/
def Ctx.stalled (c : Ctx) (e : StreamId) (code : BitVec 4) : Ctx := c.onStream e fun st => { st with stall := code }

/-! Text-ordered scalars (R96, R97, R127) -/

/-- A load or atomic of the register is outstanding. -/
def Ctx.pending (c : Ctx) (r : SReg) : Bool := r != 0 && c.loads.any fun l => l.reg == r

/-- The scalar that a stream's next word reads (R96), or the STALL with which it waits: 11 on S behind an outstanding load, 6 on
another stream for a value that S has not yet written. -/
def Ctx.readS (c : Ctx) (e : StreamId) (r : SReg) : Except (BitVec 4) SVal :=
  if r = 0 then .ok ⟨0, false⟩
  else match e with
    | .S => if c.pending r then .error 11 else .ok (c.sf.getS r)
    | _ =>
      let st := c.stream e
      match c.hist.find? fun h => h.2.1 == r && decide (st.pos ≤ h.1) with
      | some h => .ok h.2.2
      | none =>
        if c.pending r || st.writes.any (fun w => w.2 == r && decide (c.streams.s.pos ≤ w.1)) then .error 6 else .ok (c.sf.getS r)

/-- The version history after S writes a register at its position; entries that no lagging stream can read are dropped (DEDUCED, log 17). -/
def Ctx.histAfter (c : Ctx) (r : SReg) : List (Nat × SReg × SVal) :=
  (c.hist ++ [(c.streams.s.pos, r, c.sf.getS r)]).filter fun h => c.lagging.any fun q => decide (q ≤ h.1)

/-- S writes a scalar register. -/
def Ctx.writeS (c : Ctx) (r : SReg) (v : SVal) : Ctx := if r = 0 then c else { c with hist := c.histAfter r, sf := c.sf.setS r v }

/-- How many of the versions ending at rising positions are needed by a lagging stream (R97) (DEDUCED, log 17). -/
def neededFrom (lag : List Nat) : Option Nat → List Nat → Nat
  | _, [] => 0
  | lo, p :: ps => (if lag.any fun q => lo.all (fun l => decide (l < q)) && decide (q ≤ p) then 1 else 0) + neededFrom lag (some p) ps

/-- A write of the register would need a fifth version (R97) (DEDUCED, log 17). -/
def Ctx.versionsFull (c : Ctx) (r : SReg) : Bool :=
  r != 0 && decide (4 ≤ neededFrom c.lagging none ((c.hist.filter (fun h => h.2.1 == r)).map (·.1) ++ [c.streams.s.pos]))

/-! Values of system registers seen by lagging streams (R40) -/

/-- The value that a stream's word under way goes on with, of a register that Harius has written since it issued (R40). -/
def Ctx.held? (c : Ctx) (e : StreamId) (n : SysNum) : Option Dword := (c.sees.find? fun x => x.1 == e && x.2.1 == n).map (·.2.2)

/-- PT_ROOT as a stream's word sees it (R40). -/
def Ctx.rootOf (c : Ctx) (e : StreamId) : BitVec 43 := ((c.held? e 0x103).map fun v => v.extractLsb' 13 43).getD c.regs.root

/-- The value of a system register that a stream's next word sees, given the value now in force; STALL 6 where S has not yet
executed a SETS that the stream has passed. -/
def Ctx.seen (c : Ctx) (e : StreamId) (n : SysNum) (now : Dword) : Except (BitVec 4) Dword :=
  match e, c.held? e n with
  | .S, _ => .ok now
  | _, some v => .ok v
  | _, none =>
    let st := c.stream e
    match c.sysHist.find? fun h => h.2.1 == n && decide (st.pos ≤ h.1) with
    | some h => .ok h.2.2
    | none => if st.sets.any (fun w => w.2 == n && decide (c.streams.s.pos ≤ w.1)) then .error 6 else .ok now

/-! Tokens (R99 to R102) -/

/-- The nibble index of the counters that an engine's words pop forward, push forward, pop backward and push backward. -/
def popF : StreamId → Option Nat
  | .L => some 0 | .M => some 2 | .V => some 4 | .W => some 6 | _ => none
/-- The counter that `pf` pushes. -/
def pushF : StreamId → Option Nat
  | .S => some 0 | .L => some 2 | .M => some 4 | .V => some 6 | _ => none
/-- The counter that `wb` pops. -/
def popB : StreamId → Option Nat
  | .S => some 1 | .L => some 3 | .M => some 5 | .V => some 7 | _ => none
/-- The counter that `pb` pushes. -/
def pushB : StreamId → Option Nat
  | .L => some 1 | .M => some 3 | .V => some 5 | .W => some 7 | _ => none

/-- A counter's value. -/
def tokGet (w : Word) (i : Nat) : Nat := natField w.toNat (4 * i) 4
/-- A counter plus a number, modulo 16. -/
def tokAdd (w : Word) (i : Nat) (d : Nat) : Word := setElem 4 w i (BitVec.ofNat 4 (tokGet w i + d))

/-- Every counter the word pops is non-zero (R100). -/
def popReady (w : Word) (e : StreamId) (t : Tok) : Bool :=
  (!t.wf || (popF e).all fun i => tokGet w i != 0) && (!t.wb || (popB e).all fun i => tokGet w i != 0)

/-- The counters after the word's pops. -/
def popAll (w : Word) (e : StreamId) (t : Tok) : Word :=
  let w := if t.wf then ((popF e).map fun i => tokAdd w i 15).getD w else w
  if t.wb then ((popB e).map fun i => tokAdd w i 15).getD w else w

/-- Applies pushes. -/
def pushAll (w : Word) (e : StreamId) (t : Tok) : Word :=
  let w := if t.pf then ((pushF e).map fun i => tokAdd w i 1).getD w else w
  if t.pb then ((pushB e).map fun i => tokAdd w i 1).getD w else w

/-- A word of the stream has issued and still runs at its program counter (R107). -/
def Ctx.running (c : Ctx) (e : StreamId) : Bool := c.issued.any fun r => r.e == e && r.runs

/-- The stream stands in the middle of a word: one that has issued, or a V word whose pieces are under way. -/
def Ctx.midWord (c : Ctx) (e : StreamId) : Bool := c.running e || (e == .V && c.vplan.isSome)

/-- Words that stand issued at their stream's program counter with a push still to be applied. -/
def Ctx.pendIssued (c : Ctx) (e : StreamId) (f : Tok → Bool) : Nat := (c.issued.filter fun r => r.e == e && r.runs && f r.push).length

/-- An array word of M that has issued waits for the tile of an earlier one (R217). -/
def Ctx.jobsBlocked (c : Ctx) : Bool :=
  (upTo c.jobs.length).any fun k => c.jobs[k]?.any fun j => (c.jobs.take k).any fun i => i.tiles.any j.tiles.contains

/-- M reports STALL 14 while an array word of its own waits for an earlier one, also where it has moved on (R217). -/
def Ctx.arrayStall (c : Ctx) : Ctx :=
  c.onStream .M fun st =>
    if c.jobsBlocked then (if st.stall = 0 then { st with stall := 14 } else st)
    else if st.stall = 14 ∧ !c.running .M ∧ c.late.all (·.1 != .M) then { st with stall := 0 } else st

/-- An engine's pending forward pushes: checked at issue, not yet applied (R101). -/
def Ctx.pendF (c : Ctx) (e : StreamId) : Nat :=
  match e with
  | .S => (c.loads.filter (·.push)).length + (c.banks.filter (·.push)).length
  | .L => (c.xfers.filter fun x => !x.ref.w && x.pfDue).length
  | .M => (c.jobs.filter (·.push.pf)).length + c.pendIssued .M (·.pf)
  | .V => c.pendIssued .V (·.pf)
  | _ => 0
/-- An engine's pending backward pushes. -/
def Ctx.pendB (c : Ctx) (e : StreamId) : Nat :=
  match e with
  | .L => (c.xfers.filter fun x => !x.ref.w && x.pbDue).length
  | .W => (c.xfers.filter fun x => x.ref.w && x.pbDue).length
  | .M => (c.jobs.filter (·.push.pb)).length + c.pendIssued .M (·.pb)
  | .V => c.pendIssued .V (·.pb)
  | _ => 0

/-- One push is at its ceiling (R102). -/
def pushFull (w ceil : Word) (i : Option Nat) (pend : Nat) : Bool := i.any fun i => tokGet w i + pend == tokGet ceil i

/-- TOKEN_OVERFLOW's DETAIL (R110) (DEDUCED, log 16). -/
def overflowTrap (w : Word) (i : Option Nat) : Trap :=
  match i with
  | none => Trap.plain causeToken
  | some i => Trap.withDetail causeToken (i / 2 + (i % 2) * 4 + tokGet w i * 16)

/-- The check of a word's pushes (R102): those that pass, and the trap that follows the word if one does not (DEDUCED, log 16). -/
def Ctx.checkPush (c : Ctx) (e : StreamId) (t : Tok) : Tok × Option Trap :=
  let w := popAll c.tok e t
  let f := t.pf && pushFull w c.regs.tokCeil (pushF e) (c.pendF e)
  let b := t.pb && pushFull w c.regs.tokCeil (pushB e) (c.pendB e)
  ({ t with pf := t.pf && !f, pb := t.pb && !b },
    if f then some (overflowTrap w (pushF e)) else if b then some (overflowTrap w (pushB e)) else none)

/-! Taking a trap, and resuming (R107 to R113) -/

/-- CTX_ID (R42). -/
def Ctx.id (c : Ctx) : Dword :=
  BitVec.ofNat 64 (c.asid.toNat * 2 ^ 28 + c.ttype.toNat * 2 ^ 16 + c.slot * 2 ^ 11 + c.core / 128 * 2 ^ 9 + c.core)

/-- Asynchronous words of a stream still outstanding (R111). -/
def Ctx.outstanding (c : Ctx) (e : StreamId) : Nat :=
  match e with
  | .L => (c.xfers.filter fun x => !x.ref.w).length
  | .W => (c.xfers.filter fun x => x.ref.w).length
  | _ => 0

/-- A stream's status word (R111). -/
def Ctx.status (c : Ctx) (e : StreamId) : Word :=
  let st := c.stream e
  BitVec.ofNat 32 (st.inact.toNat * 512 + st.fail.toNat * 256 + min (c.outstanding e) 15 * 16 + st.stall.toNat)

/-- Marks the failing stream, and no other. -/
def Ctx.markFail (c : Ctx) (fail : Option StreamId) : Ctx :=
  streamOrder.foldl (fun c e => c.onStream e fun st => if fail = some e then { st with fail := true, stall := 0 } else { st with fail := false }) c

/-- Taking a trap (R107, R110): every stream of the context stops where it stands and the record is built; `size` is for SKIP. A trap that
would still follow a word of another stream leaves no record (R108). -/
def Ctx.takeTrap (c : Ctx) (fail : Option StreamId) (size : Nat) (t : Trap) (time : Dword) : Ctx :=
  let c := c.markFail fail
  { c with
    regs := { c.regs with trapped := true }
    record := some ⟨t, fail, size, c.id, streamOrder.map fun e => (c.stream e).pc, streamOrder.map fun e => (c.stream e).pos,
      streamOrder.map c.status, time, c.tok, c.fifo.length⟩
    late := []
    undelivered := true }

/-- Words that were issued when a trap came and have not completed (R107): loads and bank words of S, M and V words, and a phaser
word of Y that its home has been sent or has answered; a wait there may last for ever and is none of them. -/
def Ctx.unsettled (c : Ctx) : Bool :=
  !c.loads.isEmpty || !c.banks.isEmpty || !c.jobs.isEmpty || c.issued.any (·.runs) || c.vplan.isSome || c.phSent ||
    (c.phAnswer.isSome && (c.undelivered || !c.regs.trapped))

/-- The record as the context stands once its issued words have completed: each stream where it stops, and its counters (R107, R113). -/
def Ctx.refill (c : Ctx) (r : TrapRecord) : TrapRecord :=
  { r with
    pcs := streamOrder.map fun e => (c.stream e).pc
    poss := streamOrder.map fun e => (c.stream e).pos
    status := streamOrder.map c.status
    tokens := c.tok
    fifo := c.fifo.length }

/-- A context issues words only while TRAPPED, FROZEN and HOLD are all 0 (R361). -/
def Ctx.isStopped (c : Ctx) : Bool := c.regs.trapped || c.regs.frozen || c.regs.hold
/-- A context that is no longer stopped: its suspended transfers are tried again from their sectors (R256). -/
def Ctx.retry (c : Ctx) : Ctx := if c.isStopped then c else { c with xfers := c.xfers.map fun x => { x with fault := none } }

/-- A word of M or Y under way: one that has issued, or a Y word that waits. -/
def Ctx.underWay (c : Ctx) (e : StreamId) : Bool :=
  (e == .M && c.running .M) || (e == .Y && (c.running .Y || c.signalled || c.streams.y.stall == 10))

/-- Resuming a trapped context (R113): the streams go on where they stand, and suspended transfers from their sectors (R256); a word that is
executed again sees the registers as they are now (R40). -/
def Ctx.resume (c : Ctx) : Ctx :=
  { (c.markFail none) with
    regs := { c.regs with trapped := false }
    sees := c.sees.filter fun x => c.underWay x.1
    xfers := c.xfers.map fun x => { x with fault := none } }

/-! Contexts and threads of the package -/

/-- The context of an instance number. -/
def State.findCtx (s : State) (inst : Nat) : Option Ctx :=
  if inst = 0 then none else if s.ctx.inst = inst then some s.ctx else s.others.find? (·.inst == inst)

/-- Changes the context of an instance number, wherever it is. -/
def State.onCtx (s : State) (inst : Nat) (f : Ctx → Ctx) : State :=
  if inst = 0 then s
  else if s.ctx.inst = inst then { s with ctx := f s.ctx }
  else { s with others := s.others.map fun c => if c.inst = inst then f c else c }

/-- Every context of the package. -/
def State.ctxs (s : State) : List Ctx := if s.ctx.inst = 0 then s.others else s.ctx :: s.others

/-- Brings a context into focus, if it exists. -/
def State.focus (s : State) (inst : Nat) : Option State :=
  if inst = 0 then none
  else if s.ctx.inst = inst then some s
  else match s.others.find? (·.inst == inst) with
    | none => none
    | some c =>
      let rest := s.others.filter (·.inst != inst)
      some { s with ctx := c, others := if s.ctx.inst = 0 then rest else s.ctx :: rest }

/-- Brings a Harius thread into focus; a thread that is not listed is idle. -/
def State.focusThread (s : State) (n : Nat) : State :=
  if s.thr.num = n then s
  else
    let t := (s.threads.find? (·.num == n)).getD (Thread.idle n)
    { s with thr := t, threads := s.thr :: s.threads.filter (·.num != n) }

/-- Changes a Harius thread. -/
def State.onThread (s : State) (n : Nat) (f : Thread → Thread) : State :=
  if s.thr.num = n then { s with thr := f s.thr } else { s with threads := s.threads.map fun t => if t.num = n then f t else t }

/-! Error queue and logs (R319 to R322) -/

/-- An error-queue entry (R321). -/
def errEntry (cause addr : Nat) : Dword := BitVec.ofNat 64 (cause * 2 ^ 56 + addr % 2 ^ 56)

/-- Appends an entry to a context's error queue, or to the error log where the queue is full (R319, R322). A context that has
exited takes none. -/
def State.pushErr (s : State) (inst : Nat) (entry : Dword) (phovr : Bool) : State :=
  match s.findCtx inst with
  | none => s
  | some c =>
    let s := if phovr then s.onCtx inst fun c => { c with regs := { c.regs with phovr := true } } else s
    if c.errq.length < 16 then s.onCtx inst fun c => { c with errq := c.errq ++ [entry] }
    else
      let s := s.onCtx inst fun c => { c with regs := { c.regs with ovf := true } }
      { s with mem := s.mem.errorLog s.pkg c.asid (errorRecord entry c.id s.pkg.time) }

/-- An entry for a phaser word (R321): the handle and the resolved scope. -/
def phaserEntry (cause : Nat) (n : PhaserName) : Dword :=
  errEntry cause (n.num.toNat + (if n.scope = 5 then n.at_ * 65536 else 0) + n.scope.toNat * 2 ^ 26)

/-- A phaser entry for a party: a context's error queue, or for a thread the error log of the address space (R277, R279). -/
def State.phaserErr (s : State) (thread : Bool) (inst : Nat) (asid : Asid) (cause : Nat) (n : PhaserName) : State :=
  if thread then { s with mem := s.mem.errorLog s.pkg asid (errorRecord (phaserEntry cause n) 0 s.pkg.time) }
  else s.pushErr inst (phaserEntry cause n) (cause == 4)

/-- Counts an event in an error counter (R417). -/
def State.countErr (s : State) (i : Nat) : State := { s with mem := s.mem.count s.pkg i }

/-- A write that was taken on before, through the key slot that it named then (R158): where that slot has been unloaded meanwhile,
its sectors take poison, and the event is counted. -/
def State.lateWrite (s : State) (slot a : Nat) (l : List Byte) (p : Bool) : State :=
  if (s.mem.keyOf slot).isSome then { s with mem := s.mem.dieWrite slot a l p }
  else ({ s with mem := (sectorsOf a l.length).foldl Memory.poisonSector (s.mem.endLeases a l.length) } : State).countErr 30

/-- Harius takes an event into its queue (R344). Entries past 8,192 are those that their sources still hold. -/
def State.raise (s : State) (kind : Byte) (asid : Asid) (s2 s3 s4 s5 : Dword) : State :=
  { s with har := { s.har with queue := s.har.queue ++ [⟨kind, asid, s2, s3, s4, s5, s.pkg.time, none, none⟩] } }

/-- The name of this package's party. -/
def State.party (s : State) (thread : Bool) (id : Nat) : Party := ⟨s.mem.own, thread, id⟩

/-- The package that holds a phaser: HOME at system scope, else the own package (R271). -/
def State.homeOf (s : State) (n : PhaserName) : Pkg := if n.scope = 5 then BitVec.ofNat 10 n.at_ else s.mem.own

/-- Whether any scale-up link carries traffic: with none, every request gets a mute reply of reason 2 (R412). -/
def PkgSt.linked (p : PkgSt) : Bool := p.links.toList.any fun l => l == .up

/-- The link by which what is numbered `id` leaves: any that carries traffic (R309). -/
def PkgSt.route (p : PkgSt) (id : Nat) : Option Nat :=
  let l := (upTo 18).filter fun i => (p.links.toList)[i]? == some .up
  l[Config.route id % l.length]?

/-- Sends a phaser word to its home in another package (R273); with no link that carries traffic it gets a mute reply (R412). `who` is the
party that waits for the answer, or 0. -/
def State.sendPhaser (s : State) (who : Nat) (thread : Bool) (asid : Asid) (n : PhaserName) (g : Party) (ev : PhaserEv) : State :=
  let id := s.net.nextId
  let w : Wire := ⟨id, s.homeOf n, 0, none, .phaser who n thread asid, false, asid, s.pkg.route id⟩
  let s : State := { s with net := { s.net with nextId := id + 1, wires := s.net.wires ++ [w] } }
  if !s.pkg.linked then { s with agenda := s.agenda ++ [.deliver (.mute id 2)] }
  else { s with out := s.out ++ [.phaserMsg (s.homeOf n) ⟨n.scope, n.at_, n.num, asid, g, ev⟩] }

/-- Drops one registration at its holder (R278). -/
def State.dropReg (s : State) (thread : Bool) (id : Nat) (asid : Asid) (r : Registration) : State :=
  let g := s.party thread id
  if s.homeOf r.name = s.mem.own then { s with har := { s.har with phasers := (holdDrop s.har.phasers r.name asid g).1 } }
  else if s.mem.silent s.pkg (s.homeOf r.name) then s.phaserErr thread id asid 3 r.name
  else s.sendPhaser 0 thread asid r.name g .drop

/-- The context whose request is on the wire. -/
def Origin.inst : Origin → Nat
  | .sload i _ | .vload i | .vatom i _ | .store i _ | .bank i _ | .mmar i => i
  | .rloadb r _ | .copyf r _ | .flagInc r => r.c
  | .phaser who _ false _ => who
  | _ => 0

/-- The answer to a phaser word on the wire is no longer waited for. -/
def State.detachPhaser (s : State) (who : Nat) (thread : Bool) : State :=
  { s with net := { s.net with wires := s.net.wires.map fun w => match w.origin with
      | .phaser k n th a => if k = who ∧ th = thread then { w with origin := .phaser 0 n th a } else w
      | _ => w } }

/-- The end of the thread in focus (R347): its registrations drop, and an end other than END or ERET is logged, a fret in the
error log too (R322). One that the watchdog has ended is logged already (DESIGN CHOICE, log 62). -/
def State.endThread (s : State) (why : Option Trap) : State :=
  let t := s.thr
  let s := t.phasers.foldl (fun s r => s.dropReg true t.num t.asid r) (s.detachPhaser (t.num + 1) true)
  let s := match why with
    | none => s
    | some tr =>
      let rec_ := logRecord 1 tr.cause.toNat t.num t.pc.toNat s.pkg.time.toNat tr.detail.toNat
      let m := if t.ending then s.mem else s.mem.packageLog s.pkg rec_
      { s with mem := if tr.cause = causeFret
          then m.errorLog s.pkg t.asid (errorRecord (errEntry 0x20 tr.detail.toNat) 0 s.pkg.time) else m }
  { s with
    thr := Thread.idle t.num
    net := { s.net with ops := s.net.ops.map fun o => { o with thread := if o.thread = some t.num then none else o.thread } } }

/-- Taking an exception, on a context (a trap, R107) or on a Harius thread (its end, R347). A fault that a word already issued
meets after another stream's trap leaves no record (R108). -/
def State.takeTrap (s : State) (size : Nat) (t : Trap) : State :=
  match s.agent with
  | .stream e => if s.ctx.regs.trapped then s else { s with ctx := s.ctx.takeTrap (some e) size t s.pkg.time }
  | .thread => s.endThread (some t)

/-! Completing a word -/

/-- How the body of a word ends: done (with its pushes left to the body's own record when `defer`), waiting with a STALL code before it
issues, holding with one once it has issued (its backward push applied where `pb`), or trapped. -/
inductive Res where
  | done (defer : Bool) (s : State)
  | wait (code : BitVec 4) (s : State)
  | hold (code : BitVec 4) (pb : Bool) (s : State)
  | trap (t : Trap) (s : State)
deriving DecidableEq, Repr

/-- What an instruction answers. -/
abbrev Outcome := Host.Outcome State Fault Refusal

/-- Moves the thread in focus past a word of n positions. -/
def Thread.advance (t : Thread) (n : Nat) : Thread := { t with pc := t.pc + BitVec.ofNat 64 (4 * n), waits := false }

/-- The stream in focus completes a word: pops, pushes that passed, and the move past it (DEDUCED, log 16). -/
def Ctx.complete (c : Ctx) (e : StreamId) (t push : Tok) (defer : Bool) (n : Nat) : Ctx :=
  let w := popAll c.tok e t
  { c.onStream e (·.advance n) with tok := if defer then w else pushAll w e push, issued := c.issued.filter (·.e != e)
                                    sees := c.sees.filter (·.1 != e) }

/-- The tokens that the word at a stream's program counter still pops: none once it has issued (R100). -/
def Ctx.popsLeft (c : Ctx) (e : StreamId) (t : Tok) : Tok := if c.issued.any (·.e == e) then { t with wf := false, wb := false } else t

/-- A word's pushes and the trap that follows it: as they were checked when it issued, or as they check now (R102). -/
def Ctx.pushesOf (c : Ctx) (e : StreamId) (t : Tok) : Tok × Option Trap :=
  match c.issued.find? fun r => r.e == e && r.runs with
  | some r => (r.push, r.late)
  | none => c.checkPush e t

/-- A word has issued and holds at its program counter: its pops are made, its pushes pending (R100, R101). -/
def Ctx.holds (c : Ctx) (e : StreamId) (t push : Tok) (late : Option Trap) (pb : Bool) : Ctx :=
  let w := popAll c.tok e t
  { c with
    tok := if pb then pushAll w e { push with pf := false } else w
    issued := c.issued.filter (·.e != e) ++ [⟨e, { push with pb := push.pb && !pb }, late, true⟩] }

/-- An issued word stops at a fault: its pops stay made, its pushes are checked anew when it is executed again (DEDUCED, log 16). -/
def Ctx.halted (c : Ctx) (e : StreamId) : Ctx :=
  { c with issued := c.issued.map fun r => if r.e = e then { r with runs := false } else r }

/-- The trap that follows a word (R102): once it has executed in full, which for a load of S or an array word of M is later. -/
def State.follow (s : State) (e : StreamId) (defer : Bool) : Option Trap → State
  | none => s
  | some tr => if defer && (e == .S || e == .M) then { s with ctx := { s.ctx with late := s.ctx.late ++ [(e, tr)] } } else s.takeTrap 0 tr

/-- Issues a word of a compute context (R100 to R102, R107): a pop of zero waits; the body runs; a push at its ceiling traps
after the word; a word that faults applies no pushes, and no pops unless it had issued. The checks of the body that are its steps 1 to 4
of R33 come after the wait for the pops (DESIGN CHOICE, log 54). -/
def ctxWord (e : StreamId) (t : Tok) (n : Nat) (body : Tok → State → Res) (s : State) : Outcome :=
  if s.agent = .stream e then
    let t := s.ctx.popsLeft e t
    if popReady s.ctx.tok e t then
      let (push, late) := s.ctx.pushesOf e t
      match body push s with
      | .wait code s => .next { s with ctx := s.ctx.stalled e code }
      | .hold code pb s => .next { s with ctx := (s.ctx.holds e t push late pb).stalled e code }
      | .trap tr s => .next (({ s with ctx := s.ctx.halted e } : State).takeTrap n tr)
      | .done defer s => .next (({ s with ctx := s.ctx.complete e t push defer n } : State).follow e defer late)
    else .next { s with ctx := s.ctx.stalled e 1 }
  else .fault .notOwner

/-- Runs a word of a Harius thread; one that waits has issued, and completes even where the watchdog ends the thread (R347). -/
def threadWord (n : Nat) (body : State → Res) (s : State) : Outcome :=
  match s.agent with
  | .thread =>
    match body s with
    | .wait _ s | .hold _ _ s => .next { s with thr := { s.thr with waits := true } }
    | .trap tr s => .next (s.takeTrap n tr)
    | .done _ s => .next { s with thr := s.thr.advance n }
  | .stream _ => .fault .notOwner

/-- Runs a word that both core types execute. -/
def anyWord (e : StreamId) (t : Tok) (n : Nat) (body : Tok → State → Res) (s : State) : Outcome :=
  match s.agent with
  | .thread => threadWord n (body t) s
  | .stream _ => ctxWord e t n body s

/-- The scalar registers that a word of the agent in focus reads. -/
def State.readS (s : State) (r : SReg) : Except (BitVec 4) SVal :=
  match s.agent with
  | .thread => .ok (s.thr.sf.getS r)
  | .stream e => s.ctx.readS e r

/-- S or a thread writes a scalar register. -/
def State.writeS (s : State) (r : SReg) (v : SVal) : State :=
  match s.agent with
  | .thread => { s with thr := { s.thr with sf := s.thr.sf.setS r v } }
  | .stream _ => { s with ctx := s.ctx.writeS r v }

/-- Binds a read: goes on with the value, or waits. -/
def State.withS (s : State) (r : SReg) (k : SVal → Res) : Res :=
  match s.readS r with
  | .ok v => k v
  | .error code => .wait code s

/-- A read whose poison is a fret of a site (R333). -/
def State.clean (s : State) (r : SReg) (site : Nat) (k : Dword → Res) : Res :=
  s.withS r fun v => if v.p then .trap (fretTrap site r.toNat 0 none) s else k v.v

/-- S may write the register now: no outstanding load of it (R127) and no fifth version (R97). -/
def State.writable (s : State) (r : SReg) (k : Unit → Res) : Res :=
  match s.agent with
  | .thread => k ()
  | .stream _ => if s.ctx.pending r then .wait 11 s else if s.ctx.versionsFull r then .wait 6 s else k ()

/-- Whose address space and registers the agent in focus uses: its ASID. -/
def State.asid (s : State) : Asid :=
  match s.agent with
  | .thread => s.thr.asid
  | .stream _ => s.ctx.asid

end Sys2Proof.Machine
end

