-- ==== Sys2Proof/Machine/Transport.lean ====
section
/-!
DEFINITION. Ultra Ethernet transport contexts (R387 to R389) and the ports that carry their packets (R384, R385): packets that leave and are
sent again, and packets that arrive.
-/

namespace Sys2Proof.Machine

/-- Bytes of a packet's payload (R384). -/
def packetMax : Nat := 4096

/-- How many transport contexts Harius keeps in SRAM, and in all (R389). -/
def transportSram : Nat := 16384
/-- The contexts in SRAM and HBM together. -/
def transportAll : Nat := 1048576

/-- A context that is never evicted: it has held packets or unacknowledged ones (R389). -/
def Transport.pinned (t : Transport) : Bool := !t.packets.isEmpty || !t.held.isEmpty

/-- Changes the first n transport contexts of a list that a test picks. -/
def evictFirst (f : Transport → Transport) (may : Transport → Bool) : Nat → List Transport → List Transport
  | 0, l => l
  | _, [] => []
  | n + 1, t :: ts => if may t then f t :: evictFirst f may n ts else t :: evictFirst f may (n + 1) ts

/-- Drops the first n transport contexts of a list that a test picks. -/
def dropFirst (may : Transport → Bool) : Nat → List Transport → List Transport
  | 0, l => l
  | _, [] => []
  | n + 1, t :: ts => if may t then dropFirst may n ts else t :: dropFirst may (n + 1) ts

/-- Past the capacity the least recently used contexts that may go leave SRAM, and past that of both memories are dropped (R389). -/
def trimTransports (l : List Transport) : List Transport :=
  let l := dropFirst (fun t => !t.pinned) (l.length - transportAll) l.reverse
  (evictFirst (fun t => { t with resident := false }) (fun t => t.resident && !t.pinned) ((l.filter (·.resident)).length - transportSram) l).reverse

/-- The transport context of a pair, mode and traffic class, or a new one (R387). -/
def Net.transport (n : Net) (peer : PeerEnd) (asid : Asid) (ordered : Bool) (tc : Nat) : Transport :=
  (n.transports.find? fun t => t.peer == peer && t.asid == asid && t.ordered == ordered && t.tc == tc).getD
    ⟨n.nextId, peer, asid, ordered, tc, true, 0, [], 0, [], [], []⟩

/-- A context is used: it becomes the latest (R389). -/
def State.putTransport (s : State) (t : Transport) : State :=
  { s with net := { s.net with
      nextId := s.net.nextId + 1
      transports := trimTransports (t :: s.net.transports.filter fun x => x.id != t.id) } }

/-- Changes a transport context. -/
def State.onTransport (s : State) (tc : Nat) (f : Transport → Transport) : State :=
  { s with net := { s.net with transports := s.net.transports.map fun t => if t.id = tc then f t else t } }

/-! Ports (R384, R385) -/

/-- A port's entry as Harius has applied it. -/
def Net.port (n : Net) (port : Nat) : BitVec 512 := ((n.ports.find? fun p => p.1 == port).map (·.2)).getD 0
/-- CTL.ENABLE of a port that is up. -/
def Net.portRuns (n : Net) (port : Nat) : Bool := n.portsUp.contains port && (n.port port).getLsbD 0
/-- A priority of a port is lossless. -/
def Net.lossless (n : Net) (port prio : Nat) : Bool := decide (prio < 8) && (n.port port).getLsbD (8 + prio % 8)
/-- A packet of a traffic class may leave: some port runs and has not been paused for it (R384) (DEDUCED, log 45). -/
def Net.carries (n : Net) (tc : Nat) : Bool := (upTo 8).any fun p => n.portRuns p && !(n.lossless p tc && n.paused.contains (p, tc))

/-! Sending -/

/-- Sends n packets of an operation or message in the transport context of its endpoint, mode and traffic class, which is made,
or fetched and counted, where it is not in SRAM (R387, R389): with the context and the first packet's number. -/
def State.transmit (s : State) (asid : Asid) (ep : Nat) (ordered : Bool) (tc op n : Nat) : State × Nat × Nat :=
  let t := s.net.transport (.to ep) asid ordered tc
  let s := if t.resident then s else s.countErr 36
  (s.putTransport { t with
    resident := true
    nextPsn := t.nextPsn + n
    packets := t.packets ++ (upTo n).map fun i => (⟨t.nextPsn + i, op, 0, false⟩ : Packet) }, t.id, t.nextPsn)

/-- The packets of an operation that has ended are no longer outstanding. -/
def State.dropPackets (s : State) (op : Nat) : State :=
  { s with net := { s.net with transports := s.net.transports.map fun t => { t with packets := t.packets.filter fun p => p.op != op } } }

/-- Sends the packets of a context again that are due, unless its priority is paused everywhere (R384). -/
def State.flushOne (s : State) (t : Transport) : State :=
  if !s.net.carries t.tc || !t.packets.any (·.due) then s
  else
    let s : State := { s with out := s.out ++ (t.packets.filter (·.due)).map fun p => Out.packetAgain t.id p.psn }
    s.onTransport t.id fun t => { t with packets := t.packets.map fun p => { p with due := false } }

/-- An answer to a packet leaves in that packet's traffic class, once its priority is not paused everywhere (R384), behind those that wait. -/
def State.answerVia (s : State) (v : Via) (o : Out) : State :=
  if s.net.carries v.tc && s.net.answers.all (·.1 != v.tc) then { s with out := s.out ++ [o] }
  else { s with net := { s.net with answers := s.net.answers ++ [(v.tc, o)] } }

/-- Sends the answers that may leave. -/
def State.flushAnswers (s : State) : State :=
  { s with
    out := s.out ++ (s.net.answers.filter fun x => s.net.carries x.1).map (·.2)
    net := { s.net with answers := s.net.answers.filter fun x => !s.net.carries x.1 } }

/-- Sends every answer and every packet that is due and may leave. -/
def State.flushDue (s : State) : State := s.net.transports.foldl State.flushOne s.flushAnswers

/-- Sends the packets of a context again that a test picks. -/
def State.resend (s : State) (t : Transport) (which : Nat → Bool) : State :=
  (s.onTransport t.id fun t => { t with packets := t.packets.map fun p => { p with due := p.due || which p.psn } }).flushDue

/-! Receiving (R388, R389) -/

/-- The bytes that wait in the hold buffer, and its size (R389) (DEDUCED, log 45). -/
def Arrival.bytes : Arrival → Nat
  | .message _ m => 16 + m.payload.length
  | .rma r => match r.kind with
    | .write d _ => d.length
    | .read => 0
    | .add _ => 8
    | .cas _ _ => 16
/-- 4 MiB. -/
def holdSize : Nat := 4194304
/-- How an arrival came. -/
def Arrival.via : Arrival → Via
  | .message v _ => v
  | .rma r => r.via
/-- The packets that an arrival is: a message arrives as a whole (DEDUCED, log 45). -/
def Arrival.packets : Arrival → Nat
  | .message _ m => ceilDiv (16 + m.payload.length) packetMax
  | .rma _ => 1

/-- Moves the mark of a receiver past the numbers that have been seen. -/
def absorbSeen : Nat → Nat → List Nat → Nat × List Nat
  | 0, e, l => (e, l)
  | n + 1, e, l => if l.contains e then absorbSeen n (e + 1) (l.filter (· != e)) else (e, l)

/-- A receiver takes n packets from a number on: ROD only the next one expected, RUD any it has not seen (R388). -/
def Transport.take (t : Transport) (psn n : Nat) : Except (Option Nat) Transport :=
  if t.ordered then (if psn = t.expect then .ok { t with expect := t.expect + n } else .error (some t.expect))
  else if psn < t.expect ∨ t.seen.contains psn then .error none
  else
    let l := t.seen ++ (upTo n).map (· + psn)
    let r := absorbSeen l.length t.expect l
    .ok { t with expect := r.1, seen := r.2 }

/-- The receiving context of a packet. -/
def Net.receiver (n : Net) (v : Via) : Transport := n.transport (.from_ v.fa v.job v.pid) v.asid v.ordered v.tc

/-- The transport's part of an arrival (R388, R389): what it hands on, if anything. A packet out of order is refused, one already processed
discarded, and one of an evicted context is held, or dropped where the buffer is full. -/
def State.receive (s : State) (a : Arrival) : State × Option Arrival :=
  let v := a.via
  let t := s.net.receiver v
  if !t.resident then
    if ((s.net.transports.flatMap (·.held)).map (·.bytes)).sum + a.bytes ≤ holdSize then (s.onTransport t.id fun t => { t with held := t.held ++ [a] }, none)
    else (s.countErr 35 |>.answerVia v (.nak v .contextMiss), none)
  else match t.take v.psn a.packets with
    | .ok t => (s.putTransport t, some a)
    | .error (some e) => (s.answerVia v (.nak v (.sequence e)), none)
    | .error none => (s, none)

/-! Pause frames of this package (R385) -/

/-- What an arrival's priority holds of the receive buffer of its port: bytes that wait for a fetch or have not landed (DEDUCED, log 45). -/
def Net.buffered (n : Net) (port prio : Nat) : Nat :=
  (((n.transports.flatMap (·.held)).filter fun a => a.via.port == port && a.via.tc == prio).map (·.bytes)).sum +
    ((n.inflows.filter fun f => f.via.any fun v => v.port == port && v.tc == prio).map fun f => (f.land.got.map fun g => g.2.length).sum).sum

/-- One priority of a port: a pause frame leaves when a lossless one's share reaches 75 %, and one that lifts it when it no longer does. -/
def State.pauseOne (s : State) (x : Nat × Nat) : State :=
  let full := s.net.lossless x.1 x.2 && decide (3 * Config.receiveShare x.1 x.2 ≤ 4 * s.net.buffered x.1 x.2)
  if full = s.net.pausing.contains x then s
  else { s with
    net := { s.net with pausing := if full then x :: s.net.pausing else s.net.pausing.filter (· != x) }
    out := s.out ++ [.pause x.1 x.2 full] }

/-- The pause frames that a turn gives rise to (R385). -/
def State.pauseFrames (s : State) : State :=
  let vias := (s.net.transports.flatMap (·.held)).map (·.via) ++ s.net.inflows.filterMap (·.via)
  (s.net.pausing ++ vias.map fun (v : Via) => (v.port, v.tc)).foldl State.pauseOne s

end Sys2Proof.Machine
end

