-- ==== Sys2Proof/Machine/Harius.lean ====
section
/-!
DEFINITION. Harius's shared operations: physical operands (R151), launches (R356 to R360), pegs (R352 to R354), messages
(R351, R395, R400) and copies (R355).
-/

namespace Sys2Proof.Machine

/-! Physical operands (R151) -/

/-- A physical range: the checks of `physForm` on its first and last byte, and no promote-slot row between them (R155). -/
def State.physRange (s : State) (a : Dword) (n : Nat) : Except Nat Phys :=
  match physForm s.mem a with
  | .error w => .error w
  | .ok p => match physForm s.mem (a + BitVec.ofNat 64 (n - 1)) with
    | .error w => .error w
    | .ok _ => if (upTo (n / 2 ^ 20)).any fun i => s.mem.isSlotRow (p.off + i * 2 ^ 20) then .error 3 else .ok p

/-- Reads through the die caches, with poison. -/
def State.physRead (s : State) (p : Phys) (n : Nat) : List (Byte × Bool) := s.mem.hbmReadP (s.mem.key p.slot) p.off n

/-- Writes through the die caches, with poison. -/
def State.physWrite (s : State) (p : Phys) (l : List (Byte × Bool)) : State :=
  { s with mem := (s.mem.endLeases p.off l.length).hbmWriteP (s.mem.key p.slot) p.off l }

/-- Bytes of a read as a number. -/
def valueOf (l : List (Byte × Bool)) : Nat := leNat (l.map (·.1))
/-- Poison of a read. -/
def anyPoison (l : List (Byte × Bool)) : Bool := l.any (·.2)
/-- Clean bytes. -/
def cleanBytes (l : List Byte) : List (Byte × Bool) := l.map fun b => (b, false)

/-- Why a record cannot be used: the cause, its DETAIL, the failing address (R353, R375). -/
structure Bad where
  cause : Byte
  detail : Dword
  addr : Dword
deriving DecidableEq, Repr

/-- ACCESS_VIOLATION of a load, with its WHY (R159). -/
def Bad.access (why : Nat) (a : Dword) : Bad := ⟨causeAccess, memDetail .load 0 false false why, a⟩
/-- POISON_FRET of a sector at a site (R333). -/
def Bad.fret (site : Nat) (a : Dword) : Bad := ⟨causeFret, (fretTrap site 0 7 none).detail, a⟩

/-- A record of n bytes at a physical address aligned to k: absent, poisoned or misaligned records are bad (DEDUCED, log 27). -/
def State.readRecord (s : State) (a : Dword) (n k : Nat) : Except Bad Nat :=
  match s.physRange a n with
  | .error w => .error (.access w a)
  | .ok p =>
    if a.toNat % k ≠ 0 then .error ⟨causeReserved, 0, a⟩
    else
      let l := s.physRead p n
      if anyPoison l then .error (.fret 1 a) else .ok (valueOf l)

/-! Task types (R358) -/

/-- A loaded task-type entry. -/
def State.typeEntry (s : State) (tt : Nat) : Option (BitVec 512) :=
  match s.har.types.find? (·.1 == tt) with
  | some (_, e) => if e.getLsbD 56 then some e else none
  | none => none

/-- A field of a task-type entry: byte offset and width in bits. -/
def typeField (e : BitVec 512) (byte bits : Nat) : Nat := natField e.toNat (8 * byte) bits
/-- CODE. -/
def typeCode (e : BitVec 512) : Dword := BitVec.ofNat 64 (typeField e 0 56)
/-- RESTART. -/
def typeRestart (e : BitVec 512) : Bool := e.getLsbD 57
/-- PRIO class. -/
def typePrio (e : BitVec 512) : BitVec 2 := e.extractLsb' 58 2
/-- Vector-register demand. -/
def typeDemand (e : BitVec 512) : Nat := 8 * ((e.extractLsb' 60 2).toNat + 1)
/-- TILES. -/
def typeTiles (e : BitVec 512) : Nat := typeField e 8 8
/-- Declared scratchpad bytes. -/
def typeScr (e : BitVec 512) : Nat := typeField e 9 24
/-- Completion peg. -/
def typeDonePeg (e : BitVec 512) : Half := BitVec.ofNat 16 (typeField e 14 16)

/-- A limit of R358, R58, R99 or R114 that an entry breaks makes it unusable. -/
def typeOk (e : BitVec 512) : Bool :=
  let nr := typeField e 0x1E 3
  let nw := natField (typeField e 0x1E 16) 3 3
  let ceil := typeField e 0x10 32
  let init := typeField e 0x14 32
  e.extractLsb' 62 2 == 0 && typeField e 0 2 == 0 && decide (typeTiles e ≤ 96) && decide (typeScr e ≤ 2076672) &&
    decide (63 ≤ typeField e 12 16) && (typeDonePeg e == 0xFFFF || decide ((typeDonePeg e).toNat < 16384)) &&
    (upTo 8).all (fun i => decide (1 ≤ natField ceil (4 * i) 4) && decide (natField init (4 * i) 4 ≤ natField ceil (4 * i) 4)) &&
    decide (nr ≤ 4) && decide (nw ≤ 4) && natField (typeField e 0x1E 16) 6 10 == 0 &&
    (upTo 4).all (fun i => decide (i < nr) || typeField e (0x20 + 4 * i) 32 == 0) &&
    (upTo 4).all (fun i => decide (i < nw) || typeField e (0x30 + 4 * i) 32 == 0)

/-! Launch records (R356) -/

/-- TTYPE. -/
def launchType (l : BitVec 128) : Nat := (l.extractLsb' 0 12).toNat
/-- X, Y and Z. -/
def launchXYZ (l : BitVec 128) : Nat × Nat × Nat := ((l.extractLsb' 12 16).toNat, (l.extractLsb' 28 16).toNat, (l.extractLsb' 44 16).toNat)
/-- PTOK. -/
def launchPtok (l : BitVec 128) : Byte := l.extractLsb' 60 8
/-- ARG as s4 holds it. -/
def launchArg (l : BitVec 128) : Dword :=
  let a := l.extractLsb' 68 48
  if a.extractLsb' 44 4 = 0xF then 0xFFF00000000000 + (a.extractLsb' 0 44).setWidth 64 else a.setWidth 64
/-- NODEP. -/
def launchNodep (l : BitVec 128) : Bool := l.getLsbD 116
/-- The reserved bits are zero. -/
def launchOk (l : BitVec 128) : Bool := l.extractLsb' 117 11 == 0

/-- ACTION_FAULT (R354, R357): the event, and the package-log record of CODE 0x06 with the cause's DETAIL (R347). `peg` is all ones for
NLAUNCH and NGANG (DEDUCED, log 27). -/
def State.actionFault (s : State) (asid : Asid) (src : LaunchSource) (b : Bad) : State :=
  let (peg, kind) := match src with
    | .peg i k => (BitVec.ofNat 64 i, BitVec.ofNat 64 k)
    | .word => (BitVec.allOnes 64, (1 : Dword))
  let s := s.raise 3 asid peg (b.cause.setWidth 64) b.addr kind
  { s with mem := s.mem.packageLog s.pkg (logRecord 6 b.cause.toNat 0xFFFF peg.toNat s.pkg.time.toNat b.detail.toNat) }

/-- The tasks that the scheduler tracks (R360): from reaching it until their footprints are released. -/
def TaskPhase.tracked : TaskPhase → Bool
  | .untracked => false
  | .released => false
  | _ => true

/-- How many tasks are tracked. -/
def Har.tracked (h : Har) : Nat := (h.tasks.filter fun t => t.phase.tracked).length

/-- The byte ranges of a template (R359): base and length, from doubleword BI of the argument block. -/
def templateRange (t : BitVec 32) (xyz : Nat × Nat × Nat) (base : Nat) : Nat × Nat :=
  let u := 4096 * 2 ^ (natField t.toNat 24 4)
  let (x, y, z) := xyz
  let o := (x * natField t.toNat 18 6 + y * natField t.toNat 12 6 + z * natField t.toNat 6 6) * u
  ((base / 4096 * 4096 + o) % 2 ^ 56, natField t.toNat 0 6 * u)

/-- A range modulo 2^56 as intervals of first and last byte. -/
def rangeParts (r : Nat × Nat) : List (Nat × Nat) :=
  if r.2 = 0 then [] else if r.1 + r.2 ≤ 2 ^ 56 then [(r.1, r.1 + r.2 - 1)]
  else [(r.1, 2 ^ 56 - 1), (0, r.1 + r.2 - 2 ^ 56 - 1)]

/-- Two ranges share a 4 KiB granule (R360). -/
def rangesMeet (r q : Nat × Nat) : Bool :=
  (rangeParts r).any fun a => (rangeParts q).any fun b => decide (a.1 / 4096 ≤ b.2 / 4096) && decide (b.1 / 4096 ≤ a.2 / 4096)

/-- A read of an argument block's doubleword in an address space (R357, R359): every byte through its page. -/
def State.readArg (s : State) (asid : Asid) (a : Dword) : State × Except Bad Dword :=
  match globalForm s.mem.own a with
  | none => (s, .error (.access 1 a))
  | some va =>
    let x := translate s.mem s.fresh none asid (s.mem.asidRoot s.pkg asid) va .load a
    let s := { s with mem := x.mem, fresh := x.fresh }
    match x.res with
    | .error t => (s, .error ⟨t.cause, t.detail, a⟩)
    | .ok p =>
      if p.pkg ≠ s.mem.own.toNat then (s, .error (.access 1 a))
      else
        let n := min 8 (65536 - p.off % 65536)
        if n = 8 then
          let l := s.physRead p 8
          (s, if anyPoison l then .error (.fret 1 a) else .ok (BitVec.ofNat 64 (valueOf l)))
        else
          let y := translate s.mem s.fresh none asid (s.mem.asidRoot s.pkg asid) (va + BitVec.ofNat 56 n) .load a
          let s := { s with mem := y.mem, fresh := y.fresh }
          match y.res with
          | .error t => (s, .error ⟨t.cause, t.detail, a⟩)
          | .ok q =>
            if q.pkg ≠ s.mem.own.toNat then (s, .error (.access 1 a))
            else
              let l := s.physRead p n ++ s.physRead q (8 - n)
              (s, if anyPoison l then .error (.fret 1 a) else .ok (BitVec.ofNat 64 (valueOf l)))

/-- The ranges of a list of templates. -/
def State.readTemplates (s : State) (asid : Asid) (arg : Dword) (xyz : Nat × Nat × Nat) :
    List (BitVec 32) → State × Except Bad (List (Nat × Nat))
  | [] => (s, .ok [])
  | t :: ts =>
    let a := arg + BitVec.ofNat 64 (8 * natField t.toNat 28 4)
    match s.readArg asid a with
    | (s, .error e) => (s, .error e)
    | (s, .ok d) =>
      match globalForm s.mem.own d with
      | none => (s, .error (.access 1 a))
      | some b =>
        match s.readTemplates asid arg xyz ts with
        | (s, .error e) => (s, .error e)
        | (s, .ok rs) => (s, .ok (templateRange t xyz b.toNat :: rs))

/-- Changes a task's record. -/
def State.onTask (s : State) (inst : Nat) (f : Task → Task) : State :=
  { s with har := { s.har with tasks := s.har.tasks.map fun t => if t.inst = inst then f t else t } }

/-- Removes a task's record. -/
def State.dropTask (s : State) (inst : Nat) : State := { s with har := { s.har with tasks := s.har.tasks.filter (·.inst != inst) } }

/-- A peg of the table (R352). -/
def Har.peg (h : Har) (i : Nat) : Peg := ((h.pegs.find? (·.1 == i)).map (·.2)).getD Peg.zero
/-- Writes a peg. -/
def Har.setPeg (h : Har) (i : Nat) (p : Peg) : Har :=
  let rest := h.pegs.filter (·.1 != i)
  { h with pegs := if p = Peg.zero then rest else (i, p) :: rest }

/-- A launch reaches the dependency scheduler: its argument block is read, and a launch that must be refused is dropped with
ACTION_FAULT (R357, R359). A gang member is then acknowledged (R374). -/
def State.reachScheduler (s : State) (t : Task) : State :=
  match s.typeEntry (launchType t.launch) with
  | none => (s.dropTask t.inst).actionFault t.asid t.source (.access 13 0)
  | some e =>
    let arg := launchArg t.launch
    let xyz := launchXYZ t.launch
    let tmpl := fun (at_ n : Nat) => (upTo n).map fun i => (BitVec.ofNat 32 (typeField e (at_ + 4 * i) 32) : BitVec 32)
    match s.readTemplates t.asid arg xyz (tmpl 0x20 (typeField e 0x1E 3)) with
    | (s, .error b) => (s.dropTask t.inst).actionFault t.asid t.source b
    | (s, .ok rs) =>
      match s.readTemplates t.asid arg xyz (tmpl 0x30 (natField (typeField e 0x1E 16) 3 3)) with
      | (s, .error b) => (s.dropTask t.inst).actionFault t.asid t.source b
      | (s, .ok ws) =>
        let s := s.onTask t.inst fun t => { t with phase := .scheduled, argRead := true, reads := rs, writes := ws }
        match t.gang with
        | none => s
        | some (origin, g) =>
          if origin = s.mem.own then { s with agenda := s.agenda ++ [.deliver (.gangAck g)] }
          else { s with out := s.out ++ [.gangAck origin g] }

/-- Harius accepts or refuses a launch (R357): it takes an instance number either way, and is refused where its task type is not
loaded or its address space not live. With a tracking place free and none waiting it reaches the scheduler at once (R20)
(DEDUCED, log 28). -/
def State.accept (s : State) (l : BitVec 128) (asid : Asid) (src : LaunchSource) (gang : Option (Pkg × Nat)) : State × Option Nat :=
  let n := s.har.nextInst
  let s := { s with har := { s.har with nextInst := n + 1 } }
  if (s.typeEntry (launchType l)).isNone || s.mem.asidState s.pkg asid != 1 then (s, none)
  else
    let t : Task := ⟨n, l, asid, src, .untracked, false, [], [], gang, none⟩
    let room := decide (s.har.tracked < 8192) && s.har.tasks.all fun t => t.phase != .untracked
    let s := { s with har := { s.har with tasks := s.har.tasks ++ [t] } }
    (if room then s.reachScheduler t else s, some n)

/-- A launch from a peg's action: a refusal raises ACTION_FAULT with s3 = 0x31 and s4 = 0 (R357). -/
def State.launchFrom (s : State) (l : BitVec 128) (asid : Asid) (src : LaunchSource) : State :=
  match s.accept l asid src none with
  | (s, some _) => s
  | (s, none) => s.actionFault asid src (.access 13 0)

/-! Messages (R351, R390, R395, R400) -/

/-- A send record (R355). -/
structure SendRec where
  dest : Nat
  path : Nat
  coll : Byte
  tag : Word
  addr : Dword
  len : Nat
  gen : Word
  donePeg : Half
deriving DecidableEq, Repr

/-- A peg index or 0xFFFF for none. -/
def pegIndexOk (p : Nat) : Bool := p == 0xFFFF || decide (p < 16384)

/-- Reads the fields of a send record; none where it is malformed. -/
def sendRec (x : Nat) : Option SendRec :=
  let r : SendRec := ⟨natField x 0 16, natField x 16 8, BitVec.ofNat 8 (natField x 24 8), BitVec.ofNat 32 (natField x 32 32),
    BitVec.ofNat 64 (natField x 64 64), natField x 128 32, BitVec.ofNat 32 (natField x 160 32), BitVec.ofNat 16 (natField x 192 16)⟩
  if natField x 208 48 == 0 && decide (r.path ≤ 1) && decide (r.len ≤ 65536) && pegIndexOk r.donePeg.toNat &&
    (r.path == 1 || decide (r.dest < 1024)) then some r else none

/-- Sends the message of a send record (R400): refused where the record is bad, the endpoint not registered or the payload
poisoned; a message to a silent peer is not delivered and adds nothing. One for an endpoint waits in the packet buffer until it leaves. -/
def State.sendMessage (s : State) (r : SendRec) (asid : Asid) : Except Bad State :=
  let ep := s.net.endpoints.find? fun e => e.index == r.dest && e.asid == asid && e.live
  if r.path = 1 ∧ ep.isNone then .error (.access 9 r.addr)
  else
    let payload : Except Nat (List (Byte × Bool)) :=
      if r.len = 0 then .ok [] else match s.physRange r.addr r.len with
        | .error w => .error w
        | .ok p => .ok (s.physRead p r.len)
    match payload with
    | .error w => .error (.access w r.addr)
    | .ok l =>
      if anyPoison l then .error (.fret 2 r.addr)
      else
        let fabric := r.path == 0
        let m : Message := ⟨some s.mem.own, r.tag, r.coll, asid, r.gen, 0, l.map (·.1), [], none⟩
        let id := s.net.nextId
        let dest : Pkg := BitVec.ofNat 10 r.dest
        if fabric && s.mem.silent s.pkg dest then .ok s
        else
          let s : State := { s with net := { s.net with nextId := id + 1, sent := s.net.sent ++ [⟨id, r.donePeg, dest, fabric, r.dest, if fabric then none else some m,
            if fabric then s.pkg.route id else none⟩] } }
          if !fabric then .ok s
          else if dest = s.mem.own then .ok { s with agenda := s.agenda ++ [.deliver (.message m), .deliver (.messageAck id)] }
          else .ok { s with out := s.out ++ [.message r.dest true m none] }

/-! Collective sends need the graph; the peg's action hands them on (R338, R403) -/

/-- An operand of a graph send: COLLID and node (R403). -/
def graphSend (opd : Dword) : Option (Nat × Nat) :=
  if opd.getLsbD 63 then some ((opd.extractLsb' 32 6).toNat, (opd.extractLsb' 0 12).toNat) else none

/-- The fields of a graph node (R337). -/
structure Node where
  kind : Nat
  bsel : Nat
  optype : Nat
  peer : Pkg
  dst : Nat
  off : Dword
  len : Nat
  trigPeg : Nat
  trigThr : Nat
  donePeg : Half
deriving DecidableEq, Repr

/-- Reads a node. -/
def nodeOf (x : BitVec 256) : Node :=
  let n := x.toNat
  ⟨natField n 0 8, natField n 8 2, natField n 16 8, BitVec.ofNat 10 (natField n 32 16), natField n 48 16, BitVec.ofNat 64 (natField n 64 64),
    natField n 128 32, natField n 160 16, natField n 192 32, BitVec.ofNat 16 (natField n 224 16)⟩

/-- The graph of a COLLID. -/
def Har.graph (h : Har) (coll : Nat) : Option Graph := h.graphs.find? (·.coll == coll)
/-- Changes a graph. -/
def Har.onGraph (h : Har) (coll : Nat) (f : Graph → Graph) : Har := { h with graphs := h.graphs.map fun g => if g.coll = coll then f g else g }
/-- A node of a graph. -/
def Graph.node (g : Graph) (n : Nat) : Option Node := (g.nodes[n]?).map nodeOf
/-- The physical address of a node's range. -/
def Graph.addr (g : Graph) (n : Node) : Dword := g.bases.getD n.bsel 0 + n.off

/-- The SEND node of a fired peg (R338): it reads its range and sends a tagged chunk; toward a silent peer it completes at
once, as the next delivery. A graph that is not loaded or a node that is not a SEND is bad (R403). -/
def State.graphFire (s : State) (coll node : Nat) : Except Bad State :=
  match s.har.graph coll with
  | none => .error (.access 13 0)
  | some g =>
    match g.node node with
    | none => .error (.access 13 0)
    | some n =>
      if n.kind ≠ 1 then .error (.access 13 0)
      else if s.mem.silent s.pkg n.peer then
        .ok { s with agenda := s.agenda ++ [.deliver (.nodeDone coll node g.gen)] }
      else
        match s.physRange (g.addr n) n.len with
        | .error w => .error (.access w (g.addr n))
        | .ok p =>
          let l := s.physRead p n.len
          let k : Chunk := ⟨s.mem.own, BitVec.ofNat 8 coll, n.dst, g.gen, l.map (·.1), sectorPoisons l⟩
          let id := s.net.nextId
          let s : State := { s with net := { s.net with nextId := id + 1, chunksOut := s.net.chunksOut ++ [⟨id, coll, node, g.gen, n.peer, k, s.pkg.route id⟩] } }
          .ok (if n.peer = s.mem.own then { s with agenda := s.agenda ++ [.deliver (.chunk k)] } else { s with out := s.out ++ [.chunk n.peer k] })

/-! Pegs (R352 to R354) -/

/-- ARMED. -/
def Peg.armed (p : Peg) : Bool := p.action.getLsbD 4
/-- KIND. -/
def Peg.kind (p : Peg) : Nat := natField p.action.toNat 0 4
/-- ASID. -/
def Peg.asid (p : Peg) : Asid := p.action.extractLsb' 20 12
/-- PTOK. -/
def Peg.ptok (p : Peg) : Byte := p.action.extractLsb' 8 8
/-- NLIST. -/
def Peg.nlist (p : Peg) : Nat := natField p.action.toNat 16 3 + 1
/-- ACTION with a reserved KIND or a reserved bit set is bad (R377). -/
def actionOk (a : Dword) : Bool := decide (natField a.toNat 0 4 ≤ 6) && !a.getLsbD 19 && natField a.toNat 5 3 == 0

/-- The launch of a LAUNCH action (R353). -/
def Peg.launch (p : Peg) : BitVec 128 :=
  BitVec.ofNat 128 (natField p.operand.toNat 0 12 + p.ptok.toNat * 2 ^ 60 + natField p.operand.toNat 12 48 * 2 ^ 68)

/-- A LIST action (R353, R355): a bad record launches nothing and raises one ACTION_FAULT. -/
def State.fireList (s : State) (i : Nat) (p : Peg) : State :=
  let src := LaunchSource.peg i 2
  match s.readRecord p.operand (16 + 16 * p.nlist) 16 with
  | .error b => s.actionFault p.asid src b
  | .ok x =>
    let ls := (upTo p.nlist).map fun k => (BitVec.ofNat 128 (natField x (128 * (k + 1)) 128) : BitVec 128)
    if natField x 0 8 ≠ p.nlist ∨ natField x 8 120 ≠ 0 ∨ !ls.all launchOk then s.actionFault p.asid src ⟨causeReserved, 0, p.operand⟩
    else ls.foldl (fun s l => s.launchFrom l p.asid src) s

/-- An end of a Harius copy: HBM or a core's scratchpad (R355). -/
def State.copyEndOk (s : State) (scr : Bool) (a : Dword) (n : Nat) : Option Nat :=
  if scr then
    match scrForm a with
    | .package _ off => if off + n ≤ scrSize then none else some 2
    | _ => some 2
  else if n = 0 then none else match s.physRange a n with
    | .error w => some w
    | .ok _ => none

/-- The bytes at an end of a Harius copy, with their poison. -/
def State.copyEnd (s : State) (scr : Bool) (a : Dword) (n : Nat) : List (Byte × Bool) :=
  if scr then
    match scrForm a with
    | .package core off => s.mem.scrReadP core off n
    | _ => []
  else match physForm s.mem a with
    | .ok p => s.physRead p n
    | .error _ => []

/-- A COPY action (R353, R355): a bad record or a poisoned source does nothing and raises ACTION_FAULT (DEDUCED, log 27). -/
def State.fireCopy (s : State) (i : Nat) (p : Peg) : State :=
  let src := LaunchSource.peg i 3
  match s.readRecord p.operand 32 16 with
  | .error b => s.actionFault p.asid src b
  | .ok x =>
    let n := natField x 128 32
    let from_ := BitVec.ofNat 64 (natField x 0 64)
    let dst := BitVec.ofNat 64 (natField x 64 64)
    if natField x 162 14 ≠ 0 ∨ natField x 192 64 ≠ 0 ∨ !pegIndexOk (natField x 176 16) then s.actionFault p.asid src ⟨causeReserved, 0, p.operand⟩
    else match s.copyEndOk (x.testBit 160) from_ n with
      | some w => s.actionFault p.asid src (.access w from_)
      | none => match s.copyEndOk (x.testBit 161) dst n with
        | some w => s.actionFault p.asid src (.access w dst)
        | none =>
          if anyPoison (s.copyEnd (x.testBit 160) from_ n) then s.actionFault p.asid src (.fret 1 from_)
          else
            { s with
              net := { s.net with nextId := s.net.nextId + 1 }
              har := { s.har with copies := s.har.copies ++ [⟨s.net.nextId, BitVec.ofNat 256 x, i, p.asid⟩] } }

/-- A SEND action (R353, R403). -/
def State.fireSend (s : State) (i : Nat) (p : Peg) : State :=
  let src := LaunchSource.peg i 4
  match graphSend p.operand with
  | some (coll, node) =>
    match s.graphFire coll node with
    | .ok s => s
    | .error b => s.actionFault p.asid src b
  | none =>
    match s.readRecord p.operand 32 16 with
    | .error b => s.actionFault p.asid src b
    | .ok x =>
      match sendRec x with
      | none => s.actionFault p.asid src ⟨causeReserved, 0, p.operand⟩
      | some r =>
        match s.sendMessage r p.asid with
        | .ok s => s
        | .error b => s.actionFault p.asid src b

/-- A HANDLER action: a PEG event that names its handler (R346, R353). -/
def State.fireHandler (s : State) (i : Nat) (p : Peg) : State :=
  { s with har := { s.har with queue := s.har.queue ++
      [⟨1, p.asid, BitVec.ofNat 64 i, p.count, p.thresh, p.action >>> 32, s.pkg.time, some (p.operand.extractLsb' 0 56 |>.setWidth 64), none⟩] } }

/-- Evaluates a peg after a change (R354): an armed peg at its threshold is disarmed and its action fires once; REARM takes the
threshold off until the count is below it, and with threshold 0 fires once. -/
def State.pegEval (s : State) (i : Nat) : State :=
  let p := s.har.peg i
  if p.armed && decide (p.thresh.toNat ≤ p.count.toNat) then
    if p.kind = 6 then
      { s with har := s.har.setPeg i { p with count := if p.thresh = 0 then p.count else BitVec.ofNat 64 (p.count.toNat % p.thresh.toNat) } }
    else
      let s := { s with har := s.har.setPeg i { p with action := p.action &&& ~~~(0x10 : Dword) } }
      match p.kind with
      | 1 => s.launchFrom p.launch p.asid (.peg i 1)
      | 2 => s.fireList i p
      | 3 => s.fireCopy i p
      | 4 => s.fireSend i p
      | 5 => s.fireHandler i p
      | _ => s
  else s

/-- Adds to a peg's count and evaluates it. -/
def State.pegAdd (s : State) (i : Nat) (n : Dword) : State :=
  let p := s.har.peg i
  ({ s with har := s.har.setPeg i { p with count := p.count + n } }).pegEval i

/-- Adds 1 to a DONEPEG, unless it is 0xFFFF. -/
def State.pegDone (s : State) (p : Half) : State := if p = 0xFFFF then s else s.pegAdd (p.toNat % 16384) 1

/-! Copies (R355) -/

/-- A Harius copy finishes (R355): the bytes move, then DONEPEG; a source that has become poisoned is not copied (R353) (DEDUCED, log 27). -/
def State.copyDone (s : State) (c : HCopy) : State :=
  let x := c.raw.toNat
  let src := BitVec.ofNat 64 (natField x 0 64)
  let dst := BitVec.ofNat 64 (natField x 64 64)
  let l := s.copyEnd (x.testBit 160) src (natField x 128 32)
  let s := { s with har := { s.har with copies := s.har.copies.filter (·.id != c.id) } }
  if anyPoison l then s.actionFault c.asid (.peg c.peg 3) (.fret 1 src)
  else
    let s := if x.testBit 161 then
        match scrForm dst with
        | .package core off => { s with mem := s.mem.scrWriteP core off l }
        | _ => s
      else match physForm s.mem dst with
        | .ok p => s.physWrite p l
        | .error _ => s
    s.pegDone (BitVec.ofNat 16 (natField x 176 16))

end Sys2Proof.Machine
end

