-- ==== Sys2Proof/Machine/Ingress.lean ====
section
/-!
DEFINITION. What arrives (R19, R351, R387 to R395): messages and the RMA operations of other packages. Each becomes work whose 32-byte pieces
land, or are read, in any order, in turns of their own.
-/

namespace Sys2Proof.Machine

/-! The ingress (R172) -/

/-- Lines that the ingress atomic cache holds (R172). -/
def leaseLines : Nat := 4096

/-- A line is held under a lease, the latest used first; past 4,096 lines the one used longest ago gives up its lease (R172). -/
def State.lease (s : State) (line : Nat) : State :=
  { s with mem := { s.mem with leases := (line :: s.mem.leases.filter (· != line)).take leaseLines } }

/-- Writes at the ingress, all bytes with one poison. -/
def State.inWrite (s : State) (off key : Nat) (l : List Byte) (p : Bool) : State :=
  { s with mem := s.mem.hbmWrite (s.mem.key key) off l p }

/-! Matching (R351, R390, R395) -/

/-- A pegboard entry takes a message (R351). -/
def entryTakes (e : BitVec 256) (m : Message) : Bool :=
  let x := e.toNat
  let src := natField x 64 16
  (src.testBit 15 || m.src == some (BitVec.ofNat 10 (natField src 0 10))) &&
    (m.tag &&& e.extractLsb' 32 32) == (e.extractLsb' 0 32 &&& e.extractLsb' 32 32) &&
    (e.extractLsb' 80 8 == 0xFF || e.extractLsb' 80 8 == m.coll) &&
    (x.testBit 88 || e.extractLsb' 96 32 == m.gen)

/-- The lowest-numbered valid entry that takes a message, with its slot. -/
def Har.matchEntry (h : Har) (m : Message) : Option (Nat × BitVec 256) :=
  (h.entries.filter fun e => entryTakes e.2 m).foldl
    (fun best e => match best with
      | none => some e
      | some b => if e.1 < b.1 then some e else some b) none

/-- The endpoint entry of the target's process that stands for a sender, the lowest of several (R390) (DEDUCED, log 45). -/
def Net.entryFor (n : Net) (v : Via) : Option Endpoint :=
  (n.endpoints.filter fun e => e.live && e.asid == v.asid && e.raw.extractLsb' 0 128 == v.fa && e.raw.extractLsb' 128 24 == v.job &&
    e.raw.extractLsb' 160 16 == v.pid).foldl (fun best e => match best with
      | none => some e
      | some b => if e.index < b.index then some e else some b) none

/-- ALIAS of an endpoint entry: a package number, or none. -/
def Endpoint.alias_ (e : Endpoint) : Option Pkg := if e.raw.getLsbD 191 then none else some (e.raw.extractLsb' 176 10)

/-- A message with its source for R351: from Ultra Ethernet the alias of the entry for its sender (R390). -/
def Net.sourced (n : Net) (m : Message) : Message :=
  match m.via with
  | none => m
  | some v => { m with src := (n.entryFor v).bind Endpoint.alias_ }

/-- The first posted buffer of the sender's ASID that takes a message (R395). -/
def Net.bufferFor (n : Net) (m : Message) : Option PostBuf :=
  n.posts.find? fun b => b.asid == m.asid && (b.raw.extractLsb' 0 32 &&& b.raw.extractLsb' 32 32) == (m.tag &&& b.raw.extractLsb' 32 32)

/-! The key check (R392, R393) -/

/-- A region's index is in use: live, or its revocation not complete (R393). -/
def Region.held (r : Region) : Bool := r.live || r.revokeId.isSome

/-- The key that a region answers to. -/
def Region.key (r : Region) : Word := r.gen ++ BitVec.ofNat 16 r.index

/-- The bytes that an incoming operation names. -/
def rmaBytes (r : RmaReq) : Nat :=
  match r.kind with
  | .add _ | .cas _ _ => 8
  | _ => r.len

/-- The permission bit an operation needs: R, W or ATOMIC. -/
def rmaPerm : RmaKind → Nat
  | .read => 0
  | .write _ _ => 1
  | .add _ | .cas _ _ => 2

/-- [RADDR, RADDR + LEN) lies in a region. -/
def Region.holds (g : Region) (own : Pkg) (raddr : Dword) (n : Nat) : Bool :=
  (globalForm own raddr).any fun va => decide (g.base.toNat ≤ va.toNat) && decide (va.toNat + n ≤ g.base.toNat + g.len)

/-- The key check (R392): the region, or the reason of the violation. -/
def State.rmaCheck (s : State) (r : RmaReq) : Except (BitVec 4) Region :=
  match s.net.regions.find? fun g => g.index == natField r.key.toNat 0 16 && g.held with
  | none => .error 1
  | some g =>
    if g.key ≠ r.key then .error 1
    else if g.asid ≠ r.via.asid then .error 2
    else if !g.holds s.mem.own r.raddr (rmaBytes r) then .error 3
    else if !g.perms.getLsbD (rmaPerm r.kind) then .error 4
    else if !g.live then .error 5
    else .ok g

/-- The place of a byte range of one page in an address space of this package. -/
def State.asidPiece (s : State) (asid : Asid) (a : Dword) (k : AKind) : State × Option Phys :=
  match globalForm s.mem.own a with
  | none => (s, none)
  | some va =>
    let x := translate s.mem s.fresh none asid (s.mem.asidRoot s.pkg asid) va k a
    let s := { s with mem := x.mem, fresh := x.fresh }
    match x.res with
    | .error _ => (s, none)
    | .ok p => (s, if p.pkg = s.mem.own.toNat then some p else none)

/-- The value an RMA atomic leaves, if it writes (R399). -/
def rmaAtom (k : RmaKind) (old : Dword) : Option Dword :=
  match k with
  | .add opd => some (old + opd)
  | .cas opd cmp => if old = cmp then some opd else none
  | _ => none

/-! Work on arrivals -/

/-- Two packets came in one transport context. -/
def sameFlow (v w : Via) : Bool := { v with port := 0, op := 0, psn := 0 } == { w with port := 0, op := 0, psn := 0 }

/-- A write of which everything that has arrived has landed. -/
def Inflow.written (f : Inflow) : Bool :=
  f.begun && f.land.got.isEmpty && match f.work with
    | .rma _ r => rmaPerm r.kind == 1
    | _ => false

/-- Work g comes before work f of one ROD context (R387). -/
def Inflow.leads (g f : Inflow) : Bool :=
  match g.via, f.via with
  | some v, some w => v.ordered && sameFlow v w
  | _, _ => false

/-- Earlier work g holds back work f: an arrival at the same pegboard entry (R19), or what came before it in a ROD context (R387). A write that
waits for packets its initiator never sent, since a later operation has come in order, does not (DEDUCED, log 45). -/
def Inflow.blocks (g f : Inflow) : Bool :=
  (match g.work, f.work with
    | .deposit a _ _, .deposit b _ _ => a == b
    | _, _ => false) || (g.leads f && !g.written)

/-- Replaces work on an arrival. -/
def State.setInflow (s : State) (f : Inflow) : State :=
  { s with net := { s.net with inflows := s.net.inflows.map fun g => if g.id = f.id then f else g } }

/-- Takes on work for an arrival. -/
def State.takeIn (s : State) (via : Option Via) (work : InWork) (base len : Nat) (land : Landing) : State :=
  { s with net := { s.net with
      nextId := s.net.nextId + 1
      inflows := s.net.inflows ++ [⟨s.net.nextId, via, work, false, .drop, base, len, land⟩] } }

/-- Work begins on bytes that go to a place. -/
def Inflow.start (f : Inflow) (spot : Spot) (base : Nat) (l : List (Byte × Bool)) : Inflow :=
  { f with begun := true, spot := spot, base := base, len := l.length, land := Landing.start.arrive base 0 l }

/-- Counts a deposit or buffer that is truncated (R351, R395). -/
def State.truncated (s : State) (limit : Nat) (m : Message) : State := if limit < m.payload.length then s.countErr 34 else s

/-- Begins a deposit (R351): at a distance that the peg's count gives. One that an unwritable address drops is counted once (R417). -/
def State.beginDeposit (s : State) (f : Inflow) (e : BitVec 256) (m : Message) : State :=
  let kind := natField e.toNat 89 2
  let limit := 64 * natField e.toNat 240 16
  let count := (s.har.peg (natField e.toNat 224 14)).count
  let at_ : Dword := e.extractLsb' 128 64 + m.off.setWidth 64 + BitVec.ofNat 64 (count.toNat * natField e.toNat 192 32)
  let l := (withSectorPoison m.payload m.poison).take limit
  let none_ := f.start .drop 0 []
  if kind = 0 then s.setInflow none_
  else if l.isEmpty then (s.truncated limit m).setInflow none_
  else if kind = 1 then
    match s.physRange at_ l.length with
    | .ok p => (s.truncated limit m).setInflow (f.start (.hbm p) p.off l)
    | .error _ => (s.countErr 34).setInflow none_
  else match scrForm at_ with
    | .package core off =>
      if off + l.length ≤ scrSize then (s.truncated limit m).setInflow (f.start (.scr core off) off l)
      else (s.countErr 34).setInflow none_
    | _ => (s.countErr 34).setInflow none_

/-- LEN of a posted buffer. -/
def PostBuf.limit (b : PostBuf) : Nat := natField b.raw.toNat 128 32

/-- Begins the write of a posted buffer (R395). -/
def State.beginBuffer (s : State) (f : Inflow) (b : PostBuf) (m : Message) : State :=
  let l := (withSectorPoison m.payload m.poison).take b.limit
  if l.isEmpty then (s.truncated b.limit m).setInflow (f.start .drop 0 [])
  else match s.physRange (b.raw.extractLsb' 64 64) l.length with
    | .ok p => (s.truncated b.limit m).setInflow (f.start (.hbm p) p.off l)
    | .error _ => (s.countErr 34).setInflow (f.start .drop 0 [])

/-- Performs an RMA atomic at the ingress atomic cache and answers it (R172, R399). -/
def State.rmaAtomic (s : State) (g : Region) (r : RmaReq) : State :=
  match s.asidPiece g.asid r.raddr .atomic with
  | (s, none) =>
    let (s, l) := s.freePoison 8
    s.answerVia r.via (.rmaAnswer r.via (l.map fun y => y.1) [true])
  | (s, some p) =>
    let l := s.physRead p 8
    let s := match rmaAtom r.kind (BitVec.ofNat 64 (valueOf l)) with
      | some v => s.inWrite p.off p.slot (natBytes 8 v.toNat) (anyPoison l)
      | none => s
    let s := s.lease (p.off / 64)
    s.answerVia r.via (.rmaAnswer r.via (l.map fun y => y.1) [anyPoison l])

/-- Begins work on an arrival. In a ROD context, writes that it finds waiting before it have no more packets and end. -/
def State.begin_ (s : State) (f : Inflow) : State :=
  let s : State := { s with net := { s.net with inflows := s.net.inflows.filter fun g => !(decide (g.id < f.id) && g.leads f && g.written) } }
  match f.work with
  | .deposit _ e m => s.beginDeposit f e m
  | .buffer b m => s.beginBuffer f b m
  | .rma g r => match r.kind with
    | .write _ _ | .read => s.setInflow { f with begun := true, spot := .paged g.asid r.raddr }
    | .add _ | .cas _ _ => (s.rmaAtomic g r).setInflow (f.start .drop 0 [])

/-- STATUS of a posted buffer (R401): the length, the source, whether it was truncated. Without an entry for its sender, a message from Ultra
Ethernet has no endpoint number, and that field is free (DESIGN CHOICE, log 3). -/
def State.bufferStatus (s : State) (b : PostBuf) (m : Message) : State × Nat :=
  let (src, s) : Nat × State := match m.via with
    | none => ((m.src.map fun (x : Pkg) => x.toNat).getD 0, s)
    | some v => match s.net.entryFor v with
      | some e => (e.index, s)
      | none => (Config.choice s.fresh % 65536, { s with fresh := s.fresh + 1 })
  (s, m.payload.length + src * 2 ^ 32 + (decide (b.limit < m.payload.length)).toNat * 2 ^ 48 + m.via.isSome.toNat * 2 ^ 49)

/-- Work on an arrival ends, its bytes being visible: the peg is added to (R19), a buffer's STATUS and DONEPEG follow (R395), or the operation
is answered (R398). -/
def State.endInflow (s : State) (f : Inflow) : State :=
  let s : State := { s with net := { s.net with inflows := s.net.inflows.filter fun g => g.id != f.id } }
  match f.work with
  | .deposit _ e m => s.pegAdd (natField e.toNat 224 14) (if e.getLsbD 91 then BitVec.ofNat 64 m.payload.length else 1)
  | .buffer b m =>
    let (s, status) := s.bufferStatus b m
    (s.lateWrite b.recKey (b.recAt + 0x18) (natBytes 8 status) false).pegDone (b.raw.extractLsb' 160 16)
  | .rma _ r => match r.kind with
    | .write _ _ => s.answerVia r.via (.rmaAnswer r.via [] [])
    | .read =>
      let l := (joinParts f.land.got f.len (runCount f.base f.len + 1) 0).getD []
      s.answerVia r.via (.rmaAnswer r.via (l.map fun y => y.1) (sectorPoisons l))
    | .add _ | .cas _ _ => s

/-- The first work that may begin, or whose last piece has landed; `pre` are those before it. -/
def nextInflow (pre : List Inflow) : List Inflow → Option Inflow
  | [] => none
  | f :: l =>
    if (if f.begun then f.land.done f.base f.len else !pre.any fun g => g.blocks f) then some f else nextInflow (f :: pre) l

/-- Work begins and ends where nothing holds it; `n` bounds how often. -/
def State.pump : Nat → State → State
  | 0, s => s
  | n + 1, s => match nextInflow [] s.net.inflows with
    | none => s
    | some f => State.pump n (if f.begun then s.endInflow f else s.begin_ f)

/-- All that may begin or end at once does. -/
def State.pumpAll (s : State) : State := s.pump (2 * s.net.inflows.length)

/-- Writes bytes of an arrival at a distance from where it goes; through a slot that has been unloaded meanwhile it takes poison (R158), and
a page that software has unmapped takes nothing (R391). -/
def State.landBytes (s : State) (spot : Spot) (off : Nat) (l : List (Byte × Bool)) : State :=
  match spot with
  | .drop => s
  | .hbm p =>
    if (s.mem.keyOf p.slot).isSome then s.physWrite ⟨p.pa + off, p.slot⟩ l
    else s.lateWrite p.slot (p.off + off) (l.map fun y => y.1) true
  | .scr core o => { s with mem := s.mem.scrWriteP core (o + off) l }
  | .paged asid a => match s.asidPiece asid (a + BitVec.ofNat 64 off) .store with
    | (s, some p) => s.physWrite p l
    | (s, none) => s

/-- Reads bytes for an RMA read; a page that software has unmapped answers free poisoned bytes (R391). -/
def State.pieceRead (s : State) (spot : Spot) (off n : Nat) : State × List (Byte × Bool) :=
  match spot with
  | .paged asid a => match s.asidPiece asid (a + BitVec.ofNat 64 off) .load with
    | (s, some p) => (s, s.physRead p n)
    | (s, none) => s.freePoison n
  | _ => (s, [])

/-- Piece k of work on an arrival lands, or is read for the initiator (R387). -/
def State.landInflow (s : State) (f : Inflow) (k : Nat) : State :=
  let r := runAt f.base f.len k
  let reads := match f.work with
    | .rma _ r => rmaPerm r.kind == 0
    | _ => false
  if !f.begun then s
  else if reads then
    if f.land.landed.contains k || decide (runCount f.base f.len ≤ k) then s
    else
      let (s, l) := s.pieceRead f.spot r.1 r.2
      s.setInflow { f with land := ⟨(r.1, l) :: f.land.got, k :: f.land.landed⟩ }
  else match f.land.piece f.base f.len k with
    | none => s
    | some l => (s.landBytes f.spot r.1 l).setInflow { f with land := f.land.wrote f.base f.len k }

/-! Arrivals -/

/-- A message arrives (R19, R351, R395): the pegboard entry that takes it serialises it, else a posted buffer takes it, else it is dropped and
counted. -/
def State.arrive (s : State) (m : Message) : State :=
  let m := s.net.sourced m
  match s.har.matchEntry m with
  | some (slot, e) => (s.takeIn m.via (.deposit slot e m) 0 0 Landing.start).pumpAll
  | none => match s.net.bufferFor m with
    | none => s.countErr 34
    | some b => (({ s with net := { s.net with posts := s.net.posts.erase b } }).takeIn m.via (.buffer b m) 0 0 Landing.start).pumpAll

/-- The bytes that a packet brings. -/
def rmaData (r : RmaReq) : List (Byte × Bool) :=
  match r.kind with
  | .write d p => withSectorPoison d p
  | _ => []

/-- A packet of an RMA operation (R392 to R394): the first to reach the key check decides for all. A violation is refused and raises
FREEZE; no part of it is performed. -/
def State.rmaPacket (s : State) (r : RmaReq) : State :=
  let mine := fun (f : Inflow) => match f.work with
    | .rma _ q => q.via.op == r.via.op && sameFlow q.via r.via
    | _ => false
  match s.net.inflows.find? mine with
  | some f => (s.setInflow { f with land := f.land.arrive f.base r.off (rmaData r) }).pumpAll
  | none =>
    let t := s.net.receiver r.via
    if t.bad.contains r.via.op then s
    else match s.rmaCheck r with
      | .ok g => (s.takeIn (some r.via) (.rma g r) r.raddr.toNat r.len (Landing.start.arrive r.raddr.toNat r.off (rmaData r))).pumpAll
      | .error reason =>
        let s := s.onTransport t.id fun t => { t with bad := r.via.op :: t.bad }
        let s := s.answerVia r.via (.nak r.via (.violation reason))
        s.raise 7 r.via.asid (BitVec.allOnes 64) (r.key.setWidth 64) r.raddr (reason.setWidth 64 ||| (r.via.pid.setWidth 64 <<< 16))

/-- What the transport hands on: a message is acknowledged once it is taken (R400). -/
def State.ingest (s : State) : Arrival → State
  | .message v m =>
    (s.arrive m).answerVia v (.ack v)
  | .rma r => s.rmaPacket r

/-- A packet reaches this package's transport (R387 to R389). -/
def State.reach (s : State) (a : Arrival) : State :=
  match s.receive a with
  | (s, some a) => s.ingest a
  | (s, none) => s

/-- A packet arrives at a port, which takes none while it is down or its ENABLE is 0 (R385). -/
def State.atPort (s : State) (a : Arrival) : State := if s.net.portRuns a.via.port then s.reach a else s

/-- A message of the fabric, the host or Ultra Ethernet reaches the ingress. -/
def State.messageIn (s : State) (m : Message) : State :=
  match m.via with
  | some v => s.atPort (.message v m)
  | none => s.arrive m

/-- An evicted context has been fetched (R389): counted, and its held packets are processed in arrival order. -/
def State.fetched (s : State) (t : Transport) : State :=
  let s := (s.countErr 36).putTransport { t with resident := true, held := [] }
  t.held.foldl State.reach s

end Sys2Proof.Machine
end

