-- ==== Sys2Proof/Machine/Leave.lean ====
section
/-!
DEFINITION. Leave of the die power governors (R18, R215, R251, R306, R423 to R425): requests, coverage by YLEAVE, grants.
-/

namespace Sys2Proof.Machine

/-- The increment of a nest or a large product (R423), in milliwatts (DEDUCED, log 26). -/
def leaveNest : Nat := 1800
/-- The increment of a large copy. -/
def leaveCopy : Nat := 500
/-- The increment of a collective step. -/
def leaveStep : Nat := 300

/-- The governor of a die. -/
def PkgSt.gov (p : PkgSt) (die : Nat) : Governor := p.governors[die % 4]'(Nat.mod_lt _ (by decide))
/-- Changes the governor of a die. -/
def PkgSt.onGov (p : PkgSt) (die : Nat) (f : Governor → Governor) : PkgSt :=
  { p with governors := p.governors.set (die % 4) (f (p.gov die)) (Nat.mod_lt _ (by decide)) }

/-- The die of a core (R11). -/
def dieOfCore (core : Nat) : Nat := core / 128

/-- Ends grants of a die, in milliwatts (R423). -/
def State.endGrant (s : State) (die mw : Nat) : State :=
  if mw = 0 then s else { s with pkg := s.pkg.onGov die fun g => { g with grants := g.grants - mw } }

/-- A stream waits for leave for some cycles, whose number the model leaves free (R425, DESIGN CHOICE, log 6). -/
def State.leaveWait (s : State) : State :=
  let c := s.ctx
  { s with
    fresh := s.fresh + 1
    ctx := { c with regs := { c.regs with stallCycles := min (c.regs.stallCycles + Config.choice s.fresh) (2 ^ 48 - 1) } } }

/-- Queues a word at its context's governor. -/
def State.leaveLine (s : State) (e : StreamId) : State :=
  { s with pkg := s.pkg.onGov (dieOfCore s.ctx.core) fun g => { g with queue := g.queue ++ [.word s.ctx.inst e] } }

/-- Queues a request at the context's governor (R424). -/
def State.leaveQueue (s : State) (e : StreamId) (mw : Nat) : State :=
  ({ s with ctx := { s.ctx with leaves := s.ctx.leaves ++ [⟨e, mw, false, false, 0⟩] } } : State).leaveLine e

/-- The three streams whose words ask for leave (R215, R251). -/
def leaveStreams : List StreamId := [.L, .M, .W]

/-- A YLEAVE at position q is passed by a stream, or reached by Y (R306): its coverage is known from then on. -/
def Ctx.coverSeen (c : Ctx) (q n : Nat) : Ctx :=
  if c.covers.any (·.pos == q) then c
  else { c with covers := c.covers.filter (·.pos < q) ++ ⟨q, n, false, 0, []⟩ :: c.covers.filter (q < ·.pos) }

/-- The YLEAVE at position q has its grant. -/
def Ctx.coverGrant (c : Ctx) (q n mw : Nat) : Ctx :=
  let c := c.coverSeen q n
  { c with covers := c.covers.map fun k => if k.pos = q then { k with granted := true, milliwatts := mw } else k }

/-- The coverage that is in force at a trace position: that of the last YLEAVE before it (R306). -/
def Ctx.coverAt (c : Ctx) (q : Nat) : Option Cover := (c.covers.filter (·.pos < q)).getLast?

/-- YLEAVE asks for the sum over the words that it covers (R423). They lie ahead of it, and what they are may hang on data that is not
there yet, so the model leaves open how many of each kind they are; where that falls short of a word, the word has the rest asked for
(`State.leaveAsk`), so that what is asked for is never less than the sum (DESIGN CHOICE, log 56). -/
def State.coverAsk (s : State) (n : Nat) : State :=
  let nests := Config.choice s.fresh % (n + 1)
  let copies := Config.choice (s.fresh + 1) % (n - nests + 1)
  let s := ({ s with fresh := s.fresh + 2 }).leaveQueue .Y (nests * leaveNest + copies * leaveCopy)
  { s with ctx := s.ctx.coverSeen s.ctx.streams.y.pos n }

/-- Whether a YLEAVE covers a word of stream e at position q: only the first n words after it in trace order are covered, so that a word
counts those below it. None while a stream that stands below q may still bring enough of them (DEDUCED, log 26). -/
def Ctx.covered (c : Ctx) (k : Cover) (e : StreamId) (q : Nat) : Option Bool :=
  let low := ((leaveStreams.filter fun o => o != e && !(c.stream o).inact).map fun o => max (c.stream o).pos (k.pos + 1)).foldl min q
  if k.n ≤ (k.taken.filter (· < q)).length then some false
  else if (k.taken.filter (· < low)).length + (q - low) < k.n then some true
  else none

/-- The milliwatts of a request and of the coverage that its word has taken. -/
def LeaveReq.total (r : LeaveReq) : Nat := (if r.granted then r.milliwatts else 0) + r.part

/-- A covered word takes its own increment from the grant, as far as the grant reaches (R306, R423). -/
def State.coverTake (s : State) (k : Cover) (e : StreamId) (mw : Nat) : State :=
  let c := s.ctx
  let part := min mw k.milliwatts
  { s with ctx := { c with
      leaves := c.leaves ++ [⟨e, mw - part, decide (mw ≤ k.milliwatts), false, part⟩]
      covers := c.covers.map fun x =>
        if x.pos = k.pos then { x with milliwatts := x.milliwatts - part, taken := x.taken ++ [(c.stream e).pos] } else x } }

/-- A word of stream e reaches its leave point (R215, R251, R306): it goes on, or waits with STALL 9. Of a covered word that finds too little
left of the grant, the rest is asked for (DESIGN CHOICE, log 56). -/
def State.leaveAsk (s : State) (e : StreamId) (mw : Nat) (k : State → Res) : Res :=
  let q := (s.ctx.stream e).pos
  let ask := Res.wait 9 (s.leaveQueue e mw).leaveWait
  match s.ctx.leaves.find? (·.e == e) with
  | some r => if r.granted then k s else .wait 9 s.leaveWait
  | none => match s.ctx.coverAt q with
    | none => ask
    | some x =>
      if x.taken.contains q then ask
      else match s.ctx.covered x e q with
        | some false => ask
        | some true =>
          if !x.granted then .wait 9 s.leaveWait
          else
            let s1 := s.coverTake x e mw
            if mw ≤ x.milliwatts then k s1 else .wait 9 (s1.leaveLine e).leaveWait
        | none => .wait 9 s.leaveWait

/-- The milliwatts that a stream's word holds at its governor. -/
def Ctx.leaveHeld (c : Ctx) (e : StreamId) : Nat := ((c.leaves.find? fun r => r.e == e && r.granted).map LeaveReq.total).getD 0

/-- The request of a stream is used up; its grant goes on with what it was asked for. -/
def Ctx.leaveTaken (c : Ctx) (e : StreamId) : Ctx := { c with leaves := c.leaves.filter (·.e != e) }

/-- The word that asked completes: its grant ends (R423). -/
def State.leaveDone (s : State) (e : StreamId) : State :=
  let s1 := s.endGrant (dieOfCore s.ctx.core) (s.ctx.leaveHeld e)
  { s1 with ctx := s1.ctx.leaveTaken e }

/-- No word of the context can meet a coverage any more: the streams that ask have passed the next YLEAVE, or have ended, and Y has
passed its own. -/
def Ctx.coverOver (c : Ctx) (k : Cover) : Bool :=
  let stop := (c.covers.find? fun x => decide (k.pos < x.pos)).map (·.pos)
  (c.streams.y.inact || decide (k.pos < c.streams.y.pos)) &&
    leaveStreams.all fun e => (c.stream e).inact || stop.any fun t => decide (t < (c.stream e).pos)

/-- Ends coverage that is over, and gives back what no word has taken (R306, R423). -/
def State.pruneCovers (s : State) : State :=
  if s.ctx.covers.isEmpty then s
  else
    let gone := s.ctx.covers.filter fun k => s.ctx.coverOver k || decide (k.n ≤ k.taken.length)
    let s1 := s.endGrant (dieOfCore s.ctx.core) ((gone.map (·.milliwatts)).sum)
    let kept := (s.ctx.covers.filter fun k => !s.ctx.coverOver k).map fun k => if k.n ≤ k.taken.length then { k with milliwatts := 0 } else k
    { s1 with ctx := { s1.ctx with covers := kept } }

/-- Y has not executed the word at a trace position. -/
def Ctx.behindY (c : Ctx) (q : Nat) : Bool := !c.streams.y.inact && decide (c.streams.y.pos ≤ q)

/-- A context leaves its core: its requests, coverage, word grants and quartet queue places end (R306, R368). A
YLEAVE that Y has not executed keeps its note. -/
def State.dropLeaves (s : State) (inst : Nat) : State :=
  let s := { s with quartet := s.quartet.filter (·.inst != inst) }
  match s.findCtx inst with
  | none => s
  | some c =>
    let die := dieOfCore c.core
    let mw := (c.covers.map (·.milliwatts)).sum + (c.leaves.map LeaveReq.total).sum + (c.jobs.map (·.leave)).sum
    let s := s.endGrant die mw
    let s : State := { s with pkg := s.pkg.onGov die fun g => { g with queue := g.queue.filter fun w => match w with
      | .word i _ => i != inst
      | .step _ => true } }
    s.onCtx inst fun c => { c with covers := c.covers.filter (fun k => !k.granted && c.behindY k.pos), leaves := [] }

/-- DIECAP in force on a die, in milliwatts: that of CAP, less the thermal reduction (R423, R426). -/
def State.effectiveCap (s : State) (cap die : Nat) : Nat := (cap - 1055) / 4 * 1000 * (100 - (s.pkg.gov die).dropPct) / 100

/-- Changes the head command of a stack. -/
def State.onStep (s : State) (stack : Nat) (f : BaseStep → BaseStep) : State :=
  match s.har.steps.find? (·.stack == stack) with
  | none => s
  | some b => { s with har := { s.har with steps := s.har.steps.takeWhile (·.stack != stack) ++ f b :: (s.har.steps.dropWhile (·.stack != stack)).drop 1 } }

/-- Changes the request of a governor's queue entry. -/
def State.onLeave (s : State) (w : LeaveWait) (granted refused : Bool) : State :=
  match w with
  | .word i e => s.onCtx i fun c => { c with leaves := c.leaves.map fun q => if q.e = e then { q with granted := granted, refused := refused } else q }
  | .step k => s.onStep k fun b => { b with granted := granted, refused := refused }

/-- What a queue entry asks for, and whether it has been refused; none where nobody waits for it any more. -/
def State.leaveWanted (s : State) (w : LeaveWait) : Option (Nat × Bool) :=
  match w with
  | .word i e => ((s.findCtx i).bind fun c => c.leaves.find? fun r => r.e == e && !r.granted).map fun r => (r.milliwatts, r.refused)
  | .step k => ((s.har.steps.find? (·.stack == k)).filter (!·.granted)).map fun b => (leaveStep, b.refused)

/-- The head request of a governor is evaluated (R424): granted, or refused and counted once, for a context in its LEAVE_REFUSE too. -/
def State.evaluateLeave (s : State) (cap die : Nat) : State :=
  let g := s.pkg.gov die
  match g.queue with
  | [] => s
  | w :: rest =>
    match s.leaveWanted w with
    | none => { s with pkg := s.pkg.onGov die fun g => { g with queue := rest } }
    | some (mw, refused) =>
      if g.base + g.grants + mw ≤ s.effectiveCap cap die then
        ({ s with pkg := s.pkg.onGov die fun g => { g with queue := rest, grants := g.grants + mw } }).onLeave w true refused
      else if refused then s
      else
        let s := s.onLeave w false true
        let s := match w with
          | .word i _ => s.onCtx i fun c => { c with regs := { c.regs with refuse := min (c.regs.refuse + 1) 65535 } }
          | .step _ => s
        s.countErr 42

/-- The head command of a stack's queue asks for leave at the governor of the stack's die (R18, R335, R423). -/
def State.askStep (s : State) (stack : Nat) : State :=
  let die := dieOfStack stack
  match s.har.steps.find? (·.stack == stack) with
  | none => s
  | some b =>
    if b.granted ∨ (s.pkg.gov die).queue.contains (.step stack) then s
    else { s with pkg := s.pkg.onGov die fun g => { g with queue := g.queue ++ [.step stack] } }

end Sys2Proof.Machine
end

