-- ==== Sys2Proof/Machine/Numbers.lean ====
section
/-!
DEFINITION. The number rules of 03_numbers.md: decoding of codes (R61 to R66), rounding and saturation (R73 to R77),
exact arithmetic (R80, R81), group sums (R82, R83), special functions (R84 to R88), block scales (R68, R72).
Every computation is exact integer arithmetic followed by one named rounding.
-/

namespace Sys2Proof

/-- A value as an engine reads it: a NaN, an infinity, or (-1)^neg * (mag + d) * 2^exp, where d is 0, or lies strictly
between 0 and 1 when `st` is set (a quotient or root that has more digits). -/
inductive Val where
  | nan (sig : Bool)
  | inf (neg : Bool)
  | fin (neg : Bool) (mag : Nat) (exp : Int) (st : Bool)
deriving DecidableEq, Repr

namespace FFmt
/-- Largest exponent field. -/
def emax (f : FFmt) : Nat := 2 ^ f.ebits - 1
/-- Exponent of the last place of a subnormal (R62). -/
def qmin (f : FFmt) : Int := 1 - (f.bias : Int) - (f.mbits : Int)
/-- Magnitude code of the largest finite value (R61). -/
def maxCode (f : FFmt) : Nat :=
  if f.hasInf then f.emax * 2 ^ f.mbits - 1 else if f.hasNaN then 2 ^ (f.ebits + f.mbits) - 2 else 2 ^ (f.ebits + f.mbits) - 1
/-- Magnitude code of infinity, in the formats that have one. -/
def infCode (f : FFmt) : Nat := f.emax * 2 ^ f.mbits
/-- The sign bit as a number. -/
def signBit (f : FFmt) (neg : Bool) : Nat := if neg then 2 ^ (f.ebits + f.mbits) else 0
/-- The canonical NaN (R64); the formats without NaN write +0 (R74). -/
def canon (f : FFmt) : Nat :=
  if f.hasInf then f.infCode + 2 ^ (f.mbits - 1) else if f.hasNaN then 2 ^ (f.ebits + f.mbits) - 1 else 0
/-- The value of a code (R61, R62); bits above the format are ignored (R66). -/
def val (f : FFmt) (code : Nat) : Val :=
  let m := code % 2 ^ f.mbits
  let e := (code / 2 ^ f.mbits) % 2 ^ f.ebits
  let neg := (code / 2 ^ (f.ebits + f.mbits)) % 2 == 1
  if f.hasInf && e == f.emax then
    (if m == 0 then .inf neg else .nan (decide (m < 2 ^ (f.mbits - 1))))
  else if f.onlyTopNaN && e == f.emax && m == 2 ^ f.mbits - 1 then .nan false
  else if e == 0 then .fin neg m f.qmin false
  else .fin neg (2 ^ f.mbits + m) ((e : Int) + f.qmin - 1) false
end FFmt

namespace Val
/-- A signalling NaN (R64). -/
def isSig : Val → Bool
  | .nan s => s
  | _ => false
/-- Any NaN. -/
def isNaN : Val → Bool
  | .nan _ => true
  | _ => false
/-- +0 or -0. -/
def isZero : Val → Bool
  | .fin _ m _ st => m == 0 && !st
  | _ => false
/-- The sign. -/
def sign : Val → Bool
  | .nan _ => false
  | .inf n => n
  | .fin n _ _ _ => n
/-- The value with its sign inverted. -/
def neg : Val → Val
  | .nan s => .nan s
  | .inf n => .inf (!n)
  | .fin n m e st => .fin (!n) m e st
/-- +0. -/
def zero : Val := .fin false 0 0 false
/-- The quiet NaN an invalid operation makes. -/
def quiet : Val := .nan false
/-- An integer. -/
def ofInt (i : Int) : Val := .fin (decide (i < 0)) i.natAbs 0 false
/-- NV for signalling operands (R64, R79). -/
def sigFlags (l : List Val) : Flags := Flags.when (l.any isSig) Flags.nv
end Val

/-- The mantissa of a value at an exponent not above its own, as an integer. -/
def alignInt (neg : Bool) (m : Nat) (e q : Int) : Int :=
  let x : Int := ((m <<< (e - q).toNat : Nat) : Int)
  if neg then -x else x

/-- Exact sum (R80): an exact zero is +0 unless both addends are -0. Returns the value and NV. -/
def Val.add (x y : Val) : Val × Flags :=
  match x, y with
  | .nan _, _ => (.quiet, 0)
  | _, .nan _ => (.quiet, 0)
  | .inf a, .inf b => if a == b then (.inf a, 0) else (.quiet, Flags.nv)
  | .inf a, .fin .. => (.inf a, 0)
  | .fin .., .inf b => (.inf b, 0)
  | .fin na ma ea _, .fin nb mb eb _ =>
    let q := min ea eb
    let s := alignInt na ma ea q + alignInt nb mb eb q
    if s = 0 then (.fin (na && nb && ma == 0 && mb == 0) 0 q false, 0) else (.fin (decide (s < 0)) s.natAbs q false, 0)

/-- Exact product (R80). -/
def Val.mul (x y : Val) : Val × Flags :=
  match x, y with
  | .nan _, _ => (.quiet, 0)
  | _, .nan _ => (.quiet, 0)
  | .inf a, .inf b => (.inf (a != b), 0)
  | .inf a, .fin b m _ _ => if m == 0 then (.quiet, Flags.nv) else (.inf (a != b), 0)
  | .fin a m _ _, .inf b => if m == 0 then (.quiet, Flags.nv) else (.inf (a != b), 0)
  | .fin a m e _, .fin b n k _ => (.fin (a != b) (m * n) (e + k) false, 0)

/-- How many bits a quotient or root keeps beyond its operands; every format and D of R75 need fewer. -/
def guardBits : Nat := 160

/-- Quotient with its sticky mark (R80). -/
def Val.div (x y : Val) : Val × Flags :=
  match x, y with
  | .nan _, _ => (.quiet, 0)
  | _, .nan _ => (.quiet, 0)
  | .inf _, .inf _ => (.quiet, Flags.nv)
  | .inf a, .fin b _ _ _ => (.inf (a != b), 0)
  | .fin a _ _ _, .inf b => (.fin (a != b) 0 0 false, 0)
  | .fin a m e _, .fin b n k _ =>
    if n == 0 then (if m == 0 then (.quiet, Flags.nv) else (.inf (a != b), Flags.dz))
    else (.fin (a != b) ((m <<< guardBits) / n) (e - k - guardBits) ((m <<< guardBits) % n != 0), 0)

/-- Integer square root, one bit at a time from bit `n - 1` down. -/
def isqrtFrom (x : Nat) : Nat → Nat → Nat
  | 0, r => r
  | n + 1, r => let c := r + 2 ^ n; isqrtFrom x n (if c * c ≤ x then c else r)

/-- Integer square root. -/
def isqrt (x : Nat) : Nat := isqrtFrom x (Nat.log2 x / 2 + 1) 0

/-- Square root of a magnitude with its sticky mark. -/
def rootMag (m : Nat) (e : Int) (st : Bool) : Val :=
  let odd := e % 2 != 0
  let m' := (if odd then m * 2 else m) <<< (2 * guardBits)
  let e' := (if odd then e - 1 else e) / 2 - guardBits
  let r := isqrt m'
  .fin false r e' (st || r * r != m')

/-- Square root (R80): that of -0 is -0, below zero it is invalid. -/
def Val.sqrt (x : Val) : Val × Flags :=
  match x with
  | .nan _ => (.quiet, 0)
  | .inf n => if n then (.quiet, Flags.nv) else (.inf false, 0)
  | .fin n m e _ => if m == 0 then (.fin n 0 e false, 0) else if n then (.quiet, Flags.nv) else (rootMag m e false, 0)

/-- floor(2^32 * fraction) of R75 for the `k` bits dropped below the last place. -/
def srDigit (m : Nat) (st : Bool) (k : Nat) : Nat :=
  let r := m % 2 ^ k
  if 32 ≤ k then r / 2 ^ (k - 32) else r * 2 ^ (32 - k) + (if st then 2 ^ (32 - k) - 1 else 0)

/-- Round (m + d) * 2^e to a multiple of 2^q by a mode (R73, R75): the integer multiple and whether it is inexact. -/
def roundAt (mode : RMode) (g : Nat) (neg : Bool) (m : Nat) (e : Int) (st : Bool) (q : Int) : Nat × Bool :=
  if q ≤ e then
    let r := m <<< (e - q).toNat
    (if st && ((mode == .ru && !neg) || (mode == .rd && neg)) then r + 1 else r, st)
  else
    let k := (q - e).toNat
    let t := m / 2 ^ k
    let r := m % 2 ^ k
    let inexact := r != 0 || st
    let half := 2 ^ (k - 1)
    let up := match mode with
      | .rne => decide (half < r) || (r == half && (st || t % 2 == 1))
      | .rz => false
      | .ru => inexact && !neg
      | .rd => inexact && neg
      | .sr => inexact && decide (2 ^ 32 ≤ srDigit m st k + g)
    (if up then t + 1 else t, inexact)

/-- Where the last place of a rounding into `f` lies, for a non-zero magnitude (R62, R74: the exponent is unbounded above). -/
def lastPlace (f : FFmt) (m : Nat) (e : Int) : Int := max ((Nat.log2 m : Int) + e - (f.mbits : Int)) f.qmin

/-- R74: the default of the saturation control. -/
def FFmt.satDefault (f : FFmt) : Bool := !f.hasInf

/-- R74: rounding an exact value into a float format; `sat` is the saturation control, `g` the generator's value of R75.
Under RZ, and where RU or RD round toward zero, no finite value overflows fp8e4 (DEDUCED, log 42). -/
def roundTo (f : FFmt) (mode : RMode) (sat : Bool) (g : Nat) (x : Val) : Nat × Flags :=
  match x with
  | .nan sig =>
    if f.hasNaN then (f.canon, Flags.when sig Flags.nv) else (0, Flags.nv)
  | .inf neg =>
    if f.hasInf then (f.signBit neg + f.infCode, 0)
    else if f.hasNaN && !sat then (f.canon, Flags.nv)
    else (f.signBit neg + f.maxCode, Flags.nv ||| Flags.sat)
  | .fin neg m e st =>
    if m == 0 && !st then (f.signBit neg, 0)
    else
      let q := lastPlace f m e
      let (r, inexact) := roundAt mode g neg m e st q
      let code := (q - f.qmin).toNat * 2 ^ f.mbits + r
      let toZero := mode == .rz || (mode == .ru && neg) || (mode == .rd && !neg)
      if code ≤ f.maxCode then (f.signBit neg + code, Flags.rounding inexact (decide (code < 2 ^ f.mbits)))
      else if f.onlyTopNaN && toZero then (f.signBit neg + f.maxCode, Flags.nx)
      else if sat || !f.hasNaN then (f.signBit neg + f.maxCode, Flags.of ||| Flags.nx ||| Flags.sat)
      else if !f.hasInf then (f.canon, Flags.of ||| Flags.nx)
      else if toZero then (f.signBit neg + f.maxCode, Flags.of ||| Flags.nx)
      else (f.signBit neg + f.infCode, Flags.of ||| Flags.nx)

/-- The rounding of arithmetic: RNE, without saturation (R80). -/
def rne (f : FFmt) (x : Val) : Nat × Flags := roundTo f .rne false 0 x

/-- Round a pair of value and flags by RNE, adding the rounding's flags. -/
def rneWith (f : FFmt) (sig : Flags) (r : Val × Flags) : Nat × Flags :=
  let (c, fl) := rne f r.1
  (c, sig ||| r.2 ||| fl)

/-- x + y (R80). -/
def fpAdd (f : FFmt) (x y : Nat) : Nat × Flags :=
  let a := f.val x; let b := f.val y
  rneWith f (Val.sigFlags [a, b]) (a.add b)
/-- x - y (R80). -/
def fpSub (f : FFmt) (x y : Nat) : Nat × Flags :=
  let a := f.val x; let b := f.val y
  rneWith f (Val.sigFlags [a, b]) (a.add b.neg)
/-- x * y (R80). -/
def fpMul (f : FFmt) (x y : Nat) : Nat × Flags :=
  let a := f.val x; let b := f.val y
  rneWith f (Val.sigFlags [a, b]) (a.mul b)
/-- x / y (R80). -/
def fpDiv (f : FFmt) (x y : Nat) : Nat × Flags :=
  let a := f.val x; let b := f.val y
  rneWith f (Val.sigFlags [a, b]) (a.div b)
/-- x * y + z, rounded once (R80). -/
def fpFma (f : FFmt) (x y z : Nat) : Nat × Flags :=
  let a := f.val x; let b := f.val y; let c := f.val z
  let (p, fl) := a.mul b
  let (s, fl') := p.add c
  rneWith f (Val.sigFlags [a, b, c] ||| fl) (s, fl')
/-- The square root (R80). -/
def fpSqrt (f : FFmt) (x : Nat) : Nat × Flags :=
  let a := f.val x
  rneWith f (Val.sigFlags [a]) a.sqrt

/-- Numeric order of two values that are not NaN: -1, 0 or 1; +0 equals -0. -/
def Val.cmp (x y : Val) : Int :=
  match x, y with
  | .inf a, .inf b => if a == b then 0 else if a then -1 else 1
  | .inf a, _ => if a then -1 else 1
  | _, .inf b => if b then 1 else -1
  | .fin na ma ea _, .fin nb mb eb _ =>
    let q := min ea eb
    let d := alignInt na ma ea q - alignInt nb mb eb q
    if d < 0 then -1 else if d = 0 then 0 else 1
  | _, _ => 0

/-- Order of R81, -0 below +0. -/
def Val.below (x y : Val) : Bool :=
  let c := x.cmp y
  c == -1 || (c == 0 && x.isZero && y.isZero && x.sign && !y.sign)

/-- Minimum (`greater` false) or maximum of R81. -/
def fpMinMax (f : FFmt) (greater : Bool) (x y : Nat) : Nat × Flags :=
  let a := f.val x; let b := f.val y
  let fl := Val.sigFlags [a, b]
  if a.isNaN then (if b.isNaN then f.canon else y, fl)
  else if b.isNaN then (x, fl)
  else if greater then (if a.below b then y else x, fl)
  else (if b.below a then y else x, fl)

/-- The relations of the compares (R143, R196). -/
inductive FRel where
  | eq | ne | lt | le | un
deriving DecidableEq, Repr

/-- A floating compare: whether it holds, and NV as R79 states. -/
def fpCmp (f : FFmt) (r : FRel) (x y : Nat) : Bool × Flags :=
  let a := f.val x; let b := f.val y
  let nan := a.isNaN || b.isNaN
  let sig := Val.sigFlags [a, b]
  match r with
  | .eq => (!nan && a.cmp b == 0, sig)
  | .ne => (nan || a.cmp b != 0, sig)
  | .lt => (!nan && a.cmp b == -1, Flags.when nan Flags.nv)
  | .le => (!nan && a.cmp b != 1, Flags.when nan Flags.nv)
  | .un => (nan, sig)

/-- Lower and upper bound of an n-bit integer (R65). -/
def intBounds (n : Nat) (signed : Bool) : Int × Int :=
  if signed then (-(2 ^ (n - 1) : Int), (2 ^ (n - 1) : Int) - 1) else (0, (2 ^ n : Int) - 1)

/-- The low n bits of an integer. -/
def intCode (n : Nat) (i : Int) : Nat := (i % (2 ^ n : Int)).toNat

/-- The value of an n-bit code (R65). -/
def intVal (n : Nat) (signed : Bool) (code : Nat) : Int :=
  let c := code % 2 ^ n
  if signed && decide (2 ^ (n - 1) ≤ c) then (c : Int) - (2 ^ n : Int) else c

/-- Fit an integer into n bits (R77): in range, clamped under saturation, else its low bits (DEDUCED, log 10). -/
def fitInt (n : Nat) (signed sat : Bool) (bad : Flags) (i : Int) : Nat × Flags :=
  let (lo, hi) := intBounds n signed
  if i < lo then (if sat then (intCode n lo, bad ||| Flags.sat) else (intCode n i, bad))
  else if hi < i then (if sat then (intCode n hi, bad ||| Flags.sat) else (intCode n i, bad))
  else (intCode n i, 0)

/-- Floating value to integer (R77). -/
def toInt (n : Nat) (signed : Bool) (mode : RMode) (sat : Bool) (g : Nat) (x : Val) : Nat × Flags :=
  match x with
  | .nan _ => (0, Flags.nv)
  | .inf neg =>
    let (lo, hi) := intBounds n signed
    (intCode n (if neg then lo else hi), Flags.nv ||| Flags.sat)
  | .fin neg m e st =>
    let (r, inexact) := roundAt mode g neg m e st 0
    let i : Int := if neg then -(r : Int) else r
    let (c, fl) := fitInt n signed sat Flags.nv i
    (c, if fl == 0 then Flags.when inexact Flags.nx else fl)

/-- Integer to integer: a wider target takes the value extended by the source's signedness (R202); a narrower one clamps it or keeps the low bits
(R77). A target of the same width and other signedness, of which no rule speaks, is treated as a narrower one (DESIGN CHOICE, log 67). -/
def intToInt (sb : Nat) (ss : Bool) (db : Nat) (ds : Bool) (sat : Bool) (code : Nat) : Nat × Flags :=
  let i := intVal sb ss code
  if sb < db then (intCode db i, 0) else fitInt db ds sat 0 i

/-- R74: the saturation default of a target: on for fp8e4, fp6, fp4 and integers. -/
def NFmt.satDefault (n : NFmt) : Bool :=
  match n.kind with
  | .float f => f.satDefault
  | .int _ _ => true

/-- A conversion with one rounding (R202). `sinv` inverts the target's saturation default (DEDUCED, log 10). -/
def convert (src dst : NFmt) (mode : RMode) (sinv : Bool) (g code : Nat) : Nat × Flags :=
  let sat := dst.satDefault != sinv
  match src.kind, dst.kind with
  | .float a, .float b => roundTo b mode sat g (a.val code)
  | .float a, .int n s => match a.val code with
    | .nan _ => (0, Flags.nv)
    | v => toInt n s mode sat g v
  | .int n s, .float b => roundTo b mode sat g (Val.ofInt (intVal n s code))
  | .int n s, .int k u => intToInt n s k u sat code

/-- One step of the generator of R75. -/
def xorshift (x : Word) : Word :=
  let x := x ^^^ (x <<< 13)
  let x := x ^^^ (x >>> 17)
  x ^^^ (x <<< 5)

/-- The value of an E8M0 scale byte (R68). -/
def scaleByte (e : Nat) : Val := if e % 256 = 255 then .nan false else .fin false 1 ((e % 256 : Nat) - 127) false

/-- emax of R72. -/
def quantEmax (n : NFmt) : Int :=
  match n with
  | .fp8e4 => 8
  | .fp8e5 => 15
  | .fp6e2 => 2
  | .fp6e3 => 4
  | _ => 2

/-- The larger magnitude of two finite values, each (m, e). -/
def magMax (x y : Nat × Int) : Nat × Int :=
  let q := min x.2 y.2
  if x.1 <<< (x.2 - q).toNat < y.1 <<< (y.2 - q).toNat then y else x

/-- The scale of a block (R72): none when an amax is infinite or NaN, else the scale byte and E. -/
def blockScale (dst : NFmt) (vals : List Val) : Option (Nat × Int) :=
  let bad := vals.any fun v => match v with
    | .fin .. => false
    | _ => true
  if bad then none
  else
    let (m, e) := vals.foldl (fun a v => match v with
      | .fin _ m e _ => magMax a (m, e)
      | _ => a) (0, 0)
    if m = 0 then some (0, -127)
    else
      let x := max (-127) (min 127 ((Nat.log2 m : Int) + e - quantEmax dst))
      some ((x + 127).toNat, x)

/-- A value divided by 2^x. -/
def Val.scaleDown (v : Val) (x : Int) : Val :=
  match v with
  | .fin n m e st => .fin n m (e - x) st
  | w => w

/-- A scaled element (R69, R71): a NaN made by infinity times zero carries the signalling mark, so that the sum which
consumes it raises NV. -/
def Val.scaled (v s : Val) : Val :=
  if v.isSig || s.isSig then .nan true
  else
    let (p, fl) := v.mul s
    if fl == 0 then p else .nan true

/-- The exact sum of a group's products (R82): -0 only if every product is -0. Where a NaN term stands beside infinities of both signs, the sum is
NaN by R81, which does not say whether the infinities raise NV: they do not (DESIGN CHOICE, log 68). -/
def groupSum (ps : List Val) : Val × Flags :=
  if ps.any Val.isNaN then (.quiet, 0)
  else
    let pos := ps.any fun v => v == .inf false
    let neg := ps.any fun v => v == .inf true
    if pos && neg then (.quiet, Flags.nv)
    else if pos then (.inf false, 0)
    else if neg then (.inf true, 0)
    else
      let q := ps.foldl (fun q v => match v with
        | .fin _ _ e _ => min q e
        | _ => q) 0
      let s := ps.foldl (fun (s : Int) v => match v with
        | .fin n m e _ => s + alignInt n m e q
        | _ => s) 0
      if s = 0 then (.fin (!ps.isEmpty && ps.all Val.sign) 0 q false, 0) else (.fin (decide (s < 0)) s.natAbs q false, 0)

/-- One group of R82: acc := RNE32(acc + sum). -/
def groupStep (acc : Nat) (fl : Flags) (ps : List (Val × Val)) : Nat × Flags :=
  let sig := Val.sigFlags (ps.map (·.1) ++ ps.map (·.2))
  let prods := ps.map fun p => p.1.mul p.2
  let pf := Flags.all (prods.map (·.2))
  let (s, sf) := groupSum (prods.map (·.1))
  let a := FFmt.fp32.val acc
  let (r, rf) := rneWith FFmt.fp32 (Val.sigFlags [a]) (a.add s)
  (r, fl ||| sig ||| pf ||| sf ||| rf)

/-- Group size of R82 and R83. -/
def MTy.group : MTy → Nat
  | .bf16 | .fp16 => 4
  | .fp8e4 | .fp8e5 | .int8 => 8
  | .fp6e2 | .fp6e3 | .fp4e2 | .int4 => 16

/-- R82 for one accumulator element: the pairs of scaled operands in ascending k. -/
def dotFloat (g acc : Nat) (ps : List (Val × Val)) : Nat × Flags :=
  (chunks g ps.length ps).foldl (fun a c => groupStep a.1 a.2 c) (acc, 0)

/-- R83 for one accumulator element. -/
def dotInt (acc : Nat) (ps : List (Int × Int)) : Nat :=
  intCode 32 (ps.foldl (fun s p => s + p.1 * p.2) (acc : Int))

/-! Special functions (R84 to R88). Intermediate steps keep only their codes: they raise no flag. -/

/-- RNE32 of a value, as a value. -/
def r32 (v : Val) : Val := FFmt.fp32.val (rne .fp32 v).1
/-- RNE32(x * y + z). -/
def fma32 (x y z : Val) : Val := r32 ((x.mul y).1.add z).1
/-- The value of an fp32 code. -/
def c32 (code : Nat) : Val := FFmt.fp32.val code

/-- Coefficients C6 to C0 of R85, after C7. -/
def exp2Coeffs : List Nat := [0x39218489, 0x3AAEC3FF, 0x3C1D955B, 0x3D635847, 0x3E75FDF0, 0x3F317218, 0x3F800000]
/-- Coefficients K3 to K0 of R86, after K4. -/
def log2Coeffs : List Nat := [0x3ED30BB1, 0x3F13BB63, 0x3F76384F, 0x4038AA3B]
/-- Coefficients T13 to T3 of R87, after T15. -/
def tanhCoeffs : List Nat := [0x3B6B69E8, 0xBC11371B, 0x3CB327A4, 0xBD5D0DD1, 0x3E088889, 0xBEAAAAAB]

/-- Horner's rule with one fused step a coefficient. -/
def horner (x top : Val) (cs : List Nat) : Val := cs.foldl (fun p c => fma32 p x (c32 c)) top

/-- x rounded to an integer, ties to even. -/
def nearestInt (x : Val) : Int :=
  match x with
  | .fin n m e st => let r := (roundAt .rne 0 n m e st 0).1; if n then -(r : Int) else r
  | _ => 0

/-- Exp2Eval of R85, for finite x. -/
def exp2Eval (x : Val) : Nat :=
  let n := nearestInt x
  let f := (x.add (Val.ofInt (-n))).1
  let p := horner f (c32 0x377FE5FE) exp2Coeffs
  (rne .fp32 (p.scaleDown (-n))).1

/-- A finite value is an integer. -/
def Val.isInteger (x : Val) : Bool :=
  match x with
  | .fin _ m e _ => decide (0 ≤ e) || m % 2 ^ (-e).toNat == 0
  | _ => false

/-- The special functions. -/
inductive SFn where
  | rcp | rsq | exp2 | log2 | tanh
deriving DecidableEq, Repr

/-- What an evaluation finds before its flags are raised: the fp32 code, its other flags, whether it is inexact. -/
structure SRes where
  code : Nat
  flags : Flags
  inexact : Bool
deriving DecidableEq, Repr

/-- VRCP of a value (R84). -/
def rcp32 (x : Val) : SRes :=
  match x with
  | .nan _ => ⟨FFmt.fp32.canon, 0, false⟩
  | .inf n => ⟨FFmt.fp32.signBit n, 0, false⟩
  | .fin n m e st =>
    if m == 0 then ⟨FFmt.fp32.signBit n + FFmt.fp32.infCode, Flags.dz, false⟩
    else
      let (c, fl) := rne .fp32 ((Val.ofInt 1).div (.fin n m e st)).1
      ⟨c, fl &&& Flags.of, fl &&& Flags.nx != 0⟩

/-- VRSQ of a value (R84). -/
def rsq32 (x : Val) : SRes :=
  match x with
  | .nan _ => ⟨FFmt.fp32.canon, 0, false⟩
  | .inf n => if n then ⟨FFmt.fp32.canon, Flags.nv, false⟩ else ⟨0, 0, false⟩
  | .fin n m e st =>
    if m == 0 then ⟨FFmt.fp32.signBit n + FFmt.fp32.infCode, Flags.dz, false⟩
    else if n then ⟨FFmt.fp32.canon, Flags.nv, false⟩
    else
      let q := match ((Val.ofInt 1).div (.fin n m e st)).1 with
        | .fin _ qm qe qs => rootMag qm qe qs
        | v => v
      let (c, fl) := rne .fp32 q
      ⟨c, 0, fl &&& Flags.nx != 0⟩

/-- VEXP2 of a value (R85). -/
def exp2At (x : Val) : SRes :=
  match x with
  | .nan _ => ⟨FFmt.fp32.canon, 0, false⟩
  | .inf n => ⟨if n then 0 else FFmt.fp32.infCode, 0, false⟩
  | v =>
    if v.cmp (Val.ofInt 128) != -1 then ⟨FFmt.fp32.infCode, Flags.of, true⟩
    else if v.cmp (Val.ofInt (-160)) == -1 then ⟨0, 0, true⟩
    else ⟨exp2Eval v, 0, !(v.isInteger && v.cmp (Val.ofInt (-149)) != -1)⟩

/-- VLOG2 of a value (R86). -/
def log2At (x : Val) : SRes :=
  match x with
  | .nan _ => ⟨FFmt.fp32.canon, 0, false⟩
  | .inf n => if n then ⟨FFmt.fp32.canon, Flags.nv, false⟩ else ⟨FFmt.fp32.infCode, 0, false⟩
  | .fin n m e st =>
    if m == 0 then ⟨FFmt.fp32.signBit true + FFmt.fp32.infCode, Flags.dz, false⟩
    else if n then ⟨FFmt.fp32.canon, Flags.nv, false⟩
    else
      let l : Int := Nat.log2 m
      let mant : Val := .fin false m (-l) st
      let high := mant.cmp (c32 0x3FB504F3) == 1
      let mant := if high then mant.scaleDown 1 else mant
      let ex := if high then l + e + 1 else l + e
      let t := (mant.add (Val.ofInt (-1))).1
      let d := r32 (t.add (Val.ofInt 2)).1
      let u := r32 (t.div d).1
      let z := r32 (u.mul u).1
      let p := horner z (c32 0x3EA4258A) log2Coeffs
      let w := r32 (u.mul p).1
      ⟨(rne .fp32 ((Val.ofInt ex).add w).1).1, 0, m != 2 ^ Nat.log2 m⟩

/-- VTANH of a value (R87); `code` is x's own fp32 code. -/
def tanhAt (code : Nat) (x : Val) : SRes :=
  match x with
  | .nan _ => ⟨FFmt.fp32.canon, 0, false⟩
  | .inf n => ⟨FFmt.fp32.signBit n + 0x3F800000, 0, false⟩
  | .fin n m e st =>
    let ax : Val := .fin false m e st
    let s := FFmt.fp32.signBit n
    if m == 0 then ⟨code, 0, false⟩
    else if ax.cmp (.fin false 1 (-12) false) == -1 then ⟨code, 0, true⟩
    else if ax.cmp (.fin false 1 (-1) false) == -1 then
      let z := r32 (x.mul x).1
      let p := horner z (c32 0xBABED1B2) tanhCoeffs
      let w := r32 (z.mul p).1
      ⟨(rne .fp32 ((x.mul w).1.add x).1).1, 0, true⟩
    else if ax.cmp (Val.ofInt 10) == -1 then
      let big := c32 (exp2Eval (r32 (ax.mul (c32 0x4038AA3B)).1))
      let d := r32 (big.add (Val.ofInt 1)).1
      let q := r32 ((Val.ofInt 2).div d).1
      ⟨s + (rne .fp32 ((Val.ofInt 1).add q.neg).1).1, 0, true⟩
    else ⟨s + 0x3F800000, 0, true⟩

/-- A special function on a code of bf16, fp16 or fp32 (R88): widened exactly, evaluated in fp32, rounded once into the
element type; the flags are raised against that type. -/
def special (fn : SFn) (f : FFmt) (code : Nat) : Nat × Flags :=
  let x := f.val code
  let wide := (rne .fp32 x).1
  let r := match fn with
    | .rcp => rcp32 x
    | .rsq => rsq32 x
    | .exp2 => exp2At x
    | .log2 => log2At x
    | .tanh => tanhAt wide x
  let (c, fl) := rne f (FFmt.fp32.val r.code)
  let inexact := r.inexact || fl &&& Flags.nx != 0
  let tiny := decide (c % 2 ^ (f.ebits + f.mbits) < 2 ^ f.mbits)
  (c, Val.sigFlags [x] ||| r.flags ||| (fl &&& Flags.of) ||| Flags.rounding inexact tiny)

/-- RNE into fp32 of a code of any float format: exact for narrower formats (R207). -/
def widen32 (f : FFmt) (code : Nat) : Nat × Flags :=
  let v := f.val code
  (if v.isNaN then FFmt.fp32.canon else (rne .fp32 v).1, 0)

end Sys2Proof
end

