-- ==== Sys2Proof/Machine/Reduce.lean ====
section
/-!
DEFINITION. The element operations of reductions and of atomics at a memory site (R176, R181, R317, R335).
-/

namespace Sys2Proof.Machine

/-- Bytes of an element of a reduction type. -/
def redSize : RedTy → Nat
  | .fp32 => 4 | .bf16 => 2 | .int32 => 4 | .int64 => 8

/-- R317: old combined with inc, as codes. The unit raises no flag. -/
def redElem (ty : RedTy) (op : RedOp) (old inc : Nat) : Nat :=
  let int := fun (n : Nat) => match op with
    | .add => (old + inc) % 2 ^ n
    | .min => if intVal n true inc < intVal n true old then inc else old
    | .max => if intVal n true old < intVal n true inc then inc else old
  let flt := fun (f : FFmt) => match op with
    | .add => (fpAdd f old inc).1
    | .min => (fpMinMax f false old inc).1
    | .max => (fpMinMax f true old inc).1
  match ty with
  | .fp32 => flt .fp32
  | .bf16 => flt .bf16
  | .int32 => int 32
  | .int64 => int 64

/-- Combines two byte lists element by element. -/
def redBytes (ty : RedTy) (op : RedOp) (old inc : List Byte) : List Byte :=
  let n := redSize ty
  (List.zip (chunks n old.length old) (chunks n inc.length inc)).flatMap fun x => natBytes n (redElem ty op (leNat x.1) (leNat x.2))

/-- A reduction type and operation from their codes (R316, R337); OP 11 is refused. -/
def redOf (ty op : Nat) : Option (RedTy × RedOp) :=
  let t := match ty % 4 with
    | 0 => RedTy.fp32 | 1 => RedTy.bf16 | 2 => RedTy.int32 | _ => RedTy.int64
  match op % 4 with
  | 0 => some (t, .add)
  | 1 => some (t, .min)
  | 2 => some (t, .max)
  | _ => none

/-- AMO and AMOS (R176): the new value, and whether anything is written. -/
def amoNew (op : AmoOp) (old opd cmp : Dword) : Dword × Bool :=
  match op with
  | .add => (old + opd, true)
  | .and => (old &&& opd, true)
  | .or => (old ||| opd, true)
  | .xor => (old ^^^ opd, true)
  | .min => (if old.slt opd then old else opd, true)
  | .max => (if old.slt opd then opd else old, true)
  | .swap => (opd, true)
  | .cas => (opd, old == cmp)

/-- The poison that an atomic's write gives its sector (R176). -/
def amoPoison (op : AmoOp) (pm opd cmp : Bool) : Bool := pm || opd || (op == .cas && cmp)

/-- Bytes of a VATOM element (R181). -/
def vatomSize : VAtomOp → Nat
  | .i32add | .i32min | .i32max | .fp32add => 4
  | _ => 8

/-- VATOM's new value (R181). -/
def vatomNew (op : VAtomOp) (old opd : Nat) : Nat :=
  match op with
  | .i32add => redElem .int32 .add old opd
  | .i32min => redElem .int32 .min old opd
  | .i32max => redElem .int32 .max old opd
  | .fp32add => redElem .fp32 .add old opd
  | .i64add => redElem .int64 .add old opd
  | .i64min => redElem .int64 .min old opd
  | .i64max => redElem .int64 .max old opd

end Sys2Proof.Machine
end

