-- ==== Sys2Proof/Machine/Collective.lean ====
section
/-!
DEFINITION. Persistent collective graphs (R334 to R341) and the marking of a peer as silent (R326, R328, R279).
-/

namespace Sys2Proof.Machine

/-- A node completes in a generation (R338): once, with DONEPEG. -/
def State.nodeDone (s : State) (coll node : Nat) (gen : Word) : State :=
  match s.har.graph coll with
  | none => s
  | some g =>
    if g.gen ≠ gen ∨ g.done.contains node then s
    else
      let s := { s with har := s.har.onGraph coll fun g => { g with done := node :: g.done } }
      match g.node node with
      | none => s
      | some n => s.pegDone n.donePeg

/-- How a chunk fares at the ingress (R338, R339); `waits` is one that Harius keeps in its buffer, unanswered (R334). -/
inductive ChunkFate where
  | accepted | refused | ahead | waits
deriving DecidableEq, Repr

/-- Changes a graph. -/
def State.onGraph (s : State) (coll : Nat) (f : Graph → Graph) : State := { s with har := s.har.onGraph coll f }

/-- A chunk of the current generation enters its node (R338): a REDUCE goes to its stack's base-die queue, a DEPOSIT is written. -/
def State.takeChunk (s : State) (g : Graph) (i : Nat) (n : Node) (k : Chunk) : State :=
  let s := s.onGraph g.coll fun g => { g with taken := i :: g.taken }
  if n.kind = 2 then
    let off := natField (g.addr n).toNat 0 44
    let b : BaseStep := ⟨paStack off, g.coll, i, g.gen, g.addr n, n.len, BitVec.ofNat 8 n.optype, n.donePeg, k.data, k.poison, false, false⟩
    State.askStep { s with har := { s.har with steps := s.har.steps ++ [b] } } (paStack off)
  else
    let s := match s.physRange (g.addr n) n.len with
      | .ok p => s.physWrite p (withSectorPoison k.data k.poison)
      | .error _ => s
    s.nodeDone g.coll i g.gen

/-- Commands that a base die's queue holds (R334). -/
def baseQueue : Nat := 256

/-- The stack whose base-die queue a chunk is for. -/
def State.chunkStack (s : State) (k : Chunk) : Option Nat :=
  (s.har.graph k.coll.toNat).bind fun g => (g.node k.node).bind fun n => if n.kind = 2 then some (paStack (natField (g.addr n).toNat 0 44)) else none

/-- A chunk for a node finds no room (R334): its stack's queue is full or others wait for that queue before it; or chunks of its sender wait
already, whose link has no credit, unless it has been accepted before (R340). -/
def State.ingressFull (s : State) (g : Graph) (n : Node) (k : Chunk) (told : Bool) : Bool :=
  let stack := paStack (natField (g.addr n).toNat 0 44)
  (!told && s.har.ingress.any (·.1.src == k.src)) ||
    (n.kind == 2 && (decide (baseQueue ≤ (s.har.steps.filter (·.stack == stack)).length) ||
      s.har.ingress.any fun x => s.chunkStack x.1 == some stack))

/-- A tagged chunk arrives (R338, R339); `told` says whether its sender has its answer already. -/
def State.chunkArrives (s : State) (k : Chunk) (told : Bool) : State × ChunkFate :=
  match s.har.graph k.coll.toNat with
  | none => (s.countErr 45, .refused)
  | some g =>
    match g.node k.node with
    | none => (s.countErr 45, .refused)
    | some n =>
      if (n.kind ≠ 2 ∧ n.kind ≠ 3) ∨ n.peer ≠ k.src ∨ n.len ≠ k.data.length then (s.countErr 45, .refused)
      else
        let delta := (k.gen - g.gen).toNat
        if delta = 0 then
          if g.taken.contains k.node ∨ g.done.contains k.node then (s.countErr 45, .refused)
          else if s.ingressFull g n k told then ({ s with har := { s.har with ingress := s.har.ingress ++ [(k, told)] } }, .waits)
          else (s.takeChunk g k.node n k, .accepted)
        else if delta < 2 ^ 31 then
          if g.held.length < 64 then (s.onGraph g.coll fun g => { g with held := g.held ++ [k] }, .accepted) else (s, .ahead)
        else (s.countErr 45, .refused)

/-- Answers the sender of a chunk that does not wait; one of the own package completes its SEND node (R338), or is sent again (R339). -/
def State.answerChunk (s : State) (k : Chunk) (f : ChunkFate) : State :=
  if f = .waits then s
  else if k.src = s.mem.own then
    match s.net.chunksOut.find? fun c => c.dest == s.mem.own && c.chunk == k with
    | none => s
    | some c =>
      if f = .ahead then { s with agenda := s.agenda ++ [.deliver (.chunk k)] }
      else ({ s with net := { s.net with chunksOut := s.net.chunksOut.filter (·.id != c.id) } }).nodeDone c.coll c.node c.gen
  else { s with out := s.out ++ [.chunkAnswer k.src (f == .accepted) (f == .ahead)] }

/-- The chunks that wait for a base-die queue are tried again, in arrival order (R334). -/
def State.feedIngress (s : State) : State :=
  s.har.ingress.foldl (fun s x =>
    let r := s.chunkArrives x.1 x.2
    if x.2 then r.1 else r.1.answerChunk x.1 r.2) { s with har := { s.har with ingress := [] } }

/-- Takes a command out of its stack's queue: its grant ends, and the next command asks for leave (R423). -/
def State.dropStep (s : State) (b : BaseStep) : State :=
  let s : State := { s with har := { s.har with steps := s.har.steps.erase b } }
  (s.endGrant (dieOfStack b.stack) (if b.granted then leaveStep else 0)).askStep b.stack

/-- A reduction of bytes that carry poison: each element combined, poison joined (R317). -/
def redWithPoison (ty : RedTy) (op : RedOp) (old inc : List (Byte × Bool)) : List (Byte × Bool) :=
  List.zip (redBytes ty op (old.map fun x => x.1) (inc.map fun x => x.1)) (List.zipWith (fun x y => x.2 || y.2) old inc)

/-- The first queued step of a stack is performed (R335): each element combined as R317 states, poison joined sector by sector,
then DONEPEG. A step whose graph has moved on adds nothing (R340). -/
def State.runStep (s : State) (b : BaseStep) : State :=
  let s := match s.physRange b.base b.len, redOf (natField b.optype.toNat 2 2) (natField b.optype.toNat 0 2) with
    | .ok p, some (ty, op) =>
      let old : List (Byte × Bool) := State.physRead s p b.len
      s.physWrite p (redWithPoison ty op old (withSectorPoison b.data b.poison))
    | _, _ => s
  (((s.nodeDone b.coll b.node b.gen).dropStep b).feedIngress)

/-- Detaches a graph's queued steps: they are still performed, under their old ranges, and count for no node (R340). -/
def Har.orphanSteps (h : Har) (coll : Nat) : Har := { h with steps := h.steps.map fun b => if b.coll = coll then { b with coll := 256 } else b }

/-- Counts the unfinished nodes of a generation that is abandoned (R340, R403). -/
def State.abandonNodes (s : State) (g : Graph) : State :=
  let s := ((upTo g.nodes.length).filter fun i => !g.done.contains i).foldl (fun s _ => s.countErr 45) s
  { s with
    har := s.har.orphanSteps g.coll
    net := { s.net with chunksOut := s.net.chunksOut.filter (·.coll != g.coll) } }

/-- The TRIGPEGs and DONEPEGs of a graph. -/
def Graph.pegs (g : Graph) : List Nat :=
  (g.nodes.map nodeOf).flatMap fun n =>
    (if n.kind = 1 then [n.trigPeg] else []) ++ (if n.donePeg = 0xFFFF then [] else [n.donePeg.toNat % 16384])

/-- The pegs of a graph are set to count 0 and armed (R340). -/
def State.rearmPegs (s : State) (g : Graph) : State :=
  g.pegs.foldl (fun s i =>
    let p := s.har.peg i
    { s with har := s.har.setPeg i { p with count := 0, action := p.action ||| 0x10 } }) s

/-- Feeds the held chunks of the current generation, in arrival order (R340). -/
def State.feedHeld (s : State) (coll : Nat) : State :=
  match s.har.graph coll with
  | none => s
  | some g =>
    let s := s.onGraph coll fun g => { g with held := g.held.filter fun k => k.gen != g.gen }
    (g.held.filter fun k => k.gen == g.gen).foldl (fun s k => (s.chunkArrives k true).1) s

/-- A replay (R340): bases, abandoned nodes, pegs, generation, held chunks. The pegs, which have changed, are evaluated in the new
generation (R354) (DEDUCED, log 36). -/
def State.replay (s : State) (g : Graph) (bases : List Dword) : State :=
  let s := s.onGraph g.coll fun g => { g with bases := bases }
  let s := s.abandonNodes g
  let s := s.rearmPegs g
  let s := s.onGraph g.coll fun g => { g with gen := g.gen + 1, done := [], taken := [], since := s.pkg.time }
  let s := g.pegs.foldl State.pegEval s
  s.feedHeld g.coll

/-- A graph acts on a peer that falls silent (R341): its unfinished REDUCE and DEPOSIT nodes complete with their ranges
poisoned, its SENDs complete, its held chunks are discarded. A REDUCE whose chunk already stands in a queue is unfinished too: its command
is withdrawn, so that the values stay unchanged (DEDUCED, log 36). -/
def State.graphSilent (s : State) (peer : Pkg) (g : Graph) : State :=
  let s := s.onGraph g.coll fun g => { g with held := g.held.filter (·.src != peer) }
  let gone := fun (c : SentChunk) => c.coll == g.coll && c.dest == peer
  let s := { s with net := { s.net with
    chunksOut := s.net.chunksOut.filter fun c => !gone c
    pastPosts := s.net.pastPosts ++ (s.net.chunksOut.filter gone).map fun c => (c.id, c.dest, false) } }
  (upTo g.nodes.length).foldl (fun s i =>
    match g.node i with
    | none => s
    | some n =>
      if n.peer ≠ peer ∨ g.done.contains i then s
      else if n.kind = 1 then s.nodeDone g.coll i g.gen
      else
        let s := (s.har.steps.filter fun b => b.coll == g.coll && b.node == i && b.gen == g.gen).foldl State.dropStep s
        let s := match s.physRange (g.addr n) n.len with
          | .ok p => { s with mem := (sectorsOf p.off n.len).foldl Memory.poisonSector s.mem }
          | .error _ => s
        s.nodeDone g.coll i g.gen) s

/-- What follows when a peer becomes silent (R279, R328, R341). -/
def State.silentActions (s : State) (peer : Pkg) : State :=
  let s := { s with har := { s.har with phasers := phasersLosePkg s.har.phasers peer } }
  (s.har.graphs.foldl (fun s g => s.graphSilent peer g) s).feedIngress

/-- Harius marks a peer silent, with the maker of the marking (R326). A peer that is silent already takes no action again. -/
def State.markSilent (s : State) (peer : Pkg) (why : Nat) : State :=
  let e := s.mem.peer s.pkg peer
  if e.getLsbD 0 then s
  else
    let e' : Dword := (e &&& ~~~(0xF : Dword)) ||| BitVec.ofNat 64 (why * 2 + 1)
    ({ s with mem := s.mem.peerPut s.pkg peer e' }).silentActions peer

/-- A write to a peer's entry takes effect (R328): SILENT set by software acts as a marking. -/
def State.peerWritten (s : State) (peer : Pkg) (old new : Dword) : State :=
  if !old.getLsbD 0 && new.getLsbD 0 then s.silentActions peer else s

/-- Counts a mute reply for a peer (R328, R417). -/
def State.countMute (s : State) (peer : Pkg) : State :=
  let e := (s.mem.peer s.pkg peer).toNat
  ({ s with mem := s.mem.peerPut s.pkg peer (BitVec.ofNat 64 (satField e 32 32)) }).countErr 31

/-- Counts a late reply of a peer (R327). -/
def State.countLate (s : State) (peer : Pkg) : State :=
  let e := (s.mem.peer s.pkg peer).toNat
  ({ s with mem := s.mem.peerPut s.pkg peer (BitVec.ofNat 64 (satField e 16 16)) }).countErr 32

end Sys2Proof.Machine
end

