-- ==== Sys2Proof/Machine/Sha.lean ====
section
/-!
DEFINITION. SHA-256 (FIPS 180-4), which NHASH applies block by block (R405) and the boot ROM applies whole (R410, R412, R413).
-/

namespace Sys2Proof

/-- Eight words packed into one number, the first lowest. -/
def eightWords (x : Nat) : List Word := (upTo 8).map fun i => BitVec.ofNat 32 (natField x (32 * i) 32)

/-- The 64 round constants, eight to a number. -/
def shaRows : List Nat :=
  [0xab1c5ed5923f82a459f111f13956c25be9b5dba5b5c0fbcf71374491428a2f98,
   0xc19bf1749bdc06a780deb1fe72be5d74550c7dc3243185be12835b01d807aa98,
   0x76f988da5cb0a9dc4a7484aa2de92c6f240ca1cc0fc19dc6efbe4786e49b69c1,
   0x1429296706ca6351d5a79147c6e00bf3bf597fc7b00327c8a831c66d983e5152] ++
  [0x92722c8581c2c92e766a0abb650a735453380d134d2c6dfc2e1b213827b70a85,
   0x106aa070f40e3585d6990624d192e819c76c51a3c24b8b70a81a664ba2bfe8a1,
   0x682e6ff35b9cca4f4ed8aa4a391c0cb334b0bcb52748774c1e376c0819a4c116,
   0xc67178f2bef9a3f7a4506ceb90befffa8cc7020884c8781478a5636f748f82ee]

/-- The round constants. -/
def shaConstants : List Word := shaRows.flatMap eightWords

/-- The initial state. -/
def shaInit : List Word := eightWords 0x5be0cd191f83d9ab9b05688c510e527fa54ff53a3c6ef372bb67ae856a09e667

/-- Four octets as a big-endian word. -/
def beWord (l : List Byte) : Word := BitVec.ofNat 32 (leNat l.reverse)

/-- The exclusive or of three rotations of a word to the right, or of two and a shift. -/
def turned (x : Word) (i j k : Nat) (shift : Bool) : Word :=
  x.rotateRight i ^^^ x.rotateRight j ^^^ (if shift then x >>> k else x.rotateRight k)

/-- Extends the message schedule by n words; the list holds the words so far, newest first. -/
def shaExtend : Nat → List Word → List Word
  | 0, w => w
  | n + 1, w => shaExtend n ((turned (w.getD 1 0) 17 19 10 true + w.getD 6 0 + turned (w.getD 14 0) 7 18 3 true + w.getD 15 0) :: w)

/-- One round, over the eight words of the state, with a schedule word and its constant added. -/
def shaRound (st : List Word) (wk : Word) : List Word :=
  let v := fun (i : Nat) => st.getD i 0
  let choice := (v 4 &&& v 5) ||| (~~~v 4 &&& v 6)
  let majority := (v 0 &&& (v 1 ||| v 2)) ||| (v 1 &&& v 2)
  let t := v 7 + wk + choice + turned (v 4) 6 11 25 false
  (t + majority + turned (v 0) 2 13 22 false) :: v 0 :: v 1 :: v 2 :: (v 3 + t) :: (st.drop 4).take 3

/-- The compression of one 64-byte block into a state of eight words. -/
def shaCompress (st : List Word) (block : List Byte) : List Word :=
  let schedule := (shaExtend 48 ((chunks 4 16 block).map beWord).reverse).reverse
  let out := (List.zipWith (fun k w => k + w) shaConstants schedule).foldl shaRound st
  List.zipWith (fun x y => x + y) st out

/-- What follows a message of n bytes: a one bit, zeros, and the number of its bits in eight octets. -/
def shaTail (n : Nat) : List Byte := (0x80 :: List.replicate ((119 - n % 64) % 64) 0) ++ (natBytes 8 (8 * n)).reverse

/-- SHA-256 of a byte string, as its 32 octets. -/
def sha256 (l : List Byte) : List Byte :=
  (((chunks 64 (l.length / 64 + 2) (l ++ shaTail l.length)).foldl shaCompress shaInit).map fun w => (natBytes 4 w.toNat).reverse).flatten

/-- A digest's octets in address order as a number. -/
def digestBits (l : List Byte) : BitVec 256 := BitVec.ofNat 256 (leNat l)

end Sys2Proof
end

