-- ==== Sys2Proof/Machine/Ctl.lean ====
section
/-!
DEFINITION. Writes that the die caches forward to Harius (R415): peer table (R328), port table (R385), key record (R416), MEAS7
record (R413), power block (R418) and host mailbox (R421); and stores to the error counters (R417).
-/

namespace Sys2Proof.Machine

/-- MEAS := SHA-256(MEAS ‖ d) (R413). -/
def extendMeas (m : BitVec 256) (d : List Byte) : BitVec 256 := digestBits (sha256 (bytesOf m 0 32 ++ d))

/-- Extends a measurement register. -/
def PkgSt.extend (p : PkgSt) (i : Nat) (d : List Byte) : PkgSt :=
  if h : i < 8 then { p with meas := p.meas.set i (extendMeas p.meas[i] d) } else p

/-- Reads n bytes of the control area. -/
def State.ctlBytes (s : State) (off n : Nat) : List Byte :=
  match s.pkg.ctl with
  | some b => s.mem.hbmBytes (s.mem.key 0) (b + off) n
  | none => List.replicate n 0

/-- Accesses in flight lose a key slot that is loaded anew or unloaded (R158, R416): what they read and write from then on is poison. -/
def State.losesKey (s : State) (slot : Nat) : State :=
  let gone := fun (k : Nat) => if k = slot then noSlot else k
  let places := fun (c : Ctx) => { c with vplan := c.vplan.map fun v => { v with pieces := v.pieces.map fun p => { p with
    place := match p.place with
      | .glob g => if s.remote g then .glob g else .glob { g with phys := { g.phys with slot := gone g.phys.slot } }
      | w => w } } }
  { s with
    ctx := places s.ctx
    others := s.others.map places
    net := { s.net with
      posts := s.net.posts.map fun p => { p with recKey := gone p.recKey }
      inflows := s.net.inflows.map fun f => { f with
        work := match f.work with
          | .buffer b m => .buffer { b with recKey := gone b.recKey } m
          | w => w
        spot := match f.spot with
          | .hbm p => .hbm ⟨p.pa, gone p.slot⟩
          | w => w }
      ops := s.net.ops.map fun o => { o with descKey := gone o.descKey, localKey := gone o.localKey }
      signs := s.net.signs.map fun r => { r with dstKey := gone r.dstKey } } }

/-- A write to the key record's last doubleword loads or unloads a slot (R416). A record that names slot 0 or has a non-zero
reserved byte is zeroed without effect and counted. A key is its KEY's bits: slots loaded with one KEY read each other's data as plaintext
(DESIGN CHOICE, log 13). -/
def State.keyWritten (s : State) : State :=
  let r := s.ctlBytes ctlKey 128
  let slot := (r.getD 0 0).toNat % 128
  let unload := (r.getD 0 0).getLsbD 7
  let bad := slot == 0 || ((r.drop 1).take 63).any (· != 0)
  let s := { s with mem := s.mem.ctlPut s.pkg ctlKey 128 0 }
  if bad then s.countErr 30
  else
    let rest := s.mem.keys.filter (·.1 != slot)
    { (if (s.mem.keyOf slot).isSome then s.losesKey slot else s) with
      mem := { s.mem with keys := if unload then rest else (slot, 2 * leNat (r.drop 64)) :: rest } }

/-- A write to the MEAS7 record extends MEAS7 (R413). -/
def State.meas7Written (s : State) : State := { s with pkg := s.pkg.extend 7 (s.ctlBytes ctlMeas7 32) }

/-- CAP as stored for a written value (R418). -/
def clampCap (w : Nat) : Nat := if w < 1600 then 1600 else if 3200 < w then 3200 else w

/-- DIECAP for a CAP (R423). -/
def dieCapOf (cap : Nat) : Nat := (cap - 1055) / 4

/-- CAP in watts (R418). -/
def State.cap (s : State) : Nat := if s.pkg.started then s.mem.ctlNat s.pkg ctlPower 4 else s.pkg.preCap

/-- Writes CAP and the DIECAP that follows from it (R418, R423). -/
def State.setCap (s : State) (w : Nat) : State :=
  let c := clampCap w
  { s with
    pkg := { s.pkg with preCap := if s.pkg.started then s.pkg.preCap else c }
    mem := (s.mem.ctlPut s.pkg ctlPower 4 c).ctlPut s.pkg (ctlPower + 4) 4 (dieCapOf c) }

/-- A write to the power block (R418): CAP is clamped, the other fields are read-only and keep their values. -/
def State.powerWritten (s : State) (old : List Byte) : State :=
  let cap := leNat (s.ctlBytes ctlPower 4)
  let s := { s with mem := s.mem.ctlPut s.pkg (ctlPower + 4) 60 (leNat (old.drop 4)) }
  s.setCap cap

/-- A store ends a mailbox record (R421): it waits to leave for the host, or is dropped and counted where 16 wait, or where a sector of it
is poisoned, since poison never leaves for host memory (R332) (DEDUCED, log 46). -/
def State.mailboxWritten (s : State) (i : Nat) : State :=
  if s.pkg.mailbox.length < 16 ∧ s.pkg.ctl.all (fun b => !s.mem.rangePoison (b + ctlMailbox + 64 * i) 64) then
    { s with pkg := { s.pkg with mailbox := s.pkg.mailbox ++ [s.ctlBytes (ctlMailbox + 64 * i) 64] } }
  else s.countErr 44

/-- Harius applies a port's entry (R385): a priority that is no longer lossless is no longer paused. -/
def State.portApply (s : State) (port : Nat) : State :=
  if 8 ≤ port then s
  else
    let e : BitVec 512 := BitVec.ofNat 512 (leNat (s.ctlBytes (ctlPorts + 64 * port) 64))
    ({ s with net := { s.net with
        ports := (port, e) :: s.net.ports.filter (·.1 != port)
        paused := s.net.paused.filter fun p => p.1 != port || e.getLsbD (8 + p.2 % 8) } } : State).flushDue

/-- The items of size k of a table of n items at off of whose bytes one is written. -/
def touched (off k n : Nat) (hit : Nat → Bool) : List Nat := (upTo n).filter fun i => (upTo k).any fun j => hit (off + k * i + j)

/-- A counter after an agent's write to some of its bytes (R417): 0 where all of a listed one was written with zeros, else as it was. -/
def State.counterAfter (s old : State) (hit : Nat → Bool) (i : Nat) : Nat :=
  let whole := (upTo 8).all fun j => hit (ctlCounters + 8 * i + j)
  if counterListed i && whole && s.mem.ctlNat s.pkg (ctlCounters + 8 * i) 8 == 0 then 0 else old.mem.ctlNat old.pkg (ctlCounters + 8 * i) 8

/-- Agents have written a sector of the error counters: it holds their values again, clean (R417). -/
def State.countersWritten (s old : State) (hit : Nat → Bool) (k : Nat) : State :=
  let l := (upTo 4).flatMap fun j => natBytes 8 (s.counterAfter old hit (4 * k + j))
  { s with mem := s.mem.ctlPut s.pkg (ctlCounters + 32 * k) 32 (leNat l) }

/-- The effects of writes to the control area, given the state before them: `hit` says which of its bytes are written (R328, R415). -/
def State.ctlWritten (s old : State) (hit : Nat → Bool) : State :=
  let s := (touched ctlPeers 8 1024 hit).foldl (fun s i =>
    let p : Pkg := BitVec.ofNat 10 i
    let new := s.mem.peer s.pkg p &&& ~~~(0xFFF0 : Dword)
    ({ s with mem := s.mem.peerPut s.pkg p new }).peerWritten p (old.mem.peer old.pkg p) new) s
  let s := (touched ctlPorts 64 8 hit).foldl State.portApply s
  let s := (touched ctlCounters 32 64 hit).foldl (fun s k => s.countersWritten old hit k) s
  let s := if (touched (ctlKey + 0x78) 8 1 hit).isEmpty then s else s.keyWritten
  let s := if (touched ctlMeas7 64 1 hit).isEmpty then s else s.meas7Written
  let s := if (touched ctlPower 64 1 hit).isEmpty then s else s.powerWritten (old.ctlBytes ctlPower 64)
  (touched (ctlMailbox + 0x38) 64 16 (fun k => hit k && decide ((k - ctlMailbox) % 64 ≥ 0x38))).foldl State.mailboxWritten s

/-- The die caches pass what has been written to the control area in a turn on to Harius (R328, R415), whichever agent wrote it. -/
def State.forward (s old : State) : State :=
  let w := s.mem.fwd
  if w.isEmpty then s
  else
    let s : State := { s with mem := { s.mem with fwd := [] } }
    match s.pkg.ctl with
    | none => s
    | some b =>
      let l := w.filter fun x => decide (b + ctlPeers < x.1 * 32 + 32) && decide (x.1 * 32 < b + ctlLogHead)
      if old.pkg.ctl ≠ some b ∨ l.isEmpty then s
      else s.ctlWritten old fun k => l.any fun x => x.1 == (b + k) / 32 && x.2.getLsbD ((b + k) % 32)

/-- Whether a physical range touches the control area's bytes [off, off + n). -/
def State.inCtl (s : State) (p : Phys) (len off n : Nat) : Bool :=
  s.pkg.ctl.any fun b => decide (p.off < b + off + n) && decide (b + off < p.off + len)

/-- A store by a Harius thread goes through the die caches (R151). -/
def State.threadStore (s : State) (p : Phys) (l : List (Byte × Bool)) : State := s.physWrite p l

end Sys2Proof.Machine
end

