-- ==== Sys2Proof/Machine/Operands.lean ====
section
/-!
DEFINITION. Memory operands: the checks of an access in their order (R173), for a context's virtual and scratch addresses
(R149, R150) and for a Harius thread's (R151), the gates of R282, and requests to other packages (R308 to R311, R326).
-/

namespace Sys2Proof.Machine

/-! Gates (R282) -/

/-- A gating Y word that the stream has passed has not completed. -/
def Ctx.gated (c : Ctx) (e : StreamId) : Bool := !c.streams.y.inact && (c.stream e).gates.any fun q => decide (c.streams.y.pos ≤ q)

/-- A memory word goes on only where no gate holds it. -/
def State.ungated (s : State) (k : Unit → Res) : Res :=
  match s.agent with
  | .thread => k ()
  | .stream e => if s.ctx.gated e then .wait 10 s else k ()

/-! Global operands -/

/-- Steps 2 to 5 of R173 for the agent in focus: form, alignment to the access size, translation, permission, slot row, key
(DEDUCED, log 23). -/
def State.access (s : State) (a : Dword) (k : AKind) (size : Nat) : State × Except Trap Global :=
  match s.agent with
  | .stream e =>
    match globalForm s.mem.own a with
    | none => (s, .error (memTrap causeAccess k false 1 a))
    | some va =>
      if a.toNat % size ≠ 0 then (s, .error (memTrap causeAlign k false 0 a))
      else
        let x := translate s.mem s.fresh (some s.ctx.core) s.ctx.asid (s.ctx.rootOf e) va k a
        ({ s with mem := x.mem, fresh := x.fresh }, x.res.map fun p => ⟨va, p⟩)
  | .thread =>
    match physForm s.mem a with
    | .error 1 => (s, .error (memTrap causeAccess k false 1 a))
    | r =>
      if a.toNat % size ≠ 0 then (s, .error (memTrap causeAlign k false 0 a))
      else match r with
        | .error w => (s, .error (memTrap causeAccess k false w a))
        | .ok p => (s, .ok ⟨0, p⟩)

/-- A load of n bytes in one sector of the own package, through the L1 on a context (R161), with poison. -/
def State.loadBytes (s : State) (g : Global) (n : Nat) : List Byte × Bool × State :=
  match s.agent with
  | .stream _ =>
    let r := s.mem.l1Load s.ctx.core s.ctx.asid g.va.toNat g.phys.off (s.mem.key g.phys.slot) n
    (r.1, r.2.1, { s with mem := r.2.2 })
  | .thread =>
    let r := s.mem.dieRead g.phys.slot g.phys.off n
    (r.1, r.2.1, { s with mem := r.2.2 })

/-- A store of bytes of one sector of the own package, through the L1 on a context. -/
def State.storeBytes (s : State) (g : Global) (l : List Byte) (p : Bool) : State :=
  match s.agent with
  | .stream _ =>
    let sec := g.phys.off / 32
    { s with mem := s.mem.l1Store s.ctx.core s.ctx.asid (g.va.toNat / 64) sec (s.mem.key g.phys.slot) (bytesIn sec g.phys.off l) p }
  | .thread => s.threadStore g.phys (l.map fun b => (b, p))

/-- Before an atomic leaves the core, the L1 writes back and drops the line it names (R161). -/
def State.atomicSite (s : State) (g : Global) : State :=
  match s.agent with
  | .stream _ => { s with mem := (s.mem.l1Evict s.ctx.core (g.phys.off / 64)).endLeases g.phys.off 1 }
  | .thread => { s with mem := s.mem.endLeases g.phys.off 1 }

/-- A read at the site of an atomic. -/
def State.siteRead (s : State) (g : Global) (n : Nat) : Nat × Bool :=
  (leNat (s.mem.hbmBytes (s.mem.key g.phys.slot) g.phys.off n), s.mem.rangePoison g.phys.off n)

/-- The write of an atomic at its site; a thread's is forwarded like its stores (R415). -/
def State.siteWrite (s : State) (g : Global) (n v : Nat) (p : Bool) : State :=
  match s.agent with
  | .stream _ => { s with mem := s.mem.hbmWrite (s.mem.key g.phys.slot) g.phys.off (natBytes n v) p }
  | .thread => s.threadStore g.phys ((natBytes n v).map fun b => (b, p))

/-! Scratch operands (R150, R151) -/

/-- Steps 2, 3, 5 and 6 of R173 for a scratch address: form and the end of the scratchpad, alignment, another space's
allocation, the own allocation (DEDUCED, log 23). -/
def State.scratch (s : State) (a : Dword) (k : AKind) (size align : Nat) : Except Trap ScrPlace :=
  let bad := fun (cause : Byte) (why : Nat) => Except.error (memTrap cause k true why a)
  match scrForm a with
  | .bad => bad causeAccess 2
  | .own off =>
    match s.agent with
    | .thread => bad causeAccess 2
    | .stream _ =>
      if a.toNat % align ≠ 0 then bad causeAlign 0
      else if s.ctx.scrBytes < off + size then bad causeBound 0
      else .ok ⟨s.ctx.core, s.ctx.scrBase + off⟩
  | .package core off =>
    if scrSize < off + size then bad causeAccess 2
    else if a.toNat % align ≠ 0 then bad causeAlign 0
    else match s.agent with
      | .thread => .ok ⟨core, off⟩
      | .stream _ => if allocHolds (allocs s.ctxs) s.ctx.asid core off size then .ok ⟨core, off⟩ else bad causeAccess 5

/-! Requests to other packages (R308, R326) -/

/-- The address space whose translation a request uses (R382): a reduction piece's own, else that of the issuer; a probe uses none. -/
def State.usedAsid (s : State) : Origin → Asid
  | .rred id => ((s.har.rred.find? fun p => p.id == id).map (·.asid)).getD 0
  | .probe _ _ => 0
  | _ => s.asid

/-- Sends a request, or has Harius answer it with a mute reply at once (R326, R412). Its number is the counter's old value. -/
def State.request (s : State) (g : Global) (kind : ReqKind) (origin : Origin) : State :=
  let id := s.net.nextId
  let peer : Pkg := BitVec.ofNat 10 g.phys.pkg
  let w : Wire := ⟨id, peer, g.va, some kind, origin, false, s.usedAsid origin, s.pkg.route id⟩
  let s := { s with net := { s.net with nextId := id + 1, wires := s.net.wires ++ [w] } }
  if s.mem.silent s.pkg peer then { s with agenda := s.agenda ++ [.deliver (.mute id 3)] }
  else if !s.pkg.linked then { s with agenda := s.agenda ++ [.deliver (.mute id 2)] }
  else { s with out := s.out ++ [.request id ⟨s.mem.own, BitVec.ofNat 56 g.phys.pa, BitVec.ofNat 7 g.phys.slot, kind⟩ peer] }

/-- Whether the agent's poisoned data may leave the package (R331, R332). -/
def State.mayExport (s : State) : Bool :=
  match s.agent with
  | .thread => true
  | .stream _ => s.ctx.regs.exportOk

/-- The trace position of the agent's word, and its context. -/
def State.here (s : State) : Nat × Nat :=
  match s.agent with
  | .thread => (0, 0)
  | .stream e => (s.ctx.inst, (s.ctx.stream e).pos)

/-- The context that issues a request. -/
def State.issuer (s : State) : Nat := s.here.1

/-! Phaser names (R271, R273) -/

/-- The quartet of a core, numbered within the package (R11). -/
def quartetOf (core : Nat) : Nat := core / 128 * 32 + core % 128 / 32 * 8 + core % 16 / 2

/-- The scope instance of a scope code for a party on a core (R271). -/
def scopeAt (scope : Scope3) (core home : Nat) : Nat :=
  match scope.toNat with
  | 1 => core
  | 2 => quartetOf core
  | 3 => core / 128
  | 5 => home
  | _ => 0

/-- Phasers per scope instance (R273). -/
def scopeCapacity (scope : Scope3) : Nat :=
  match scope.toNat with
  | 1 => 64
  | 2 => 64
  | 3 => 1024
  | _ => 4096

/-! Bank rotation (R221, R222, R262) -/

/-- The row step of a rotation code (R221). -/
def rotStep (code : Nat) : Nat := [0, 1, 2, 4, 8, 16, 3, 5].getD code 0

/-- The physical offset of unrotated offset u on line l (R222). -/
def rotate (code u l : Nat) : Nat := u - natField u 6 5 * 64 + (natField u 6 5 + l * rotStep code) % 32 * 64

end Sys2Proof.Machine
end

