-- ==== Sys2Proof/Machine/Code.lean ====
section
/-!
DEFINITION. Fetching the text (R27, R30, R458): the words at a code address, for a context through the X permission of its pages,
for a Harius thread from its own package's memory.
-/

namespace Sys2Proof.Machine

/-- A line of a core's instruction cache is pinned by a b register of a resident context (R117). -/
def pinned (cs : List Ctx) (x : CodeLine) : Bool :=
  cs.any fun c => c.place == .resident && c.core == x.core && c.asid == x.asid &&
    c.sf.b.toList.any fun b => b.toNat % 2 ^ 56 / 64 == x.vline

/-- Bytes of text of this package that a context fetches (R458): through the core's instruction cache where they lie in one line. A line
held is used as it was fetched until it leaves the cache: the spec gives the instruction cache no coherence rule (DESIGN CHOICE, log 48). -/
def State.textBytes (s : State) (g : Global) : State × List Byte :=
  let line := g.phys.off / 64
  let key := s.mem.key g.phys.slot
  if 60 < g.phys.off % 64 then
    let r := s.mem.dieRead g.phys.slot g.phys.off 4
    ({ s with mem := r.2.2 }, r.1)
  else
    let held := s.mem.codeFind s.ctx.core line key
    let got := s.mem.dieRead g.phys.slot (line * 64) 64
    let x := held.getD ⟨s.ctx.core, line, s.ctx.asid, g.va.toNat / 64, key, BitVec.ofNat 512 (leNat got.1)⟩
    let m := if held.isSome then s.mem else got.2.2.codePut x (pinned s.ctxs)
    ({ s with mem := m }, (upTo 4).map fun i => elem 8 x.data (g.phys.off % 64 + i))

/-- The word at a code address. A program counter that is no multiple of 4 (a handler's entry is not checked) names the four bytes there
(DESIGN CHOICE, log 53). -/
def State.codeWord (s : State) (a : Dword) : State × Except Trap Word :=
  match s.access a .fetch 1 with
  | (s, .error tr) => (s, .error tr)
  | (s, .ok g) =>
    if s.remote g then (s, .error (memTrap causeAccess .fetch false 1 a))
    else match s.agent with
      | .stream _ =>
        let r := s.textBytes g
        (r.1, .ok (BitVec.ofNat 32 (leNat r.2)))
      | .thread =>
        let r := s.mem.dieRead g.phys.slot g.phys.off 4
        ({ s with mem := r.2.2 }, .ok (BitVec.ofNat 32 (leNat r.1)))

/-- The word at a code address and its literal, 0 where it is not wide (R30). A literal that cannot be fetched is reported at its own
address (DESIGN CHOICE, log 59). -/
def State.codeAt (s : State) (a : Dword) : State × Except Trap (Word × Word) :=
  match s.codeWord a with
  | (s, .error tr) => (s, .error tr)
  | (s, .ok w) =>
    if isWide w then match s.codeWord (a + 4) with
      | (s, .error tr) => (s, .error tr)
      | (s, .ok l) => (s, .ok (w, l))
    else (s, .ok (w, 0))

/-- PREP's fetch of the line of a context's b register (R117), where it can be translated; a fetch that cannot does not trap. -/
def State.prefetch (s : State) (inst : Nat) (b : BReg) : State :=
  match s.focus inst with
  | none => s
  | some t =>
    if t.ctx.place ≠ .resident then s
    else (({ t with agent := .stream .S } : State).codeWord (t.ctx.sf.b[b.toNat]'b.isLt)).1

/-- A line leaves a core's instruction cache, unless a b register pins it (R117). -/
def State.evictCode (s : State) (core line : Nat) : State :=
  if s.mem.code.any fun x => x.core == core && x.line == line && pinned s.ctxs x then s else { s with mem := s.mem.codeDrop core line }

/-- An entry leaves its TLB. -/
def State.evictTlb (s : State) (e : TlbEntry) : State := { s with mem := { s.mem with tlb := s.mem.tlb.filter (· != e) } }

/-- The positions that a word takes (R90). -/
def wordSize (w : Word) : Nat := if isWide w then 2 else 1

end Sys2Proof.Machine
end

