-- ==== Sys2Proof/Machine/Banks.lean ====
section
/-!
DEFINITION. Promote lists of the banks (R165), the split of a die (R164, R168) and automatic promotion (R167). None of these
changes a value that an access reads (R166).
-/

namespace Sys2Proof.Machine

/-- The die register block of a stack. -/
def Memory.dieOf (m : Memory) (stack : Nat) : Die := m.dies[dieOfStack stack % 4]'(Nat.mod_lt _ (by decide))

/-- Changes a die's registers. -/
def Memory.onDie (m : Memory) (d : Nat) (f : Die → Die) : Memory :=
  if h : d < 4 then { m with dies := m.dies.set d (f m.dies[d]) } else m

/-- A bank's promotion list. -/
def Memory.promos (m : Memory) (bank : Nat) : List Promotion := ((m.banks.find? (·.num == bank)).map (·.promos)).getD []

/-- Stores a bank's promotion list. -/
def Memory.setPromos (m : Memory) (bank : Nat) (l : List Promotion) : Memory :=
  let rest := m.banks.filter (·.num != bank)
  { m with banks := if l.isEmpty then rest else ⟨bank, l⟩ :: rest }

/-- The lowest slot number below n that a list does not use. -/
def freeSlot (l : List Promotion) (n : Nat) : Nat := ((upTo n).find? fun k => l.all fun p => p.slot != k).getD 0

/-- The die cache writes its dirty bytes of a block back and drops its lines (R447); a write-back that reaches a promoted block sets its
dirty bit. -/
def Promotion.flush (p : Promotion) : Promotion := { p with dirty := p.dirty || p.cached != 0, cached := 0 }

/-- PROMOTE of a row under a split (R165); what the die cache holds of the block is written back first (R447). -/
def promoteIn (slots row : Nat) (l : List Promotion) : List Promotion :=
  if slots = 0 ∨ row < 4096 then l
  else if l.any (·.row == row) then l.map fun p => if p.row = row then p.flush else p
  else if l.length < slots then l ++ [⟨row, freeSlot l slots, false, 0⟩]
  else match l with
    | [] => []
    | old :: rest => rest ++ [⟨row, old.slot, false, 0⟩]

/-- The die cache writes one of its dirty lines back to a promoted block (R162, R447). -/
def Memory.writeBack (m : Memory) (bank row k : Nat) : Memory :=
  m.setPromos bank ((m.promos bank).map fun p =>
    if p.row = row ∧ p.cached.getLsbD k then { p with dirty := true, cached := p.cached &&& ~~~(BitVec.ofNat 16 (2 ^ k)) } else p)

/-- PROMOTE reaching the bank of a physical offset, for another package that waits for its answer, for a thread, or for a context; while the
die's split is changing it waits (R168). -/
def Memory.promoteFor (m : Memory) (reply : Option Pkg) (thread : Option Nat) (a : Nat) : Memory :=
  let d := dieOfStack (paStack a)
  if (m.dieOf (paStack a)).busy then m.onDie d fun x => { x with heldPromotes := x.heldPromotes ++ [⟨a, reply, thread⟩] }
  else m.setPromos (paBank a) (promoteIn (m.slotsOf (paStack a)) (paRow a) (m.promos (paBank a)))

/-- PROMOTE of this package. -/
def Memory.promote (m : Memory) (a : Nat) : Memory := m.promoteFor none none a

/-- DEMOTE reaching the bank of a physical offset (R165). -/
def Memory.demote (m : Memory) (a : Nat) : Memory :=
  m.setPromos (paBank a) ((m.promos (paBank a)).filter (·.row != paRow a))

/-- SLOTS as stored for a written value (R164). -/
def clampSlots (v : Dword) : Nat :=
  let x := natField v.toNat 0 13
  if 4096 < x then 4096 else x / 16 * 16

/-- A SETS of FSPLIT that is not held: BUSY is set where SLOTS changes. -/
def Die.split (d : Die) (v : Dword) : Die :=
  if clampSlots v = d.slots then d else { d with busy := true, newSlots := clampSlots v }

/-- A SETS of FSPLIT (R164): while BUSY its effect is held, and the thread goes on (DESIGN CHOICE, log 52). -/
def Memory.writeSplit (m : Memory) (d : Nat) (v : Dword) : Memory :=
  m.onDie d fun x => if x.busy then { x with heldSets := x.heldSets ++ [v] } else x.split v

/-- Applies held SETS in order until one sets BUSY. -/
def Die.applyHeld : Nat → Die → Die
  | 0, d => d
  | n + 1, d => match d.heldSets with
    | [] => d
    | v :: vs => if d.busy then d else Die.applyHeld n ({ d with heldSets := vs }.split v)

/-- The banks of a die have demoted every entry and adopted the split (R168); held PROMOTEs and SETS follow. The banks adopt at one event,
and until then the rows follow the old split (DESIGN CHOICE, log 52). -/
def Memory.adoptSplit (m : Memory) (d : Nat) : Memory :=
  let held := if h : d < 4 then m.dies[d].heldPromotes else []
  let m := { m with banks := m.banks.filter fun b => dieOfStack (b.num / 1024) != d }
  let m := m.onDie d fun x => { x with slots := x.newSlots, busy := false, heldPromotes := [] }
  let m := held.foldl (fun (m : Memory) h => m.promote h.addr) m
  m.onDie d fun x => Die.applyHeld x.heldSets.length x

/-- HOT's threshold (R167). -/
def hotCount (auto : Byte) : Nat := 16 * (natField auto.toNat 4 4 + 1)

/-- A slow row that is not promoted is activated: counted in the epoch (R167). -/
def Memory.activate (m : Memory) (bank row : Nat) : Memory :=
  let d := dieOfStack (bank / 1024)
  if row < 4096 ∨ (m.promos bank).any (·.row == row) then m
  else m.onDie d fun x =>
    let n := ((x.acts.find? fun y => y.1 == bank && y.2.1 == row).map (·.2.2)).getD 0
    { x with acts := (bank, row, n + 1) :: x.acts.filter fun y => !(y.1 == bank && y.2.1 == row) }

/-- A row has reached its hot activation count on a die with EN set (R167). -/
def Memory.hot (m : Memory) (bank row : Nat) : Bool :=
  let x := m.dieOf (bank / 1024)
  x.auto.getLsbD 0 && x.acts.any fun y => y.1 == bank && y.2.1 == row && decide (hotCount x.auto ≤ y.2.2)

/-- The physical offset of a bank's row. -/
def rowAddr (bank row : Nat) : Nat := bank / 1024 * 2 ^ 36 + row * 2 ^ 20 + bank % 16 * 2 ^ 16 + bank / 16 % 64 * 2 ^ 10

end Sys2Proof.Machine
end

