-- ==== Sys2Proof/Machine/Scalar.lean ====
section
/-!
DEFINITION. The S words that do not touch memory (05): integer, immediate, compare, predicate and fp32 words. They run on
compute contexts and on Harius threads alike (R127); a thread has no tokens and no flags.
-/

namespace Sys2Proof.Machine

/-- The register file of the agent in focus. -/
def State.sf (s : State) : ScalarFile :=
  match s.agent with
  | .thread => s.thr.sf
  | .stream _ => s.ctx.sf

/-- Raises sticky flags of the context in focus (R79); a Harius thread has none. -/
def State.raiseFlags (s : State) (f : Flags) : State :=
  match s.agent with
  | .thread => s
  | .stream _ => { s with ctx := { s.ctx with regs := { s.ctx.regs with flags := s.ctx.regs.flags ||| f } } }

/-- Writes a predicate of the agent in focus. -/
def State.writeP (s : State) (r : PReg) (v : PVal) : State :=
  match s.agent with
  | .thread => { s with thr := { s.thr with sf := s.thr.sf.setP r v } }
  | .stream _ => { s with ctx := { s.ctx with sf := s.ctx.sf.setP r v } }

/-- A source waits for an outstanding load or atomic (R127). -/
def State.sWaits (s : State) (srcs : List SReg) : Bool :=
  match s.agent with
  | .thread => false
  | .stream _ => srcs.any s.ctx.pending

/-- The flags of a result: none where it is poisoned (R79, R128). -/
def flagsUnless (p : Bool) (f : Flags) : Flags := if p then 0 else f

/-- An S word that reads registers and writes one scalar register. -/
def sToS (t : Tok) (n : Nat) (srcs : List SReg) (d : SReg) (f : ScalarFile → SVal × Flags) (s : State) : Outcome :=
  anyWord .S t n (fun _ s =>
    if s.sWaits srcs then .wait 11 s
    else s.writable d fun _ =>
      let r := f s.sf
      .done false ((s.writeS d r.1).raiseFlags (flagsUnless r.1.p r.2))) s

/-- An S word that reads registers and writes one predicate. -/
def sToP (t : Tok) (srcs : List SReg) (d : PReg) (f : ScalarFile → PVal × Flags) (s : State) : Outcome :=
  anyWord .S t 1 (fun _ s =>
    if s.sWaits srcs then .wait 11 s
    else
      let r := f s.sf
      .done false ((s.writeP d r.1).raiseFlags (flagsUnless r.1.p r.2))) s

/-! Shapes -/

/-- Two-source integer word (R130): every named source contributes its poison (R128). -/
def sInt2 (t : Tok) (d a b : SReg) (f : Dword → Dword → Dword) : State → Outcome :=
  sToS t 1 [a, b] d fun r => (⟨f (r.getS a).v (r.getS b).v, (r.getS a).p || (r.getS b).p⟩, 0)

/-- One-source integer word (R132). -/
def sInt1 (t : Tok) (d a : SReg) (f : Dword → Dword) : State → Outcome :=
  sToS t 1 [a] d fun r => (⟨f (r.getS a).v, (r.getS a).p⟩, 0)

/-- Immediate word whose source is its destination (R136, R137). -/
def sImm (t : Tok) (n : Nat) (d : SReg) (f : Dword → Dword) : State → Outcome :=
  sToS t n [d] d fun r => (⟨f (r.getS d).v, (r.getS d).p⟩, 0)

/-- Constant word, clean (R128). -/
def sConst (t : Tok) (n : Nat) (d : SReg) (v : Dword) : State → Outcome := sToS t n [] d fun _ => (⟨v, false⟩, 0)

/-- Integer compare (R138). -/
def sCmp (t : Tok) (d : PReg) (a b : SReg) (f : Dword → Dword → Bool) : State → Outcome :=
  sToP t [a, b] d fun r => (⟨f (r.getS a).v (r.getS b).v, (r.getS a).p || (r.getS b).p⟩, 0)

/-- Predicate word (R139). -/
def sPred (t : Tok) (d a b : PReg) (f : Bool → Bool → Bool) : State → Outcome :=
  sToP t [] d fun r => (⟨f (r.getP a).v (r.getP b).v, (r.getP a).p || (r.getP b).p⟩, 0)

/-- The fp32 code in bits [31:0] (R140). -/
def fp32In (v : Dword) : Nat := v.toNat % 2 ^ 32
/-- An fp32 result: zero in bits [63:32] (R140). -/
def fp32Out (c : Nat) : Dword := BitVec.ofNat 64 (c % 2 ^ 32)

/-- Two-source fp32 word (R141). -/
def sFp2 (t : Tok) (d a b : SReg) (f : Nat → Nat → Nat × Flags) : State → Outcome :=
  sToS t 1 [a, b] d fun r =>
    let o := f (fp32In (r.getS a).v) (fp32In (r.getS b).v)
    (⟨fp32Out o.1, (r.getS a).p || (r.getS b).p⟩, o.2)

/-- fp32 compare (R143). -/
def sFpCmp (t : Tok) (d : PReg) (a b : SReg) (rel : FRel) : State → Outcome :=
  sToP t [a, b] d fun r =>
    let o := fpCmp .fp32 rel (fp32In (r.getS a).v) (fp32In (r.getS b).v)
    (⟨o.1, (r.getS a).p || (r.getS b).p⟩, o.2)

/-! Integer results (R130 to R134) -/

/-- Shift count (R131). -/
def shiftCount (y : Dword) : Nat := y.toNat % 64
/-- Bits [127:64] of the signed product (R133). -/
def mulhS (x y : Dword) : Dword := BitVec.ofInt 64 (x.toInt * y.toInt / 2 ^ 64)
/-- Bits [127:64] of the unsigned product (R133). -/
def mulhU (x y : Dword) : Dword := BitVec.ofNat 64 (x.toNat * y.toNat / 2 ^ 64)
/-- DIV (R134). -/
def divS (x y : Dword) : Dword := if y = 0 then BitVec.allOnes 64 else BitVec.ofInt 64 (x.toInt.tdiv y.toInt)
/-- DIVU (R134). -/
def divU (x y : Dword) : Dword := if y = 0 then BitVec.allOnes 64 else BitVec.ofNat 64 (x.toNat / y.toNat)
/-- REM (R134). -/
def remS (x y : Dword) : Dword := if y = 0 then x else BitVec.ofInt 64 (x.toInt.tmod y.toInt)
/-- REMU (R134). -/
def remU (x y : Dword) : Dword := if y = 0 then x else BitVec.ofNat 64 (x.toNat % y.toNat)
/-- Sign-extended immediate. -/
def imm (i : BitVec 13) : Dword := i.signExtend 64
/-- Zero-extended immediate. -/
def immZ (i : BitVec 13) : Dword := i.setWidth 64

/-! Meanings -/

/-- ADD (R130). -/
def execAdd (t : Tok) (d a b : SReg) (s : State) : Outcome := sInt2 t d a b (fun x y => x + y) s
/-- SUB (R130). -/
def execSub (t : Tok) (d a b : SReg) (s : State) : Outcome := sInt2 t d a b (fun x y => x - y) s
/-- AND (R130). -/
def execAnd (t : Tok) (d a b : SReg) (s : State) : Outcome := sInt2 t d a b (fun x y => x &&& y) s
/-- OR (R130). -/
def execOr (t : Tok) (d a b : SReg) (s : State) : Outcome := sInt2 t d a b (fun x y => x ||| y) s
/-- XOR (R130). -/
def execXor (t : Tok) (d a b : SReg) (s : State) : Outcome := sInt2 t d a b (fun x y => x ^^^ y) s
/-- ANDN (R130). -/
def execAndn (t : Tok) (d a b : SReg) (s : State) : Outcome := sInt2 t d a b (fun x y => x &&& ~~~y) s
/-- SHL (R131). -/
def execShl (t : Tok) (d a b : SReg) (s : State) : Outcome := sInt2 t d a b (fun x y => x <<< shiftCount y) s
/-- SHRL (R131). -/
def execShrl (t : Tok) (d a b : SReg) (s : State) : Outcome := sInt2 t d a b (fun x y => x >>> shiftCount y) s
/-- SHRA (R131). -/
def execShra (t : Tok) (d a b : SReg) (s : State) : Outcome := sInt2 t d a b (fun x y => x.sshiftRight (shiftCount y)) s
/-- ROTR (R131). -/
def execRotr (t : Tok) (d a b : SReg) (s : State) : Outcome := sInt2 t d a b (fun x y => x.rotateRight (shiftCount y)) s
/-- MIN (R130). -/
def execMin (t : Tok) (d a b : SReg) (s : State) : Outcome := sInt2 t d a b (fun x y => if x.slt y then x else y) s
/-- MAX (R130). -/
def execMax (t : Tok) (d a b : SReg) (s : State) : Outcome := sInt2 t d a b (fun x y => if x.slt y then y else x) s
/-- MINU (R130). -/
def execMinu (t : Tok) (d a b : SReg) (s : State) : Outcome := sInt2 t d a b (fun x y => if x.ult y then x else y) s
/-- MAXU (R130). -/
def execMaxu (t : Tok) (d a b : SReg) (s : State) : Outcome := sInt2 t d a b (fun x y => if x.ult y then y else x) s
/-- CLZ (R132). -/
def execClz (t : Tok) (d a : SReg) (s : State) : Outcome := sInt1 t d a (fun x => BitVec.ofNat 64 (clzNat 64 x.toNat)) s
/-- CTZ (R132). -/
def execCtz (t : Tok) (d a : SReg) (s : State) : Outcome := sInt1 t d a (fun x => BitVec.ofNat 64 (ctzNat 64 x.toNat)) s
/-- POPC (R132). -/
def execPopc (t : Tok) (d a : SReg) (s : State) : Outcome := sInt1 t d a (fun x => BitVec.ofNat 64 (popcNat 64 x.toNat)) s
/-- MUL (R133). -/
def execMul (t : Tok) (d a b : SReg) (s : State) : Outcome := sInt2 t d a b (fun x y => x * y) s
/-- MULH (R133). -/
def execMulh (t : Tok) (d a b : SReg) (s : State) : Outcome := sInt2 t d a b mulhS s
/-- MULHU (R133). -/
def execMulhu (t : Tok) (d a b : SReg) (s : State) : Outcome := sInt2 t d a b mulhU s
/-- DIV (R134). -/
def execDiv (t : Tok) (d a b : SReg) (s : State) : Outcome := sInt2 t d a b divS s
/-- DIVU (R134). -/
def execDivu (t : Tok) (d a b : SReg) (s : State) : Outcome := sInt2 t d a b divU s
/-- REM (R134). -/
def execRem (t : Tok) (d a b : SReg) (s : State) : Outcome := sInt2 t d a b remS s
/-- REMU (R134). -/
def execRemu (t : Tok) (d a b : SReg) (s : State) : Outcome := sInt2 t d a b remU s
/-- SEL (R135): the predicate's poison and that of the selected register alone. -/
def execSel (t : Tok) (d a b : SReg) (p : PReg) (s : State) : Outcome :=
  sToS t 1 [a, b] d (fun r =>
    let x := if (r.getP p).v then r.getS a else r.getS b
    (⟨x.v, x.p || (r.getP p).p⟩, 0)) s
/-- ADDI (R136). -/
def execAddi (t : Tok) (d : SReg) (i : BitVec 13) (s : State) : Outcome := sImm t 1 d (fun x => x + imm i) s
/-- ANDI (R136). -/
def execAndi (t : Tok) (d : SReg) (i : BitVec 13) (s : State) : Outcome := sImm t 1 d (fun x => x &&& imm i) s
/-- ORI (R136). -/
def execOri (t : Tok) (d : SReg) (i : BitVec 13) (s : State) : Outcome := sImm t 1 d (fun x => x ||| immZ i) s
/-- XORI (R136). -/
def execXori (t : Tok) (d : SReg) (i : BitVec 13) (s : State) : Outcome := sImm t 1 d (fun x => x ^^^ immZ i) s
/-- SHLI (R136). -/
def execShli (t : Tok) (d : SReg) (c : BitVec 6) (s : State) : Outcome := sImm t 1 d (fun x => x <<< c.toNat) s
/-- SHRLI (R136). -/
def execShrli (t : Tok) (d : SReg) (c : BitVec 6) (s : State) : Outcome := sImm t 1 d (fun x => x >>> c.toNat) s
/-- SHRAI (R136). -/
def execShrai (t : Tok) (d : SReg) (c : BitVec 6) (s : State) : Outcome := sImm t 1 d (fun x => x.sshiftRight c.toNat) s
/-- MOVI (R136). -/
def execMovi (t : Tok) (d : SReg) (i : BitVec 13) (s : State) : Outcome := sConst t 1 d (imm i) s
/-- MOVW (R137). -/
def execMovw (t : Tok) (d : SReg) (lit : Word) (s : State) : Outcome := sConst t 2 d (lit.signExtend 64) s
/-- MOVHW (R137). -/
def execMovhw (t : Tok) (d : SReg) (lit : Word) (s : State) : Outcome := sImm t 2 d (fun x => lit ++ x.extractLsb' 0 32) s
/-- CMPEQ (R138). -/
def execCmpeq (t : Tok) (d : PReg) (a b : SReg) (s : State) : Outcome := sCmp t d a b (fun x y => x == y) s
/-- CMPNE (R138). -/
def execCmpne (t : Tok) (d : PReg) (a b : SReg) (s : State) : Outcome := sCmp t d a b (fun x y => x != y) s
/-- CMPLT (R138). -/
def execCmplt (t : Tok) (d : PReg) (a b : SReg) (s : State) : Outcome := sCmp t d a b (fun x y => x.slt y) s
/-- CMPLE (R138). -/
def execCmple (t : Tok) (d : PReg) (a b : SReg) (s : State) : Outcome := sCmp t d a b (fun x y => x.sle y) s
/-- CMPLTU (R138). -/
def execCmpltu (t : Tok) (d : PReg) (a b : SReg) (s : State) : Outcome := sCmp t d a b (fun x y => x.ult y) s
/-- CMPLEU (R138). -/
def execCmpleu (t : Tok) (d : PReg) (a b : SReg) (s : State) : Outcome := sCmp t d a b (fun x y => x.ule y) s
/-- PAND (R139). -/
def execPand (t : Tok) (d a b : PReg) (s : State) : Outcome := sPred t d a b (fun x y => x && y) s
/-- POR (R139). -/
def execPor (t : Tok) (d a b : PReg) (s : State) : Outcome := sPred t d a b (fun x y => x || y) s
/-- PXOR (R139). -/
def execPxor (t : Tok) (d a b : PReg) (s : State) : Outcome := sPred t d a b (fun x y => x != y) s
/-- PANDN (R139). -/
def execPandn (t : Tok) (d a b : PReg) (s : State) : Outcome := sPred t d a b (fun x y => x && !y) s
/-- FADD (R141). -/
def execFadd (t : Tok) (d a b : SReg) (s : State) : Outcome := sFp2 t d a b (fpAdd .fp32) s
/-- FSUB (R141). -/
def execFsub (t : Tok) (d a b : SReg) (s : State) : Outcome := sFp2 t d a b (fpSub .fp32) s
/-- FMUL (R141). -/
def execFmul (t : Tok) (d a b : SReg) (s : State) : Outcome := sFp2 t d a b (fpMul .fp32) s
/-- FDIV (R141). -/
def execFdiv (t : Tok) (d a b : SReg) (s : State) : Outcome := sFp2 t d a b (fpDiv .fp32) s
/-- FFMA (R142). -/
def execFfma (t : Tok) (d a b : SReg) (s : State) : Outcome :=
  sToS t 1 [a, b, d] d (fun r =>
    let o := fpFma .fp32 (fp32In (r.getS a).v) (fp32In (r.getS b).v) (fp32In (r.getS d).v)
    (⟨fp32Out o.1, (r.getS a).p || (r.getS b).p || (r.getS d).p⟩, o.2)) s
/-- FMIN (R141). -/
def execFmin (t : Tok) (d a b : SReg) (s : State) : Outcome := sFp2 t d a b (fpMinMax .fp32 false) s
/-- FMAX (R141). -/
def execFmax (t : Tok) (d a b : SReg) (s : State) : Outcome := sFp2 t d a b (fpMinMax .fp32 true) s
/-- FSQRT (R141). -/
def execFsqrt (t : Tok) (d a : SReg) (s : State) : Outcome :=
  sToS t 1 [a] d (fun r =>
    let o := fpSqrt .fp32 (fp32In (r.getS a).v)
    (⟨fp32Out o.1, (r.getS a).p⟩, o.2)) s
/-- FCMPEQ (R143). -/
def execFcmpeq (t : Tok) (d : PReg) (a b : SReg) (s : State) : Outcome := sFpCmp t d a b .eq s
/-- FCMPLT (R143). -/
def execFcmplt (t : Tok) (d : PReg) (a b : SReg) (s : State) : Outcome := sFpCmp t d a b .lt s
/-- FCMPLE (R143). -/
def execFcmple (t : Tok) (d : PReg) (a b : SReg) (s : State) : Outcome := sFpCmp t d a b .le s
/-- FCVTFI (R144): an int32 result is sign-extended. -/
def execFcvtfi (t : Tok) (d a : SReg) (i32 wrap : Bool) (rm : RMode) (s : State) : Outcome :=
  sToS t 1 [a] d (fun r =>
    let o := toInt (if i32 then 32 else 64) true rm (!wrap) 0 (FFmt.fp32.val (fp32In (r.getS a).v))
    let v : Dword := if i32 then (BitVec.ofNat 32 o.1).signExtend 64 else BitVec.ofNat 64 o.1
    (⟨v, (r.getS a).p⟩, o.2)) s
/-- FCVTIF (R145). -/
def execFcvtif (t : Tok) (d a : SReg) (w32 uns : Bool) (rm : RMode) (s : State) : Outcome :=
  sToS t 1 [a] d (fun r =>
    let n := if w32 then 32 else 64
    let o := roundTo .fp32 rm false 0 (Val.ofInt (intVal n (!uns) ((r.getS a).v.toNat % 2 ^ n)))
    (⟨fp32Out o.1, (r.getS a).p⟩, o.2)) s

end Sys2Proof.Machine
end

