-- ==== Sys2Proof/Machine/ScalarMem.lean ====
section
/-!
DEFINITION. The S words that touch memory (R173 to R177, R313).
-/

namespace Sys2Proof.Machine

/-- The global address sA + sB (R173); a poisoned source is a fret. -/
def State.addr2 (s : State) (a b : SReg) (k : Dword → Res) : Res := s.clean a 1 fun x => s.clean b 1 fun y => k (x + y)
/-- The address sA + sext(lit) (R173). -/
def State.addrLit (s : State) (a : SReg) (lit : Word) (k : Dword → Res) : Res := s.clean a 1 fun x => k (x + lit.signExtend 64)

/-- A load's value from its little-endian bytes (R174): mod[2] extends the sign. -/
def loadValue (m : BitVec 3) (bytes : Nat) : Dword :=
  let bits := 8 * 2 ^ (m.toNat % 4)
  if m.getLsbD 2 then BitVec.ofInt 64 (intVal bits true (bytes % 2 ^ bits)) else BitVec.ofNat 64 (bytes % 2 ^ bits)

/-- Bytes of a load or store by its mod. -/
def accessSize (m : Nat) : Nat := 2 ^ (m % 4)

/-- S notes that a register will take its value later (R127): lagging streams keep the old version. -/
def Ctx.owe (c : Ctx) (id : Nat) (r : SReg) (mode : Option (BitVec 3)) (push : Bool) : Ctx :=
  { c with hist := if r = 0 then c.hist else c.histAfter r, loads := c.loads ++ [⟨id, r, mode, push⟩] }

/-- A request of S whose reply writes a register (R127, R308). -/
def State.sendFor (s : State) (g : Global) (kind : ReqKind) (r : SReg) (mode : Option (BitVec 3)) (push : Bool) : State :=
  let id := s.net.nextId
  let s := s.request g kind (.sload s.here.1 s.here.2)
  { s with ctx := s.ctx.owe id r mode push }

/-- An access has been accepted by the fabric: the word's forward push is applied, while its value is still to come (R101). -/
def State.pushNow (s : State) (push : Tok) : State :=
  match s.agent with
  | .thread => s
  | .stream e => { s with ctx := { s.ctx with tok := pushAll s.ctx.tok e { push with pb := false } } }

/-- A global load (R174). -/
def globalLoad (t : Tok) (n : Nat) (d : SReg) (m : BitVec 3) (addr : State → (Dword → Res) → Res) (s : State) : Outcome :=
  anyWord .S t n (fun push s =>
    s.ungated fun _ => addr s fun a => s.writable d fun _ =>
      match s.access a .load (accessSize m.toNat) with
      | (s, .error tr) => .trap tr s
      | (s, .ok g) =>
        if s.remote g then .done true (s.sendFor ⟨g.va, ⟨g.phys.pa / 32 * 32, g.phys.slot⟩⟩ (.read 32) d (some m) push.pf)
        else
          let (bytes, p, s) := s.loadBytes g (accessSize m.toNat)
          .done false (s.writeS d ⟨loadValue m (leNat bytes), p⟩)) s

/-- A store by a Harius thread of n poisoned bytes to the host mailbox: a fret at the thread (R332, R421). -/
def State.mailboxFret (s : State) (g : Global) (n : Nat) (p : Bool) : Bool := s.agent == .thread && p && s.inCtl g.phys n ctlMailbox 1024

/-- A global store (R175): its pieces for another package are accepted by the fabric; poison leaves only under EXPORT, and no thread
stores it to the host mailbox (R332). -/
def globalStore (t : Tok) (n : Nat) (d : SReg) (z : Nat) (addr : State → (Dword → Res) → Res) (s : State) : Outcome :=
  anyWord .S t n (fun _ s =>
    s.ungated fun _ => addr s fun a => s.withS d fun v =>
      match s.access a .store (accessSize z) with
      | (s, .error tr) => .trap tr s
      | (s, .ok g) =>
        let bytes := natBytes (accessSize z) v.v.toNat
        if s.remote g then
          if v.p && !s.mayExport then .trap (fretTrap 2 d.toNat 0 none) s
          else .done false (s.request g (.write bytes v.p) (.store s.here.1 s.here.2))
        else if s.mailboxFret g (accessSize z) v.p then .trap (fretTrap 2 d.toNat 0 none) s
        else .done false (s.storeBytes g bytes v.p)) s

/-- The effect of an atomic on the doubleword at its site (R176) (DEDUCED, log 23). -/
def State.siteAtomic (s : State) (g : Global) (op : AmoOp) (opd cmp : SVal) : SVal × State :=
  let s := s.atomicSite g
  let (old, pm) := s.siteRead g 8
  let o : Dword := BitVec.ofNat 64 old
  let r := amoNew op o opd.v cmp.v
  (⟨o, pm⟩, if r.2 then s.siteWrite g 8 r.1.toNat (amoPoison op pm opd.p cmp.p) else s)

/-- S notes a bank word that its bank has not yet accepted (R101, R177). -/
def State.oweBank (s : State) (req : Option Nat) (addr : Nat) (push : Tok) : State :=
  match s.agent with
  | .thread => s
  | .stream _ => { s with ctx := { s.ctx with banks := s.ctx.banks ++ [⟨s.ctx.streams.s.pos, req, addr, push.pf⟩] } }

/-- A bank word of the context has been accepted, or has failed (R101, R177): its push is applied. -/
def Ctx.bankDone (c : Ctx) (f : BankPush → Bool) : Ctx :=
  let n := (c.banks.filter fun b => f b && b.push).length
  { c with banks := c.banks.filter fun b => !f b, tok := (upTo n).foldl (fun w _ => pushAll w .S ⟨false, true, false, false⟩) c.tok }

/-- PROMOTE and DEMOTE (R177): its `pf` waits until the bank accepts it, in another package or after a change of the split (DEDUCED, log 23). -/
def bankWord (t : Tok) (a b : SReg) (kind : ReqKind) (act : Memory → Option Nat → Nat → Memory) (s : State) : Outcome :=
  anyWord .S t 1 (fun push s =>
    s.ungated fun _ => s.addr2 a b fun x =>
      match s.access x .promote 1 with
      | (s, .error tr) => .trap tr s
      | (s, .ok g) =>
        if s.remote g then .done true ((s.request g kind (.bank s.here.1 s.here.2)).oweBank (some s.net.nextId) g.phys.off push)
        else
          let by_ : Option Nat := match s.agent with
            | .thread => some s.thr.num
            | .stream _ => none
          let u : State := { s with mem := act s.mem by_ g.phys.off }
          if kind == .promote && (s.mem.dieOf (paStack g.phys.off)).busy then .done true (u.oweBank none g.phys.off push) else .done false u) s

/-- LDG (R174). -/
def execLdg (t : Tok) (d a b : SReg) (m : BitVec 3) (s : State) : Outcome := globalLoad t 1 d m (fun s => s.addr2 a b) s
/-- LDGW (R174). -/
def execLdgw (t : Tok) (d a : SReg) (m : BitVec 3) (lit : Word) (s : State) : Outcome := globalLoad t 2 d m (fun s => s.addrLit a lit) s
/-- STG (R175). -/
def execStg (t : Tok) (d a b : SReg) (z : BitVec 2) (s : State) : Outcome := globalStore t 1 d z.toNat (fun s => s.addr2 a b) s
/-- STGW (R175). -/
def execStgw (t : Tok) (d a : SReg) (z : BitVec 2) (lit : Word) (s : State) : Outcome :=
  globalStore t 2 d z.toNat (fun s => s.addrLit a lit) s
/-- LDS (R174). -/
def execLds (t : Tok) (d a b : SReg) (m : BitVec 3) (s : State) : Outcome :=
  anyWord .S t 1 (fun _ s =>
    s.ungated fun _ => s.addr2 a b fun x => s.writable d fun _ =>
      let n := accessSize m.toNat
      match s.scratch x .load n n with
      | .error tr => .trap tr s
      | .ok p => .done false (s.writeS d ⟨loadValue m (leNat (s.mem.scrBytes p.core p.off n)), s.mem.scrRangePoison p.core p.off n⟩)) s
/-- STS (R175). -/
def execSts (t : Tok) (d a b : SReg) (z : BitVec 2) (s : State) : Outcome :=
  anyWord .S t 1 (fun _ s =>
    s.ungated fun _ => s.addr2 a b fun x => s.withS d fun v =>
      let n := accessSize z.toNat
      match s.scratch x .store n n with
      | .error tr => .trap tr s
      | .ok p => .done false { s with mem := s.mem.scrWrite p.core p.off (natBytes n v.v.toNat) v.p }) s
/-- AMO (R176): at the die cache of the own package, or at the ingress of another, with its push applied once it has been sent (R101). -/
def execAmo (t : Tok) (d a b : SReg) (op : AmoOp) (s : State) : Outcome :=
  anyWord .S t 1 (fun push s =>
    s.ungated fun _ => s.clean a 1 fun x => s.withS b fun opd => s.withS d fun cmp => s.writable d fun _ =>
      match s.access x .atomic 8 with
      | (s, .error tr) => .trap tr s
      | (s, .ok g) =>
        if s.remote g then
          if opd.p && !s.mayExport then .trap (fretTrap 2 b.toNat 0 none) s
          else if op == .cas && cmp.p && !s.mayExport then .trap (fretTrap 2 d.toNat 0 none) s
          else .done true ((s.sendFor g (.atom op opd.v cmp.v opd.p cmp.p) d .none false).pushNow push)
        else if s.mailboxFret g 8 opd.p then .trap (fretTrap 2 b.toNat 0 none) s
        else if op == .cas && s.mailboxFret g 8 cmp.p then .trap (fretTrap 2 d.toNat 0 none) s
        else
          let (old, s) := s.siteAtomic g op opd cmp
          .done false (s.writeS d old)) s
/-- AMOS (R176): at the scratchpad bank. -/
def execAmos (t : Tok) (d a b : SReg) (op : AmoOp) (s : State) : Outcome :=
  anyWord .S t 1 (fun _ s =>
    s.ungated fun _ => s.clean a 1 fun x => s.withS b fun opd => s.withS d fun cmp => s.writable d fun _ =>
      match s.scratch x .atomic 8 8 with
      | .error tr => .trap tr s
      | .ok p =>
        let old : Dword := BitVec.ofNat 64 (leNat (s.mem.scrBytes p.core p.off 8))
        let pm := s.mem.scrRangePoison p.core p.off 8
        let r := amoNew op old opd.v cmp.v
        let s := if r.2 then { s with mem := s.mem.scrWrite p.core p.off (natBytes 8 r.1.toNat) (amoPoison op pm opd.p cmp.p) } else s
        .done false (s.writeS d ⟨old, pm⟩)) s
/-- PROMOTE (R165, R177). -/
def execPromote (t : Tok) (a b : SReg) (s : State) : Outcome := bankWord t a b .promote (fun m => m.promoteFor none) s
/-- DEMOTE (R165, R177). -/
def execDemote (t : Tok) (a b : SReg) (s : State) : Outcome := bankWord t a b .demote (fun m _ => m.demote) s
/-- RSTF (R312, R313): the bytes at the data's site, then the flag plus 1; both in one package. -/
def execRstf (t : Tok) (d a b : SReg) (z : BitVec 2) (s : State) : Outcome :=
  anyWord .S t 1 (fun _ s =>
    s.ungated fun _ => s.clean a 1 fun x => s.clean b 1 fun y => s.withS d fun v =>
      match s.access x .store (accessSize z.toNat) with
      | (s, .error tr) => .trap tr s
      | (s, .ok g) =>
        match s.access y .atomic 8 with
        | (s, .error tr) => .trap tr s
        | (s, .ok f) =>
          let bytes := natBytes (accessSize z.toNat) v.v.toNat
          if f.phys.pkg ≠ g.phys.pkg then .trap (memTrap causeAccess .atomic false 6 y) s
          else if s.remote g then
            if v.p && !s.mayExport then .trap (fretTrap 2 d.toNat 0 none) s
            else .done false (s.request g (.flagged bytes v.p (BitVec.ofNat 56 f.phys.pa) (BitVec.ofNat 7 f.phys.slot)) (.store s.here.1 s.here.2))
          else if s.mailboxFret g (accessSize z.toNat) v.p then .trap (fretTrap 2 d.toNat 0 none) s
          else
            let s := (s.atomicSite g).siteWrite g (accessSize z.toNat) v.v.toNat v.p
            let s := s.atomicSite f
            .done false (s.siteWrite f 8 ((s.siteRead f 8).1 + 1) false)) s

end Sys2Proof.Machine
end

