-- ==== Sys2Proof/Machine/Control.lean ====
section
/-!
DEFINITION. Control words at S and on a Harius thread (R115 to R125, but YIELD). The other streams pass them in Fetch.lean.
-/

namespace Sys2Proof.Machine

/-- The trap of a bad word: DETAIL holds its first word (R110). -/
def wordTrap (cause : Byte) (w : Word) : Trap := Trap.withDetail cause w.toNat
/-- The first word of an instruction. -/
def Instr.firstWord (i : Instr) : Word := (encode i).headD 0

/-- Runs a control word: S acts on a context, or a thread. -/
def ctlWord (onS onThread : State → Outcome) (s : State) : Outcome :=
  match s.agent with
  | .thread => onThread s
  | .stream .S => onS s
  | .stream _ => .fault .notOwner

/-- S takes a trap at its word. -/
def State.sTrap (s : State) (n : Nat) (t : Trap) : Outcome := .next (s.takeTrap n t)
/-- S waits. -/
def State.sWait (s : State) (code : BitVec 4) : Outcome := .next { s with ctx := s.ctx.stalled .S code }

/-- A control word that the core type does not execute (R32). -/
def illegalHere (i : Instr) (s : State) : Outcome := .next (s.takeTrap 1 (wordTrap causeIllegal (Instr.firstWord i)))

/-! Branches (R94, R118 to R120) -/

/-- An address after the word. -/
def nextPc (pc : Dword) (n : Nat) : Dword := pc + BitVec.ofNat 64 (4 * n)

/-- Appends a decision; it is held for the active streams other than S. -/
def Ctx.decide_ (c : Ctx) (taken : Bool) (target : Dword) : Ctx :=
  if c.lagging.isEmpty then c else { c with fifo := c.fifo ++ [⟨c.streams.s.pos, taken, target⟩] }

/-- What a branch decides: the register file and link that follow, or a trap, or a wait. -/
inductive Decide where
  | go (taken : Bool) (sf : ScalarFile)
  | trap (t : Trap)
  | wait (code : BitVec 4)
deriving DecidableEq, Repr

/-- Takes a decision (R94, R118, R119): on S it is recorded; a taken BRL writes b7 after the target is read. -/
def branchWord (r : BReg) (link : Bool) (counter : SReg) (test : State → Decide) : State → Outcome :=
  ctlWord
    (fun s =>
      if 256 ≤ s.ctx.fifo.length then s.sWait 3
      else match test s with
        | .wait code => s.sWait code
        | .trap t => s.sTrap 1 t
        | .go taken sf =>
          let c := s.ctx
          let pc := c.streams.s.pc
          let target := c.sf.getB r
          let sf := if link && taken then sf.setB 7 (nextPc pc 1) else sf
          let c := { c.decide_ taken target with hist := if counter = 0 then c.hist else c.histAfter counter, sf := sf }
          .next { s with ctx := c.onStream .S fun st =>
            { st with pc := if taken then target else nextPc pc 1, pos := st.pos + 1, stall := 0 } })
    (fun s =>
      match test s with
      | .wait _ => .next s
      | .trap t => .next (s.takeTrap 1 t)
      | .go taken sf =>
        let pc := s.thr.pc
        let target := s.thr.sf.getB r
        let sf := if link && taken then sf.setB 7 (nextPc pc 1) else sf
        .next { s with thr := { s.thr with sf := sf, pc := if taken then target else nextPc pc 1 } })

/-- No condition. -/
def testAlways (s : State) : Decide := .go true s.sf
/-- `.t` and `.f`: a poisoned predicate is a fret. -/
def testPred (p : PReg) (want : Bool) (s : State) : Decide :=
  let v := s.sf.getP p
  if v.p then .trap (fretTrap 0 p.toNat 1 none) else .go (v.v == want) s.sf
/-- `.dnz`: the counter falls by one, 0 to all ones; a poisoned counter is a fret and stays. -/
def testDnz (r : SReg) (s : State) : Decide :=
  if s.sWaits [r] then .wait 11
  else
    let v := s.sf.getS r
    if v.p then .trap (fretTrap 0 r.toNat 0 none)
    else match s.agent with
      | .stream _ => if s.ctx.versionsFull r then .wait 6 else .go (v.v - 1 != 0) (s.sf.setS r ⟨v.v - 1, false⟩)
      | .thread => .go (v.v - 1 != 0) (s.sf.setS r ⟨v.v - 1, false⟩)
/-- CHECK.s: the poison alone. -/
def testPoisonS (r : SReg) (s : State) : Decide := if s.sWaits [r] then .wait 11 else .go (s.sf.getS r).p s.sf
/-- CHECK.p. -/
def testPoisonP (p : PReg) (s : State) : Decide := .go (s.sf.getP p).p s.sf

/-- A write of a vector or mask register by an earlier V or M word has not completed (R120). -/
def Ctx.vmOwed (c : Ctx) (bit : Nat) : Bool :=
  c.streams.s.vmWrites.any fun w => w.2.2.getLsbD bit && !(c.stream w.2.1).inact && decide ((c.stream w.2.1).pos ≤ w.1)

/-- CHECK.v: any lane, whatever the mask, once earlier writes are done. -/
def testPoisonV (v : VReg) (s : State) : Decide :=
  if s.ctx.demand ≤ v.toNat then .trap (whyTrap 7)
  else if s.ctx.vmOwed v.toNat then .wait 5 else .go ((s.ctx.getV v).p != 0) s.sf
/-- CHECK.m. -/
def testPoisonM (m : MReg) (s : State) : Decide := if s.ctx.vmOwed (32 + m.toNat) then .wait 5 else .go (s.ctx.getM m).p s.sf

/-- NOP (R116). -/
def execNop (s : State) : Outcome :=
  ctlWord (fun s => .next { s with ctx := s.ctx.onStream .S (·.advance 1) }) (fun s => .next { s with thr := s.thr.advance 1 }) s

/-- A code address lies in the 8 GiB from the task's code address or the handler's entry (R115). -/
def inBound (base a : Dword) : Bool := decide (base.toNat ≤ a.toNat) && decide (a.toNat < base.toNat + 2 ^ 33)

/-- PREP (R117). -/
def execPrep (r : BReg) (lit : Word) (s : State) : Outcome :=
  let go := fun (pc base : Dword) (ok : Dword → State) =>
    let tgt := pc + lit.signExtend 64
    if lit.extractLsb' 0 2 != 0 then Host.Outcome.next (s.takeTrap 2 (wordTrap causeReserved (Instr.firstWord (.prep r lit))))
    else if !inBound base tgt then .next (s.takeTrap 2 (memTrap causeAccess .fetch false 7 tgt))
    else .next (ok tgt)
  ctlWord
    (fun s => go s.ctx.streams.s.pc s.ctx.code fun tgt =>
      { s with ctx := { s.ctx.onStream .S (·.advance 2) with sf := s.ctx.sf.setB r tgt } })
    (fun s => go s.thr.pc s.thr.entry fun tgt => { s with thr := { s.thr.advance 2 with sf := s.thr.sf.setB r tgt } }) s

/-- BR (R118). -/
def execBr (r : BReg) (s : State) : Outcome := branchWord r false 0 testAlways s
/-- BR.t (R118). -/
def execBrT (r : BReg) (p : PReg) (s : State) : Outcome := branchWord r false 0 (testPred p true) s
/-- BR.f (R118). -/
def execBrF (r : BReg) (p : PReg) (s : State) : Outcome := branchWord r false 0 (testPred p false) s
/-- BR.dnz (R118). -/
def execBrDnz (r : BReg) (k : SReg) (s : State) : Outcome := branchWord r false k (testDnz k) s
/-- BRL (R119). -/
def execBrl (r : BReg) (s : State) : Outcome := branchWord r true 0 testAlways s
/-- BRL.t (R119). -/
def execBrlT (r : BReg) (p : PReg) (s : State) : Outcome := branchWord r true 0 (testPred p true) s
/-- BRL.f (R119). -/
def execBrlF (r : BReg) (p : PReg) (s : State) : Outcome := branchWord r true 0 (testPred p false) s
/-- BRL.dnz (R119). -/
def execBrlDnz (r : BReg) (k : SReg) (s : State) : Outcome := branchWord r true k (testDnz k) s
/-- CHECK.s (R120). -/
def execCheckS (r : BReg) (k : SReg) (s : State) : Outcome := branchWord r false 0 (testPoisonS k) s
/-- CHECK.p (R120). -/
def execCheckP (r : BReg) (p : PReg) (s : State) : Outcome := branchWord r false 0 (testPoisonP p) s
/-- CHECK.v (R120): a thread has no vector registers (R36). -/
def execCheckV (r : BReg) (v : VReg) (s : State) : Outcome :=
  ctlWord (branchWord r false 0 (testPoisonV v)) (illegalHere (.checkV r v)) s
/-- CHECK.m (R120). -/
def execCheckM (r : BReg) (m : MReg) (s : State) : Outcome :=
  ctlWord (branchWord r false 0 (testPoisonM m)) (illegalHere (.checkM r m)) s

/-- A stream passes END: it becomes inactive and frees the entries it has not replayed (R91, R94, R121). -/
def Ctx.passEnd (c : Ctx) (e : StreamId) : Ctx :=
  let c := c.onStream e fun st => { st.advance 1 with inact := true }
  { c with fifo := c.fifo.filter fun d => c.lagging.any fun q => decide (q ≤ d.pos) }

/-- END (R121): S passes it first; a thread ends. -/
def execEndTask (s : State) : Outcome := ctlWord (fun s => .next { s with ctx := s.ctx.passEnd .S }) (fun s => .next (s.endThread none)) s

/-- TRAP (R123). -/
def execTrap (n : BitVec 4) (s : State) : Outcome :=
  let t := Trap.withDetail (BitVec.ofNat 8 (0x70 + n.toNat)) n.toNat
  ctlWord (fun s => s.sTrap 1 t) (fun s => .next (s.takeTrap 1 t)) s

/-- Every active stream stands at S's position, and every earlier word has completed (R122, R124). -/
def Ctx.met (c : Ctx) : Bool := c.lagging.all (· == c.streams.s.pos) && c.loads.isEmpty && c.banks.isEmpty && c.jobs.isEmpty

/-- All active streams pass a rendezvous together. -/
def Ctx.passAll (c : Ctx) : Ctx := c.activeStreams.foldl (fun c e => c.onStream e (·.advance 1)) c

/-- ALIGN (R124); a thread does not execute it. -/
def execAlign (s : State) : Outcome :=
  ctlWord (fun s => if s.ctx.met then .next { s with ctx := s.ctx.passAll } else s.sWait 4) (illegalHere .align) s

/-- The context that TARGET names (R348): resident on the named core and slot, the core on the named die. -/
def State.target (s : State) : Option Ctx :=
  let w := s.thr.target.toNat
  let core := natField w 0 9
  if natField w 9 2 ≠ core / 128 then none
  else s.ctxs.find? fun c => c.place == .resident && c.core == core && c.slot == natField w 11 2

/-- ERET (R125): resumes the trapped context that TARGET names and ends the thread. -/
def execEret (s : State) : Outcome :=
  ctlWord (illegalHere .eret)
    (fun s => match s.target with
      | none => .next (s.takeTrap 1 (whyTrap 12))
      | some c =>
        if c.regs.trapped then .next ((s.onCtx c.inst Ctx.resume).endThread none) else .next (s.takeTrap 1 (whyTrap 12))) s

end Sys2Proof.Machine
end

