-- ==== Sys2Proof/Machine/Xfer.lean ====
section
/-!
DEFINITION. Transfers after issue: how their pieces move (R252, R253), fault and suspend (R255, R256), complete (R254), and are
abandoned (R256). All act on the context in focus.
-/

namespace Sys2Proof.Machine

/-- A global or a scratch address that a transfer reads or writes. -/
structure Place where
  scr : Bool
  a : Dword
deriving DecidableEq, Repr

/-- A place n bytes on; sums wrap in 64 bits. -/
def Place.plus (p : Place) (n : Nat) : Place := { p with a := p.a + BitVec.ofNat 64 n }

namespace Xfer

/-- The stream that issued the transfer. -/
def eng (x : Xfer) : StreamId := if x.ref.w then .W else .L
/-- LEN. -/
def len (x : Xfer) : Nat := natField x.ctl.toNat 0 32
/-- Chunk size of GATH and SCAT (R265). -/
def csize (x : Xfer) : Nat := (natField x.ctl.toNat 16 8 + 1) * 32
/-- NIDX. -/
def nidx (x : Xfer) : Nat := natField x.ctl.toNat 0 16
/-- Rows of COPYA (R264). -/
def rows (x : Xfer) : Nat := natField x.ctl.toNat 6 12 + 1
/-- SS or GS, bit 32. -/
def sideScr (x : Xfer) : Bool := x.ctl.getLsbD 32
/-- DS. -/
def dstScr (x : Xfer) : Bool := x.ctl.getLsbD 33
/-- Elements of a shape. -/
def elements (sh : Shape) : Nat := (sh.dims.map (·.1)).foldl (· * ·) 1
/-- Bytes that the transfer moves (R251, R264). -/
def bytes (x : Xfer) : Nat :=
  match x.kind with
  | .copyt => (x.shape.map fun sh => elements sh * sh.esize).getD 0
  | .gath | .scat => x.nidx * x.csize
  | .copya => x.rows * 256
  | _ => x.len
/-- The first tile and the tiles that COPYA touches (R264): `dst` holds T. -/
def tiles (x : Xfer) : List Nat :=
  if x.kind = .copya then (upTo ((natField x.ctl.toNat 0 6 + x.rows - 1) / 64 + 1)).map (· + x.dst.toNat) else []
/-- The targets of COPYM, as package-wide core numbers (R263). -/
def targets (x : Xfer) (core : Nat) : List Nat :=
  ((upTo 128).filter fun i => x.ctl.getLsbD (48 + i % 16) && x.ctl.getLsbD (40 + i / 16)).map (· + core / 128 * 128)

end Xfer

/-- The form-01 address of an offset on a core (R150). -/
def form01 (core off : Nat) : Dword := BitVec.ofNat 64 (2 ^ 30 + core / 128 * 2 ^ 28 + core % 128 * 2 ^ 21 + off)

/-- COPYA holds a tile (R218, R264). -/
def Ctx.copyaHolds (c : Ctx) (t : Nat) : Bool := c.xfers.any fun x => x.tiles.contains t
/-- An M word holds the tile (R218): one at its program counter, or an array word under way. -/
def Ctx.mHolds (c : Ctx) (t : Nat) : Bool := c.held.any (fun h => h.toNat == t) || c.jobs.any fun j => j.tiles.contains t

/-! Context-held transfers -/

/-- The transfer of a reference in the context in focus. -/
def Ctx.xfer (c : Ctx) (r : XferRef) : Option Xfer := c.xfers.find? (·.ref == r)
/-- Replaces a transfer's record. -/
def Ctx.setXfer (c : Ctx) (x : Xfer) : Ctx := { c with xfers := c.xfers.map fun y => if y.ref = x.ref then x else y }
/-- The same in the state. -/
def State.setXfer (s : State) (x : Xfer) : State := { s with ctx := s.ctx.setXfer x }

/-! Faults (R255) -/

/-- An asynchronous fault: R159's fields with ID, CH and ASYNC, and the sector; for POISON_FRET the KIND alone. -/
def Xfer.trap (x : Xfer) (kind sector : Nat) (t : Trap) : Trap :=
  let low := if t.cause = causeFret then kind else t.detail.toNat % 4096
  { t with
    detail := BitVec.ofNat 64 (low + 2 ^ 12 + x.ref.ch.toNat * 2 ^ 13 + x.ref.id * 2 ^ 32)
    elem := none
    sect := some sector }

/-- What a suspended transfer keeps of its source: a word that sends reads a poisoned sector anew when it resumes. -/
def Xfer.keepBuf (x : Xfer) : Xfer :=
  if [XferKind.stwrite, .netwr, .copyf, .rred].contains x.kind then { x with buf := x.buf.filter fun y => y.2.all fun z => !z.2 } else x

/-- A transfer suspends; the context traps unless it is stopped already (R255, R256). -/
def State.suspend (s : State) (x : Xfer) (t : Trap) : State :=
  let s1 := s.setXfer { x.keepBuf with fault := some t }
  if s.ctx.isStopped then s1 else { s1 with ctx := s1.ctx.takeTrap (some x.eng) 0 t s.pkg.time }

/-! Reading and writing pieces -/

/-- Translates a global address of a transfer. `anyPkg` is set for the side that may lie in another package (R250). -/
def State.xferPhys (s : State) (a : Dword) (k : AKind) (anyPkg : Bool) : State × Except Trap Phys :=
  let bad := Except.error (memTrap causeAccess k false 1 a)
  match globalForm s.mem.own a with
  | none => (s, bad)
  | some va =>
    if !anyPkg && natField va.toNat 44 12 ≠ s.mem.own.toNat then (s, bad)
    else
      let t := translate s.mem s.fresh (some s.ctx.core) s.ctx.asid s.ctx.regs.root va k a
      let s := { s with mem := t.mem, fresh := t.fresh }
      match t.res with
      | .error tr => (s, .error tr)
      | .ok p => if !anyPkg && p.pkg ≠ s.mem.own.toNat then (s, bad) else (s, .ok p)

/-- Where a scratch address lies, its form checked before (R150). -/
def Ctx.scrAtPlace (c : Ctx) (a : Dword) : ScrPlace :=
  match scrForm a with
  | .own off => ⟨c.core, c.scrBase + off⟩
  | .package core off => ⟨core, off⟩
  | .bad => ⟨c.core, c.scrBase⟩

/-- Bytes of one sector of this package as a transfer reads them: at the die cache, after what the core's L1 held dirty in that line
when the transfer issued: `owed` (R252). -/
def State.readLocal (s : State) (owed : List Nat) (q : Phys) (n : Nat) : State × List (Byte × Bool) :=
  let m := (if owed.contains (q.off / 64) then s.mem.l1Clean s.ctx.core (q.off / 64) else s.mem).endLeases q.off n
  ({ s with mem := m }, m.hbmReadP (m.key q.slot) q.off n)

/-- Source data that a transfer holds under a key. -/
def Xfer.held (x : Xfer) (key : Nat) : Option (List (Byte × Bool)) := (x.buf.find? (·.1 == key)).map (·.2)

/-- Holds source data, with the last entry before it: what one destination piece needs. COPYT and GATH may need any sector again, and COPYA
and RLOADB drop what they have used themselves. -/
def Xfer.hold (x : Xfer) (key : Nat) (l : List (Byte × Bool)) : Xfer :=
  { x with buf := (key, l) :: (if [XferKind.copyt, .gath, .copya, .rloadb].contains x.kind then x.buf else x.buf.take 1) }

/-- Reads the sector of an address whose form is good: as it was before the transfer itself wrote it, where the transfer keeps that. -/
def State.readSector (s : State) (x : Xfer) (p : Place) : State × Except Trap (List (Byte × Bool)) :=
  if p.scr then
    let q := s.ctx.scrAtPlace p.a
    (s, .ok (s.mem.scrReadP q.core (q.off - p.a.toNat % 32) 32))
  else match s.xferPhys p.a .copyRead false with
    | (s, .error t) => (s, .error t)
    | (s, .ok q) => match x.under.find? fun y => y.1 == q.pa / 32 with
      | some y => (s, .ok y.2)
      | none =>
        let r := s.readLocal x.owed { q with pa := q.pa / 32 * 32 } 32
        (r.1, .ok r.2)

/-- Reads bytes of one sector, with poison; the sector is read once (R252). -/
def State.readPart (s : State) (x : Xfer) (p : Place) (n : Nat) : State × Except Trap (Xfer × List (Byte × Bool)) :=
  let key := p.a.toNat / 32
  let cut := fun (l : List (Byte × Bool)) => (l.drop (p.a.toNat % 32)).take n
  match x.held key with
  | some l => (s, .ok (x, cut l))
  | none => match s.readSector x p with
    | (s, .error t) => (s, .error t)
    | (s, .ok l) => (s, .ok (x.hold key l, cut l))

/-- Reads a list of ranges, sector by sector, and joins them. -/
def State.readParts (s : State) (x : Xfer) : List (Place × Nat) → State × Except Trap (Xfer × List (Byte × Bool))
  | [] => (s, .ok (x, []))
  | (p, n) :: rest =>
    match s.readPart x p n with
    | (s, .error t) => (s, .error t)
    | (s, .ok (x, l)) => match s.readParts x rest with
      | (s, .error t) => (s, .error t)
      | (s, .ok (x, m)) => (s, .ok (x, l ++ m))

/-- A range cut into sectors. -/
def Place.parts (p : Place) (n : Nat) : List (Place × Nat) := (runs p.a.toNat n).map fun r => (p.plus r.1, r.2)

/-- Reads a range. -/
def State.readRange (s : State) (x : Xfer) (p : Place) (n : Nat) : State × Except Trap (Xfer × List (Byte × Bool)) := s.readParts x (p.parts n)

/-- Reads what it can of a range: a part that faults is absent. -/
def State.tryRead (s : State) (x : Xfer) (p : Place) (n : Nat) : State × List (Option (Byte × Bool)) :=
  (p.parts n).foldl (fun (acc : State × List (Option (Byte × Bool))) (r : Place × Nat) =>
    match acc.1.readPart x r.1 r.2 with
    | (s, .ok (_, l)) => (s, acc.2 ++ l.map some)
    | (s, .error _) => (s, acc.2 ++ List.replicate r.2 none)) (s, [])

/-- A form-01 piece is dropped (R258): counted, and one entry for the transfer. -/
def State.dropForm01 (s : State) (x : Xfer) (a : Dword) : State × Xfer :=
  let s := s.countErr 40
  (if x.dropped then s else s.pushErr x.ref.c (errEntry 5 (a.toNat % 2 ^ 32)) false, { x with dropped := true })

/-! What the transfers of a channel have written (R254) -/

/-- Where scratchpads stand among the addresses of `Xfer.wrote`. -/
def scrBase60 : Nat := 2 ^ 60

/-- A channel. -/
def Ctx.chan (c : Ctx) (w : Bool) (ch : Chan) : Channel := if w then c.wch[ch.toNat]'ch.isLt else c.lch[ch.toNat]'ch.isLt

/-- The ranges that transfers of the same channel with a higher ID have written (R254). -/
def Ctx.landed (c : Ctx) (x : Xfer) : List (Nat × Nat) :=
  (c.xfers.filter fun y => y.ref.w == x.ref.w && y.ref.ch == x.ref.ch && decide (x.ref.id < y.ref.id)).flatMap (·.wrote) ++
    ((c.chan x.ref.w x.ref.ch).landed.filter fun y => decide (x.ref.id < y.1)).flatMap (·.2)

/-- The bytes, given by their offset from an address, that a transfer may still write: of a byte that a higher ID of its channel has
written the higher ID's value stands (R254) (DEDUCED, log 20). -/
def Ctx.notOver (c : Ctx) (x : Xfer) (at_ : Nat) (l : List (Nat × Byte)) : List (Nat × Byte) :=
  let kept := c.landed x
  if kept.isEmpty then l else l.filter fun y => kept.all fun r => !(decide (r.1 ≤ at_ + y.1) && decide (at_ + y.1 < r.1 + r.2))

/-- Adds a range that follows the last one to it. -/
def joinRange (l : List (Nat × Nat)) (a n : Nat) : List (Nat × Nat) :=
  match l with
  | (b, m) :: rest => if b + m = a then (b, m + n) :: rest else (a, n) :: l
  | [] => [(a, n)]

/-- A transfer has written bytes, given by their offset from an address. -/
def Xfer.note (x : Xfer) (at_ n : Nat) (l : List (Nat × Byte)) : Xfer :=
  { x with wrote := if l.length = n then joinRange x.wrote at_ n else l.map (fun y => (at_ + y.1, 1)) ++ x.wrote }

/-- The ranges of this package's HBM among those that a transfer has written. -/
def hbmRanges (own : Pkg) (l : List (Nat × Nat)) : List (Nat × Nat) :=
  l.filterMap fun r => if r.1 / 2 ^ 44 = own.toNat then some (r.1 % 2 ^ 44, r.2) else none

/-- Writes bytes of one sector, given as (offset from the place, byte), with one poison. The issuing core's L1 drops what it
holds of them, here and once more when the transfer completes (R252). A form-01 piece outside every allocation of the address space is dropped (R258). -/
def State.writePart (s : State) (x : Xfer) (p : Place) (l : List (Nat × Byte)) (poison : Bool) : State × Except Trap Xfer :=
  let n := (l.map fun y => y.1 + 1).foldl max 0
  if p.scr then
    let q := s.ctx.scrAtPlace p.a
    let put := fun (_ : Unit) =>
      let at_ := scrAt q.core q.off
      let l' := s.ctx.notOver x (scrBase60 + at_) l
      let m := if l'.isEmpty then s.mem else s.mem.writeScrSector (at_ / 32) (l'.map fun y => (at_ % 32 + y.1, y.2)) poison
      ({ s with mem := m }, Except.ok (x.note (scrBase60 + at_) n l))
    match scrForm p.a with
    | .package core off =>
      if allocHolds (allocs s.ctxs) s.ctx.asid core off n then put ()
      else
        let r := s.dropForm01 x p.a
        (r.1, .ok r.2)
    | _ => put ()
  else match s.xferPhys p.a .copyWrite false with
    | (s, .error t) => (s, .error t)
    | (s, .ok q) =>
      let l' := s.ctx.notOver x q.pa l
      let m := (s.mem.endLeases q.off n).l1DropAll s.ctx.core (l'.map fun y => (q.off + y.1, 1))
      let m := if l'.isEmpty then m else m.writeSector (s.mem.key q.slot) (q.off / 32) (l'.map fun y => (q.off % 32 + y.1, y.2)) poison
      ({ s with mem := m }, .ok (x.note q.pa n l))

/-- Consecutive bytes with their offsets. -/
def numbered (l : List (Byte × Bool)) : List (Nat × Byte) := (l.map fun y => y.1).zipIdx.map fun y => (y.2, y.1)

/-- Writes consecutive bytes of one sector. -/
def State.writeRun (s : State) (x : Xfer) (p : Place) (l : List (Byte × Bool)) : State × Except Trap Xfer :=
  s.writePart x p (numbered l) (l.any fun y => y.2)

/-- The last byte given for each offset (R262: the later visit stands). -/
def lastBytes (l : List (Nat × Byte)) : List (Nat × Byte) :=
  (upTo 32).filterMap fun i => (l.reverse.find? fun y => y.1 == i).map fun y => (i, y.2)

/-! The geometry of each word -/

/-- The address offset of visit n (R262). -/
def shapeOffset : List (Nat × Dword) → Nat → Dword
  | [], _ => 0
  | (e, st) :: ds, n => BitVec.ofNat 64 (n % e) * st + shapeOffset ds (n / e)

/-- The rotated offset of dense position `pos` (R262), a position within one rotated 64-byte unit. -/
def Shape.denseOff (sh : Shape) (base : Dword) (pos : Nat) : Nat :=
  let u := natField base.toNat 0 21 + pos
  if sh.swz = 0 then u else rotate sh.swz u (pos / (64 * sh.lpitch))

/-- The scratch address of dense position `pos` (R262). -/
def Shape.dense (sh : Shape) (base : Dword) (pos : Nat) : Dword :=
  base - BitVec.ofNat 64 (natField base.toNat 0 21) + BitVec.ofNat 64 (sh.denseOff base pos)

/-- The elements that dense bytes [pos, pos + n) belong to: element, first byte, count. -/
def denseElems (esize pos n : Nat) : List (Nat × Nat × Nat) :=
  if n = 0 then []
  else (upTo ((pos + n - 1) / esize - pos / esize + 1)).map fun i =>
    let e := pos / esize + i
    let lo := max pos (e * esize)
    (e, lo - e * esize, min (pos + n) ((e + 1) * esize) - lo)

/-- The dense parts that hold element e of COPYT.out (DEDUCED, log 19). -/
def Shape.elemParts (sh : Shape) (base : Dword) (e : Nat) : List (Place × Nat) :=
  let u := natField base.toNat 0 21 + e * sh.esize
  (runs u sh.esize).map fun r => (⟨true, sh.dense base (e * sh.esize + r.1)⟩, r.2)

/-- How many elements from e on, at most `fuel`, lie in the sector of element e (a piece of COPYT.out). -/
def sameSector (sh : Shape) (base : Dword) (e total : Nat) : Nat → Nat
  | 0 => 1
  | fuel + 1 =>
    let n := sameSector sh base e total fuel
    if n = fuel + 1 ∧ e + n < total ∧
        (base + shapeOffset sh.dims (e + n)).toNat / 32 = (base + shapeOffset sh.dims e).toNat / 32 then n + 1 else n

/-- Index i of a GATH or SCAT (R265): a poisoned one is a fret. -/
def State.index (s : State) (x : Xfer) (i : Nat) : Except Trap Nat :=
  let a := BitVec.ofNat 64 (natField x.ctl.toNat 35 21 + 4 * i)
  let p := s.ctx.scrAtPlace a
  if s.mem.scrRangePoison p.core p.off 4 then .error (fretTrap 1 0 7 (some a)) else .ok (leNat (s.mem.scrBytes p.core p.off 4))

/-- The address of chunk i on the indexed side (R265), or the fret of its index. -/
def State.chunkAddr (s : State) (x : Xfer) (base : Dword) (i : Nat) : Except Trap Dword :=
  (s.index x i).map fun j => base + BitVec.ofNat 64 (j * x.csize)

/-- The allocation of the address space that holds the byte of a form-01 base (R150). -/
def State.baseAlloc (s : State) (core off : Nat) : Option Alloc :=
  (allocs s.ctxs).find? fun al => al.asid == s.ctx.asid && al.core == core && decide (al.base ≤ off) && decide (off < al.base + al.bytes)

/-- Whether a chunk at address a lies where its base lets it (R265): a global chunk wholly in the package of its base, scratch within the
base's allocation; of a form-01 base, in the allocation that holds the base, else R150's violation (DEDUCED, log 19). -/
def State.chunkAt (s : State) (x : Xfer) (base a : Dword) (k : AKind) : Option Trap :=
  let reach := (a - base).toNat + x.csize
  let bound := some (memTrap causeBound k true 0 a)
  if x.sideScr then match scrForm base with
    | .own off => if s.ctx.scrBytes < off + reach then bound else none
    | .package core off => match s.baseAlloc core off with
      | some al => if al.base + al.bytes < off + reach then bound else none
      | none => some (memTrap causeAccess k true 5 a)
    | .bad => some (memTrap causeAccess k true 2 a)
  else match globalForm s.mem.own a with
    | none => some (memTrap causeAccess k false 6 a)
    | some va =>
      if natField va.toNat 44 12 = s.mem.own.toNat ∧ natField va.toNat 0 44 + x.csize ≤ 2 ^ 44 then none
      else some (memTrap causeAccess k false 6 a)

/-- The place of chunk i on the indexed side, or its fault (R265). -/
def State.chunkPlace (s : State) (x : Xfer) (base : Dword) (k : AKind) (i : Nat) : Except Trap Place :=
  match s.chunkAddr x base i with
  | .error t => .error t
  | .ok a => match s.chunkAt x base a k with
    | some t => .error t
    | none => .ok ⟨x.sideScr, a⟩

/-- Translates a range of this package that is about to be used, page by page: the first fault. -/
def State.translateAll (s : State) (p : Place) (n : Nat) (k : AKind) : State × Option Trap :=
  if p.scr then (s, none)
  else (p.parts n).foldl (fun (acc : State × Option Trap) q =>
    if acc.2.isSome then acc
    else match acc.1.xferPhys q.1.a k false with
      | (s, .error t) => (s, some t)
      | (s, .ok _) => (s, none)) (s, none)

/-! Moving one piece -/

/-- What moving a piece ends in: the state, and the transfer as it now stands or its fault with the record to resume from. -/
abbrev Moved := State × Except (Trap × Xfer) Xfer

/-- A fault at a read of a transfer. -/
def readFault (x : Xfer) (sector : Nat) (t : Trap) : Trap × Xfer := (x.trap 5 sector t, { x with done := sector })
/-- A fault at a write of a transfer. -/
def writeFault (x : Xfer) (sector : Nat) (t : Trap) : Trap × Xfer := (x.trap 6 sector t, { x with done := sector })

/-- Reads a piece's sources, then writes it at its place. -/
def State.movePart (s : State) (x : Xfer) (src : List (Place × Nat)) (dst : Place) : Moved :=
  match s.readParts x src with
  | (s, .error t) => (s, .error (readFault x x.done t))
  | (s, .ok (x, l)) => match s.writeRun x dst l with
    | (s, .error t) => (s, .error (writeFault x x.done t))
    | (s, .ok x) => (s, .ok { x with done := x.done + 1 })

/-- The source bytes of a COPY at [off, off + n): as they were read at the first move, and those that faulted then read now. -/
def State.snapped (s : State) (x : Xfer) (src : Place) (off n : Nat) : State × Except Trap (Xfer × List (Byte × Bool)) :=
  let l := (x.snap.drop off).take n
  match l.mapM id with
  | some l => (s, .ok (x, l))
  | none => match s.readRange x (src.plus off) n with
    | (s, .error t) => (s, .error t)
    | (s, .ok (x, m)) => (s, .ok (x, l.zipWith (fun o y => o.getD y) m))

/-- Keeps the sector that a COPY is about to write while some of its source has yet to be read, since that source may lie there (R252). -/
def State.keepUnder (s : State) (x : Xfer) (p : Place) : State × Xfer :=
  if x.snap.all fun y => y.isSome then (s, x)
  else match s.xferPhys p.a .copyWrite false with
    | (s, .error _) => (s, x)
    | (s, .ok q) =>
      if x.under.any fun y => y.1 == q.pa / 32 then (s, x)
      else
        let r := s.readLocal x.owed { q with pa := q.pa / 32 * 32 } 32
        (r.1, { x with under := (q.pa / 32, r.2) :: x.under })

/-- COPY (R252, R259). Where both sides lie in one space the source is read whole at the first move; bytes that fault then are read when they are
needed, as they were before the transfer wrote over them (DEDUCED, log 19). -/
def State.moveCopy (s : State) (x : Xfer) : Moved :=
  let src : Place := ⟨x.sideScr, x.src⟩
  let dst : Place := ⟨x.dstScr, x.dst⟩
  let r := runAt x.dst.toNat x.len x.done
  if x.sideScr != x.dstScr then s.movePart x ((src.plus r.1).parts r.2) (dst.plus r.1)
  else
    let (s, x) := if x.snap.isEmpty then
        let t := s.tryRead x src x.len
        (t.1, { x with snap := t.2 })
      else (s, x)
    match s.snapped x src r.1 r.2 with
    | (s, .error t) => (s, .error (readFault x x.done t))
    | (s, .ok (x, l)) =>
      let k := s.keepUnder x (dst.plus r.1)
      match k.1.writeRun k.2 (dst.plus r.1) l with
      | (s, .error t) => (s, .error (writeFault k.2 k.2.done t))
      | (s, .ok x) => (s, .ok { x with done := x.done + 1 })

/-- COPYT.in (R262). -/
def State.moveShapeIn (s : State) (x : Xfer) (sh : Shape) : Moved :=
  let b := natField x.dst.toNat 0 21
  let r := runAt b x.bytes x.done
  let src := (denseElems sh.esize r.1 r.2).map fun e =>
    ((⟨x.sideScr, x.src + shapeOffset sh.dims e.1 + BitVec.ofNat 64 e.2.1⟩ : Place), e.2.2)
  s.movePart x src ⟨true, sh.dense x.dst r.1⟩

/-- The visits of COPYT.out from element e on that lie in one sector: how many, the sector, and the offsets there of their bytes in visit
order. -/
def Shape.visit (sh : Shape) (base : Dword) (e : Nat) : Nat × Dword × List Nat :=
  let n := sameSector sh base e (Xfer.elements sh) 31
  let at_ := (base + shapeOffset sh.dims e).toNat / 32 * 32
  (n, BitVec.ofNat 64 at_, (upTo n).flatMap fun i => (upTo sh.esize).map (· + ((base + shapeOffset sh.dims (e + i)).toNat - at_)))

/-- COPYT.out (R262): a piece is a run of visits to one sector (DEDUCED, log 19). -/
def State.moveShapeOut (s : State) (x : Xfer) (sh : Shape) : Moved :=
  let total := Xfer.elements sh
  let (n, at_, offs) := sh.visit x.dst x.elem
  match s.readParts x (((upTo n).map (· + x.elem)).flatMap (sh.elemParts x.src)) with
  | (s, .error t) => (s, .error (readFault x x.done t))
  | (s, .ok (x, l)) =>
    match s.writePart x ⟨x.sideScr, at_⟩ (lastBytes (offs.zip (l.map fun y => y.1))) (l.any fun y => y.2) with
    | (s, .error t) => (s, .error (writeFault x x.done t))
    | (s, .ok x) => (s, .ok { x with done := x.done + 1, elem := x.elem + n, pieces := if total ≤ x.elem + n then x.done + 1 else x.pieces })

/-- COPYM (R263): a piece to one target; `elem` counts the targets that have the piece (DESIGN CHOICE, log 57). -/
def State.moveMulti (s : State) (x : Xfer) : Moved :=
  let off := natField x.dst.toNat 0 21
  let r := runAt off x.len x.done
  let src : Place := ⟨x.sideScr, x.src⟩
  let cores := x.targets s.ctx.core
  match s.readParts x ((src.plus r.1).parts r.2) with
  | (s, .error t) => (s, .error (readFault x x.done t))
  | (s, .ok (x, l)) => match s.writeRun x ⟨true, form01 (cores.getD x.elem 0) (off + r.1)⟩ l with
    | (s, .error t) => (s, .error (writeFault x x.done t))
    | (s, .ok x) => (s, .ok (if x.elem + 1 < cores.length then { x with elem := x.elem + 1 } else { x with done := x.done + 1, elem := 0 }))

/-- One source piece added into a row of a tile (R264, R317's fp32 add): 8 elements from column c. -/
def addPiece (t : Tile) (row c : Nat) (int : Bool) (l : List (Byte × Bool)) : Tile :=
  let src := fun j => leNat (((l.drop (4 * j)).take 4).map fun y => y.1)
  let ty := if int then RedTy.int32 else RedTy.fp32
  let v := (upTo 8).foldl (fun (v : BitVec 131072) j =>
    let i := row * 64 + c + j
    setElem 32 v i (BitVec.ofNat 32 (redElem ty .add (elem 32 v i).toNat (src j)))) t.v
  ⟨v, if l.any fun y => y.2 then t.p ||| BitVec.ofNat 64 (2 ^ row) else t.p⟩

/-- The tile and the row there of a piece of COPYA (R264). -/
def Xfer.rowOf (x : Xfer) (k : Nat) : Nat × Nat :=
  let row := natField x.ctl.toNat 0 6 + k / 8
  (x.dst.toNat + row / 64, row % 64)

/-- COPYA adds the pieces that it holds into their row, all at once (R218, R264). -/
def State.addHeld (s : State) (x : Xfer) : State × Xfer :=
  let c := x.buf.reverse.foldl (fun (c : Ctx) y =>
    let r := x.rowOf y.1
    c.setA r.1 (addPiece (c.getA r.1) r.2 (y.1 % 8 * 8) (x.ctl.getLsbD 20) y.2)) s.ctx
  ({ s with ctx := c }, { x with buf := [] })

/-- COPYA (R264): a source piece is read; a row is added when it has been read whole, so that no word reads it partly added (R218). The first
unfinished piece of a fault is the first of its row (R255). -/
def State.moveAdd (s : State) (x : Xfer) : Moved :=
  match s.readSector x ⟨x.sideScr, x.src + BitVec.ofNat 64 (32 * x.done)⟩ with
  | (s, .error t) => (s, .error (x.trap 5 (x.done / 8 * 8) t, x))
  | (s, .ok l) =>
    let x := { x.hold x.done l with done := x.done + 1 }
    if x.done % 8 = 0 then
      let r := s.addHeld x
      (r.1, .ok r.2)
    else (s, .ok x)

/-- Under which key a GATH holds chunk i, beside the sectors of its source. -/
def chunkKey (i : Nat) : Nat := 2 ^ 64 + i

/-- A chunk of GATH (R265): read whole before any piece of it is written, so that a fault there leaves none of them written (R255). The chunks
read before it are needed no more, but their sectors may be (R252). -/
def State.readChunk (s : State) (x : Xfer) (i : Nat) : State × Except Trap (Xfer × List (Byte × Bool)) :=
  match x.held (chunkKey i) with
  | some l => (s, .ok (x, l))
  | none => match s.chunkPlace x x.src .copyRead i with
    | .error t => (s, .error t)
    | .ok p => match s.readRange x p x.csize with
      | (s, .error t) => (s, .error t)
      | (s, .ok (y, l)) => (s, .ok ({ y with buf := y.buf.filter fun b => decide (b.1 < 2 ^ 64) || b.1 + 1 == chunkKey i }.hold (chunkKey i) l, l))

/-- GATH (R265): a piece of the dense side, from one or two chunks. -/
def State.moveGather (s : State) (x : Xfer) : Moved :=
  let c := x.csize
  let r := runAt x.dst.toNat x.bytes x.done
  let is := (upTo ((r.1 + r.2 - 1) / c - r.1 / c + 1)).map (· + r.1 / c)
  let got := is.foldl (fun (acc : State × Except Trap (Xfer × List (Byte × Bool))) i => match acc with
    | (s, .error t) => (s, .error t)
    | (s, .ok (x, l)) => match s.readChunk x i with
      | (s, .error t) => (s, .error t)
      | (s, .ok (x, m)) =>
        let lo := max r.1 (i * c) - i * c
        (s, .ok (x, l ++ (m.drop lo).take (min (r.1 + r.2) ((i + 1) * c) - i * c - lo)))) (s, .ok (x, []))
  match got with
  | (s, .error t) => (s, .error (readFault x x.done t))
  | (s, .ok (x, l)) => match s.writeRun x ⟨true, x.dst + BitVec.ofNat 64 r.1⟩ l with
    | (s, .error t) => (s, .error (writeFault x x.done t))
    | (s, .ok x) => (s, .ok { x with done := x.done + 1 })

/-- Pieces of a SCAT chunk: its sectors. -/
def Xfer.scatPer (x : Xfer) : Nat := x.csize / 32 + (if x.dst.toNat % 32 = 0 then 0 else 1)

/-- The place of the SCAT chunk under way; at its first piece its index is read and all of it is translated, so that a fault there leaves no
piece of it written (R255, R265). -/
def State.scatterPlace (s : State) (x : Xfer) (i : Nat) : State × Except Trap Place :=
  match x.chunk with
  | some a => (s, .ok ⟨x.sideScr, a⟩)
  | none => match s.chunkPlace x x.dst .copyWrite i with
    | .error t => (s, .error t)
    | .ok p => match s.translateAll p x.csize .copyWrite with
      | (s, some t) => (s, .error t)
      | (s, none) => (s, .ok p)

/-- SCAT (R265): a sector of chunk i. `elem` counts the pieces written; `done` is the dense sector of R265. A page of the chunk that is
unmapped between two of its pieces faults at the dense sector not yet written (DESIGN CHOICE, log 57). -/
def State.moveScatter (s : State) (x : Xfer) : Moved :=
  let i := x.elem / x.scatPer
  match s.scatterPlace x i with
  | (s, .error t) =>
    let sec := i * x.csize / 32
    (s, .error (x.trap (if t.cause = causeFret then (if (s.index x i).isOk then 6 else 5) else 6) sec t, { x with done := sec }))
  | (s, .ok p) =>
    let x := { x with chunk := some p.a }
    let r := runAt p.a.toNat x.csize (x.elem % x.scatPer)
    let sec := (i * x.csize + r.1) / 32
    match s.readParts x ((Place.mk true (x.src + BitVec.ofNat 64 (i * x.csize + r.1))).parts r.2) with
    | (s, .error t) => (s, .error (readFault x sec t))
    | (s, .ok (x, l)) => match s.writeRun x (p.plus r.1) l with
      | (s, .error t) => (s, .error (writeFault x sec t))
      | (s, .ok x) =>
        let e := x.elem + 1
        (s, .ok (if e % x.scatPer = 0 then { x with elem := e, done := e / x.scatPer * x.csize / 32, chunk := none } else { x with elem := e }))

/-- The parts of RLOADB's source, one to a sector, that bytes [off, off + n) of it need. -/
def Xfer.partsOf (x : Xfer) (off n : Nat) : List Nat :=
  let m := x.src.toNat % 32
  (upTo ((m + off + n - 1) / 32 - (m + off) / 32 + 1)).map (· + (m + off) / 32)

/-- RLOADB asks for the next part of its source, `elem`: read here, or requested of another package. A fault is met once the piece that
needs the part is the next to be written (R255). -/
def State.askPart (s : State) (x : Xfer) (need : List Nat) : Moved :=
  let r := runAt x.src.toNat x.len x.elem
  let a := x.src + BitVec.ofNat 64 r.1
  if runCount x.src.toNat x.len ≤ x.elem then (s, .ok x)
  else match s.xferPhys a .copyRead true with
    | (s, .error t) => if need.contains x.elem then (s, .error (readFault x x.done t)) else (s, .ok x)
    | (s, .ok p) =>
      if p.pkg = s.mem.own.toNat then
        let l := s.readLocal x.owed p r.2
        (l.1, .ok { x.hold x.elem l.2 with elem := x.elem + 1 })
      else
        let va := (globalForm s.mem.own a).getD 0
        (s.request ⟨va, p⟩ (.read r.2) (.rloadb x.ref x.elem), .ok { x with waiting := x.waiting ++ [x.elem], elem := x.elem + 1 })

/-- RLOADB (R267): a piece is written, whole, once all its source has come; until then more of the source is asked for. -/
def State.moveRemoteLoad (s : State) (x : Xfer) : Moved :=
  let r := runAt x.dst.toNat x.len x.done
  let need := x.partsOf r.1 r.2
  match need.mapM x.held with
  | none => s.askPart x need
  | some ls =>
    let first := (runAt x.src.toNat x.len (need.headD 0)).1
    match s.writeRun x ⟨x.dstScr, x.dst + BitVec.ofNat 64 r.1⟩ ((ls.flatten.drop (r.1 - first)).take r.2) with
    | (s, .error t) => (s, .error (writeFault x x.done t))
    | (s, .ok x) => (s, .ok { x with done := x.done + 1, buf := x.buf.filter fun y => decide (need.getLastD 0 ≤ y.1) })

/-- The bytes of an RLOADB part arrive (R267, R311). -/
def Xfer.landPart (x : Xfer) (part : Nat) (l : List (Byte × Bool)) : Xfer := { x.hold part l with waiting := x.waiting.erase part }

/-- COPYF (R315): pieces to the own package are written, others sent. `force` lets poison cross on abandonment. -/
def State.sendPiece (s : State) (x : Xfer) (k : Nat) (l : List (Byte × Bool)) (force : Bool) : State × Except Trap Xfer :=
  let r := runAt x.dst.toNat x.len k
  let a := x.dst + BitVec.ofNat 64 r.1
  match s.xferPhys a .copyWrite true with
  | (s, .error t) => (s, .error t)
  | (s, .ok p) =>
    if p.pkg = s.mem.own.toNat then s.writeRun x ⟨false, a⟩ l
    else if (l.any fun y => y.2) && !x.exportOk && !force then (s, .error (fretTrap 2 0 7 (some a)))
    else
      let va := (globalForm s.mem.own a).getD 0
      let bytes := s.ctx.notOver x p.pa (numbered l)
      let poison := l.any fun y => y.2
      let kind : ReqKind := if bytes.length = l.length then .write (l.map fun y => y.1) poison else .masked (bytes.map fun y => (y.1, [y.2])) poison
      let x := x.note p.pa l.length (numbered l)
      if bytes.isEmpty then (s, .ok x)
      else (s.request ⟨va, p⟩ kind (.copyf x.ref k), .ok { x with waiting := x.waiting ++ [k] })

/-- COPYF's next piece. -/
def State.moveFlagged (s : State) (x : Xfer) : Moved :=
  let r := runAt x.dst.toNat x.len x.done
  match s.readParts x ((Place.mk x.sideScr (x.src + BitVec.ofNat 64 r.1)).parts r.2) with
  | (s, .error t) => (s, .error (readFault x x.done t))
  | (s, .ok (x, l)) => match s.sendPiece x x.done l false with
    | (s, .error t) => (s, .error (writeFault x x.done t))
    | (s, .ok x) => (s, .ok { x with done := x.done + 1 })

/-! The reduction unit (R317, R318) -/

/-- A piece leaves its reduction unit. -/
def State.rredRemove (s : State) (id : Nat) : State := { s with har := { s.har with rred := s.har.rred.filter (·.id != id) } }

/-- The virtual root of an address space: that of the issuing context while it exists, else the table's. -/
def State.rootOf (s : State) (inst : Nat) (asid : Asid) : BitVec 43 := ((s.findCtx inst).map fun c => c.regs.root).getD (s.mem.asidRoot s.pkg asid)

/-- A piece of RRED is dropped (R318): counted and logged; the first of its word enters the issuer's error queue (R321). -/
def State.rredDrop (s : State) (p : RredPiece) : State :=
  let va := ((globalForm s.mem.own p.addr).getD 0).toNat
  let s := (s.rredRemove p.id).countErr 39
  let id := ((s.findCtx p.ref.c).map fun c => c.id).getD 0
  let s : State := { s with mem := s.mem.errorLog s.pkg p.asid (errorRecord (errEntry 8 va) id s.pkg.time) }
  let told := (s.findCtx p.ref.c).any fun c => c.xfers.any fun x => x.ref == p.ref && x.dropped
  let s := if told then s else s.pushErr p.ref.c (errEntry 8 va) false
  s.onCtx p.ref.c fun c => { c with xfers := c.xfers.map fun x => if x.ref = p.ref then { x with dropped := true } else x }

/-- Changes a piece in its unit. -/
def State.onRred (s : State) (id : Nat) (f : RredPiece → RredPiece) : State :=
  { s with har := { s.har with rred := s.har.rred.map fun q => if q.id = id then f q else q } }

/-- A piece does not translate (R318): the first time it goes to the memory manager, with DETAIL in R159's form (R346), for a poisoned entry
too (R153); the second time it is dropped. -/
def State.rredFault (s : State) (p : RredPiece) (t : Trap) : State :=
  if p.faults = 0 then
    let d := if t.cause = causeFret then memDetail .copyWrite 0 false false 0 else t.detail
    let s := s.onRred p.id fun q => { q with faults := 1 }
    { s with har := { s.har with queue := s.har.queue ++
      [⟨5, p.asid, BitVec.ofNat 64 (p.core / 128), p.addr, d, 0, s.pkg.time, none, some p.id⟩] } }
  else s.rredDrop p

/-- Where a piece goes: its translation in the address space of its word, with the fret of poison that may not leave the package (R317). -/
def State.rredPhys (s : State) (p : RredPiece) : State × Except Trap (BitVec 56 × Phys) :=
  match globalForm s.mem.own p.addr with
  | none => (s, .error (memTrap causeAccess .copyWrite false 1 p.addr))
  | some va =>
    let t := translate s.mem s.fresh (some p.core) p.asid (s.rootOf p.ref.c p.asid) va .copyWrite p.addr
    ({ s with mem := t.mem, fresh := t.fresh }, t.res.map fun q => (va, q))

/-- Poison that may not leave the package would leave it with the piece (R317, R332). -/
def RredPiece.frets (p : RredPiece) (own : Pkg) (q : Phys) : Bool := p.poison && !p.exportOk && q.pkg != own.toNat

/-- The unit tries a piece (R318): applied, sent, held where it frets, or reported to the memory manager. -/
def State.rredTry (s : State) (p : RredPiece) : State :=
  match s.rredPhys p with
  | (s, .error t) => s.rredFault p t
  | (s, .ok (va, q)) =>
    if q.pkg = s.mem.own.toNat then
      let m := (s.mem.endLeases q.off p.data.length).l1DropFor p.core q.off p.data.length
      let old := m.hbmReadP (m.key q.slot) q.off p.data.length
      let new := redBytes p.ty p.op (old.map fun y => y.1) p.data
      let s : State := { s with mem := m.writeSector (m.key q.slot) (q.off / 32) (bytesIn (q.off / 32) q.off new) (p.poison || old.any fun y => y.2) }
      let note := fun (c : Ctx) => { c with xfers := c.xfers.map fun x => if x.ref = p.ref then { x with wrote := joinRange x.wrote q.pa p.data.length } else x }
      (s.onCtx p.ref.c note).rredRemove p.id
    else if p.frets s.mem.own q then
      if (s.findCtx p.ref.c).any fun c => c.xfers.any fun x => x.ref == p.ref then s.onRred p.id fun r => { r with fretted := true }
      else s.rredDrop p
    else (s.onRred p.id fun r => { r with sent := true, fretted := false }).request ⟨va, q⟩ (.reduce p.ty p.op p.data p.poison) (.rred p.id)

/-- Piece k of RRED, as the unit takes it. -/
def State.rredPiece (s : State) (x : Xfer) (k : Nat) (l : List (Byte × Bool)) : Option RredPiece :=
  (redOf (natField x.ctl.toNat 38 2) (natField x.ctl.toNat 36 2)).map fun o =>
    ⟨s.net.nextId, x.ref, k, x.exportOk, false, s.ctx.asid, s.ctx.core, x.dst + BitVec.ofNat 64 (runAt x.dst.toNat x.len k).1, o.1, o.2,
      l.map fun y => y.1, l.any fun y => y.2, false, 0⟩

/-- The unit takes a piece of RRED. -/
def State.handPiece (s : State) (p : RredPiece) : State :=
  ({ s with net := { s.net with nextId := s.net.nextId + 1 }, har := { s.har with rred := s.har.rred ++ [p] } } : State).rredTry p

/-- RRED's next piece (R317): poison bound for another package is a fret unless EXPORT allows it. -/
def State.moveReduce (s : State) (x : Xfer) : Moved :=
  let r := runAt x.dst.toNat x.len x.done
  match s.readParts x ((Place.mk x.sideScr (x.src + BitVec.ofNat 64 r.1)).parts r.2) with
  | (s, .error t) => (s, .error (readFault x x.done t))
  | (s, .ok (x, l)) => match s.rredPiece x x.done l with
    | none => (s, .ok { x with done := x.done + 1 })
    | some p =>
      let far := (globalForm s.mem.own p.addr).any fun va => natField va.toNat 44 12 != s.mem.own.toNat
      let r := if p.poison && !p.exportOk then s.rredPhys p else (s, .error (Trap.plain causePage))
      let frets := p.poison && !p.exportOk && (far || (match r.2 with
        | .ok q => p.frets s.mem.own q.2
        | .error _ => false))
      if frets then (r.1, .error (writeFault x x.done (fretTrap 2 0 7 (some p.addr))))
      else (r.1.handPiece p, .ok { x with done := x.done + 1 })

/-- A piece of the transfer's that frets in its unit, the first by position (R317). -/
def State.frettedPiece (s : State) (x : Xfer) : Option RredPiece :=
  ((s.har.rred.filter fun p => p.ref == x.ref && p.fretted).foldl (fun (best : Option RredPiece) p => match best with
    | some b => if p.k < b.k then some p else best
    | none => some p) none)

/-! Storage and network transfers (R268, R269) -/

/-- An object stands on a connection. -/
def StoreObj.onConn (o : StoreObj) (c : Nat) : Bool := o.path == 256 + c
/-- A registered storage object of an address space, whose connection, where it stands on one, is registered too (R402). -/
def State.object (s : State) (asid : Asid) (obj : Nat) : Option StoreObj :=
  s.net.objects.find? fun o => o.asid == asid && o.obj == obj && o.live && (decide (o.path < 256) || s.net.conns.any fun c => o.onConn c.index && c.live)
/-- A registered endpoint of an address space. -/
def State.endpoint (s : State) (asid : Asid) (i : Nat) : Option Endpoint := s.net.endpoints.find? fun e => e.asid == asid && e.index == i && e.live

/-- Bytes of a storage block. -/
def StoreObj.block (o : StoreObj) : Nat := if o.blk4k then 4096 else 512

/-- Harius's checks of a storage transfer: object, permission, extent, block alignment (R268, R391). -/
def State.storeCheck (s : State) (x : Xfer) (reg : Dword) : Except Trap StoreObj :=
  let off := natField reg.toNat 0 48
  let kind := if x.kind = .stread then AKind.copyRead else AKind.copyWrite
  let bad := Except.error (memTrap causeAccess kind false 8 reg)
  match s.object s.ctx.asid (natField reg.toNat 48 16) with
  | none => bad
  | some o =>
    if o.nlb.toNat * o.block < off + x.len then bad
    else if off % o.block ≠ 0 ∨ x.len % o.block ≠ 0 then .error (memTrap causeAlign kind false 0 reg)
    else if !o.perms.getLsbD (if x.kind = .stread then 0 else 1) then .error (memTrap causeAccess kind false 0 reg)
    else .ok o

/-- Sends an NVMe command for bytes [off, off + len) of a transfer (R396), on the path of its object. -/
def State.sendNvme (s : State) (x : Xfer) (o : StoreObj) (base off len : Nat) (data : List Byte) : State :=
  let id := s.net.nextId
  let lba := o.slba.toNat + (base + off) / o.block
  let w := x.kind == .stwrite
  let fua := x.ctl.getLsbD 34
  { s with
    net := { s.net with
      nextId := id + 1
      nvme := s.net.nvme ++ [⟨id, x.ref, s.ctx.asid, o.obj, o.path, o.nsid, lba, off, len, w, fua, data, 0⟩] }
    out := s.out ++ [.nvme id w o.path o.nsid lba len fua data] }

/-- Room for k more commands on a path: a drive has 32 queue pairs of depth 1,024 (R422); of a connection the spec states none. -/
def State.nvmeRoom (s : State) (path k : Nat) : Bool :=
  decide (16 ≤ path) || decide ((s.net.nvme.filter fun c => c.path == path).length + k ≤ 32 * 1024)

/-- Bytes of an NVMe command (R396). -/
def nvmeMax : Nat := 131072

/-- The first piece of a storage or network read that has not landed. -/
def Xfer.firstLeft (x : Xfer) : Nat := ((upTo x.pieces).find? fun k => !x.land.landed.contains k).getD x.pieces

/-- The storage object of a transfer: as Harius found it, or found and checked now (R268, R402). -/
def State.storeOf (s : State) (x : Xfer) (reg : Dword) : Except Trap StoreObj :=
  match x.obj with
  | some o => .ok o
  | none => s.storeCheck x reg

/-- STREAD (R268): at its first move every command is sent, from the first block of a piece that has not landed. -/
def State.moveStoreRead (s : State) (x : Xfer) : Moved :=
  let left := x.firstLeft
  match s.storeOf x x.src with
  | .error t => (s, .error (x.trap 5 left t, x))
  | .ok o =>
    match s.translateAll ⟨x.dstScr, x.dst⟩ x.len .copyWrite with
    | (s, some t) => (s, .error (x.trap 6 left t, x))
    | (s, none) =>
      let from_ := (runAt x.dst.toNat x.len left).1 / o.block * o.block
      let n := ceilDiv (x.len - from_) nvmeMax
      if !s.nvmeRoom o.path n then (s, .ok x)
      else
      let s := (upTo n).foldl (fun s i =>
        let off := from_ + i * nvmeMax
        s.sendNvme x o (natField x.src.toNat 0 48) off (min nvmeMax (x.len - off)) []) s
      (s, .ok { x with started := true, obj := some o })

/-- The clean bytes before the first poisoned one. -/
def cleanPrefix (l : List (Byte × Bool)) : List Byte := (l.takeWhile fun y => !y.2).map fun y => y.1

/-- A transfer has storage commands outstanding. -/
def State.hasCmds (s : State) (x : Xfer) : Bool := s.net.nvme.any fun c => c.ref == x.ref

/-- RADDR of a network descriptor. -/
def netRaddr (d : List Byte) : Nat := leNat ((d.drop 8).take 8)

/-- y is a transfer of the same word and channel that issued before x. -/
def Xfer.before (y x : Xfer) : Bool := y.kind == x.kind && y.ref.ch == x.ref.ch && decide (y.ref.id < x.ref.id)

/-- Two ranges have a byte in common. -/
def meets (a m b n : Nat) : Bool := decide (a < b + n) && decide (b < a + m)

/-- Two NETWRs may write a byte in common: at one fabric address, and not apart under one key. -/
def State.netMeets (s : State) (x y : Xfer) : Bool :=
  let ep := fun (z : Xfer) => s.endpoint s.ctx.asid (leNat (z.desc.take 2))
  match ep x, ep y with
  | some a, some b => a.raw.extractLsb' 0 128 == b.raw.extractLsb' 0 128 &&
      ((x.desc.drop 4).take 4 != (y.desc.drop 4).take 4 || meets (netRaddr x.desc) x.len (netRaddr y.desc) y.len)
  | _, _ => true

/-- Two STWRITEs may write a byte in common: in one namespace, and not apart there. -/
def State.storeMeets (s : State) (x y : Xfer) : Bool :=
  let at_ := fun (z : Xfer) =>
    (if z.obj.isSome then z.obj else s.object s.ctx.asid (natField z.dst.toNat 48 16)).map fun o =>
      ((o.path, o.nsid), o.slba.toNat * o.block + natField z.dst.toNat 0 48)
  match at_ x, at_ y with
  | some a, some b => a.1 == b.1 && meets a.2 x.len b.2 y.len
  | _, _ => true

/-- What an earlier transfer of the channel writes to the same place outside the package goes first, so that the higher ID's value stands there
(R254) (DEDUCED, log 20). -/
def State.behind (s : State) (x : Xfer) : Bool :=
  s.ctx.xfers.any fun y => y.before x && (match x.kind with
    | .netwr => s.netMeets x y
    | .stwrite => s.storeMeets x y
    | _ => false)

/-- STWRITE (R268): each move reads and sends one command; `elem` is the next byte. Poison suspends at its sector once the whole blocks
before it have been written. -/
def State.moveStoreWrite (s : State) (x : Xfer) : Moved :=
  match s.storeOf x x.dst with
  | .error t => (s, .error (x.trap 6 0 t, x))
  | .ok o =>
    let src : Place := ⟨x.sideScr, x.src⟩
    match (if x.started then (s, none) else s.translateAll src x.len .copyRead) with
    | (s, some t) => (s, .error (x.trap 5 0 t, x))
    | (s, none) =>
      let x : Xfer := { x with started := true, obj := some o }
      let n := min nvmeMax (x.len - x.elem)
      match s.readRange x (src.plus x.elem) n with
      | (s, .error t) => (s, .error (readFault x (runCount x.src.toNat x.elem) t))
      | (s, .ok (y, l)) =>
        let good := cleanPrefix l
        let k := if good.length = n then n else good.length / o.block * o.block
        if !s.nvmeRoom o.path 1 || s.behind x then (s, .ok { y with buf := [] }) else
        let s := if k = 0 then s else s.sendNvme x o (natField x.dst.toNat 0 48) x.elem k (good.take k)
        let y : Xfer := { y with elem := x.elem + k }
        if k = n then (s, .ok { y with done := runCount x.src.toNat y.elem })
        else if s.hasCmds x then (s, .ok { y with buf := [] })
        else
          let sec := (x.src.toNat + x.elem + good.length) / 32 - x.src.toNat / 32
          (s, .error (x.trap 6 sec (fretTrap 2 0 7 none), { x with done := sec }))

/-- The operation's descriptor in R397's layout, from a network descriptor, for bytes [off, off + len) of it. -/
def netDesc (d : List Byte) (off len : Nat) : BitVec 256 :=
  BitVec.ofNat 256 (leNat (d.take 2 ++ (d.drop 16).take 2 ++ (d.drop 4).take 4 ++ natBytes 8 (netRaddr d + off) ++ List.replicate 8 0 ++
    natBytes 4 len ++ natBytes 2 0xFFFF ++ [0, 0]))

/-- Harius takes an operation of a transfer for bytes [off, off + len) of its descriptor. -/
def State.queueNet (s : State) (x : Xfer) (kind : RmaOpKind) (off len : Nat) (data : List Byte) : State :=
  let o : RmaOp := ⟨s.net.nextId, kind, s.ctx.asid, leNat (x.desc.take 2), netDesc x.desc off len, 0, 0, none, s.ctx.asid, 0, 0,
    if x.kind == .netrd then 1 else ceilDiv len packetMax, 0, data, Landing.start, none⟩
  { s with net := { s.net with nextId := o.id + 1, ops := s.net.ops ++ [o] } }

/-- A transfer has a network operation outstanding. -/
def State.hasOps (s : State) (x : Xfer) : Bool := s.net.ops.any fun o => o.kind == .netrd x.ref || o.kind == .netwr x.ref

/-- NETRD (R269): Harius checks the endpoint, translates the local side, and queues the operation. -/
def State.moveNetRead (s : State) (x : Xfer) : Moved :=
  match s.endpoint s.ctx.asid (leNat (x.desc.take 2)) with
  | none => (s, .error (x.trap 5 0 (memTrap causeAccess .copyRead false 9 x.src), x))
  | some _ => match s.translateAll ⟨x.dstScr, x.dst⟩ x.len .copyWrite with
    | (s, some t) => (s, .error (x.trap 6 0 t, x))
    | (s, none) => (s.queueNet x (.netrd x.ref) 0 x.len [], .ok { x with started := true })

/-- NETWR (R269): Harius checks the endpoint, translates what is left of the local side, and sends it; `elem` is the next byte. Poison suspends at
its sector once the bytes before it have been written (R255). -/
def State.moveNetWrite (s : State) (x : Xfer) : Moved :=
  if s.hasOps x || !x.waiting.isEmpty || s.behind x then (s, .ok x)
  else
    let sec := runCount x.src.toNat x.elem
    match s.endpoint s.ctx.asid (leNat (x.desc.take 2)) with
    | none => (s, .error (x.trap 6 sec (memTrap causeAccess .copyWrite false 9 x.dst), x))
    | some _ =>
      let left := x.len - x.elem
      let src := (Place.mk x.sideScr x.src).plus x.elem
      match s.translateAll src left .copyRead with
      | (s, some t) => (s, .error (x.trap 5 sec t, { x with done := sec }))
      | (s, none) => match s.readRange x src left with
        | (s, .error t) => (s, .error (readFault x sec t))
        | (s, .ok (y, l)) =>
          let good := cleanPrefix l
          if good.isEmpty then (s, .error (x.trap 6 sec (fretTrap 2 0 7 none), { x with done := sec }))
          else
            let e := x.elem + good.length
            (s.queueNet x (.netwr x.ref) x.elem good.length good, .ok { y with buf := [], elem := e, done := runCount x.src.toNat e })

/-! Landing (R252, R268, R269, R387) -/

/-- Bytes arrive for a transfer's destination. -/
def Xfer.arrive (x : Xfer) (off : Nat) (l : List (Byte × Bool)) : Xfer := { x with land := x.land.arrive x.dst.toNat off l }

/-- A piece of a storage or network read lands; one that faults suspends the transfer at the first piece not yet written (R255). -/
def State.landXfer (s : State) (x : Xfer) (k : Nat) : Moved :=
  match x.land.piece x.dst.toNat x.len k with
  | none => (s, .ok x)
  | some l => match s.writeRun x ⟨x.dstScr, x.dst + BitVec.ofNat 64 (runAt x.dst.toNat x.len k).1⟩ l with
    | (s, .error t) => (s, .error (writeFault x x.firstLeft t))
    | (s, .ok x) => (s, .ok { x with land := x.land.wrote x.dst.toNat x.len k })

/-! One move -/

/-- Nothing is left to move; replies, commands or operations may be outstanding. -/
def Xfer.moved (x : Xfer) : Bool :=
  match x.kind with
  | .stread | .netrd => x.started || x.len == 0
  | .stwrite | .netwr => x.len ≤ x.elem
  | .copyt => x.pieces ≤ x.done
  | .scat => x.nidx * x.scatPer ≤ x.elem
  | _ => x.pieces ≤ x.done

/-- Moves one piece. -/
def State.moveOne (s : State) (x : Xfer) : Moved :=
  match x.kind with
  | .copy => s.moveCopy x
  | .copyt => match x.shape with
    | none => (s, .ok x)
    | some sh => if x.ref.w then s.moveShapeOut x sh else s.moveShapeIn x sh
  | .copym => s.moveMulti x
  | .copya => s.moveAdd x
  | .gath => s.moveGather x
  | .scat => s.moveScatter x
  | .rloadb => s.moveRemoteLoad x
  | .copyf => s.moveFlagged x
  | .rred => s.moveReduce x
  | .stread => s.moveStoreRead x
  | .stwrite => s.moveStoreWrite x
  | .netrd => s.moveNetRead x
  | .netwr => s.moveNetWrite x

/-- A transfer may move: it is not suspended (R256). Those of one channel overlap and complete in any order (R254). -/
def Xfer.mayMove (x : Xfer) : Bool := x.fault.isNone

/-- Every source byte has been read, or the request sent (R101). -/
def Xfer.allRead (x : Xfer) : Bool :=
  x.moved && x.waiting.isEmpty || (x.kind == .copy && !x.snap.isEmpty && x.snap.all fun y => y.isSome) || (x.kind == .copyf && x.moved) ||
    (x.kind == .rloadb && decide (runCount x.src.toNat x.len ≤ x.elem) && x.waiting.isEmpty)

/-- Applies `pb` at its point (R101). -/
def State.pushBack (s : State) (x : Xfer) : State × Xfer :=
  if x.pbDue && x.allRead then
    ({ s with ctx := { s.ctx with tok := pushAll s.ctx.tok x.eng ⟨false, false, false, true⟩ } }, { x with pbDue := false })
  else (s, x)

/-- One move of a transfer of the context in focus, with the fault it may meet. -/
def State.moveXfer (s : State) (x : Xfer) : State × Except (Trap × Xfer) Xfer :=
  match ({ s with agent := .stream x.eng }).moveOne x with
  | (s, .error e) => (s, .error e)
  | (s, .ok x) =>
    let r := s.pushBack x
    (r.1.setXfer r.2, .ok r.2)

/-- A move has brought a transfer on. -/
def Xfer.advanced (x y : Xfer) : Bool :=
  !(x.done == y.done && x.elem == y.elem && x.started == y.started && x.waiting.length == y.waiting.length && x.buf.length == y.buf.length)

/-- Moves until nothing is left, something else is awaited, or a fault is met. -/
def State.moveAll : Nat → State → Xfer → State × Except (Trap × Xfer) Xfer
  | 0, s, x => (s, .ok x)
  | n + 1, s, x =>
    if x.moved then (s, .ok x)
    else match s.moveXfer x with
      | (s, .error e) => (s, .error e)
      | (s, .ok y) => if x.advanced y then s.moveAll n y else (s, .ok y)

/-- A bound on the moves that a transfer still needs. -/
def Xfer.fuel (x : Xfer) : Nat := 130 * x.pieces + 2 * x.bytes + x.nidx * x.scatPer + 2

/-- Every piece of a storage or network read that has arrived lands, in order. -/
def State.landAll (s : State) (x : Xfer) : Moved :=
  (x.land.got.foldl (fun (acc : Moved) g => match acc with
    | (s, .error e) => (s, .error e)
    | (s, .ok x) => s.landXfer x ((x.dst.toNat % 32 + g.1) / 32)) (s, .ok x))

/-! Completion (R254) -/

/-- One byte arrival at a phaser of this package (R277). -/
def State.arriveBytes (s : State) (n : PhaserName) (bytes : Nat) : State :=
  match holdArrive s.har.phasers n bytes with
  | none => s.countErr 47
  | some (l, who) =>
    let asid := ((findPhaser s.har.phasers n).map fun p => p.asid).getD 0
    let s : State := { s with har := { s.har with phasers := l } }
    match who with
    | none => s
    | some g =>
      if g.pkg = s.mem.own then s.phaserErr g.thread g.id asid 4 n
      else { s with out := s.out ++ [.phaserMsg g.pkg ⟨n.scope, n.at_, n.num, asid, g, .overrun⟩] }

/-- The release names a flag (R249). -/
def relFlag (r : Dword) : Bool := r.toNat / 2 ^ 62 == 2
/-- The flag's global address. -/
def relAddr (r : Dword) : Dword := (r.extractLsb' 0 56).setWidth 64

/-- The flag word that a transfer's release names, if it names one: translated when the word issues (R250), and again when the flag is added
to, so that no access uses a translation which an NMAP has dropped (R156) (DEDUCED, log 63). -/
def State.flagPhys (s : State) (x : Xfer) : State × Except Trap (Option Phys) :=
  match x.rel.filter relFlag with
  | none => (s, .ok none)
  | some r => match s.xferPhys (relAddr r) (if x.kind = .copyf then .atomic else .store) (x.kind == .copyf) with
    | (s, .error t) => (s, .error t)
    | (s, .ok p) => (s, .ok (some p))

/-- Adds 1 to a flag word at its die cache (R249, R312); the issuing core's L1 line is written back and dropped first (DEDUCED, log 18). -/
def State.flagAdd (s : State) (core : Nat) (p : Phys) : State :=
  let m := s.mem.l1Evict core (p.off / 64)
  let v := leNat (m.hbmBytes (m.key p.slot) p.off 8)
  { s with mem := m.dieWrite p.slot p.off (natBytes 8 (v + 1)) (m.rangePoison p.off 8) }

/-- The release of a completed transfer (R249, R263): a phaser, or the flag where it lies now; COPYF has its own. -/
def State.release (s : State) (core : Nat) (x : Xfer) (flag : Option Phys) : State :=
  match x.name, flag with
  | some n, _ =>
    let times := if x.kind = .copym then (x.targets core).length else 1
    (upTo times).foldl (fun s _ => s.arriveBytes n x.bytes) s
  | none, some p => if x.kind = .copyf then s else s.flagAdd core p
  | none, none => s

/-- Counts an ID as completed (R246); what it has written is kept while a lower ID has not completed (R254). -/
def Channel.complete (c : Channel) (id : Nat) (wrote : List (Nat × Nat)) : Channel :=
  let rec up : Nat → Nat → List Nat → Nat × List Nat
    | 0, m, l => (m, l)
    | n + 1, m, l => if l.contains (m + 1) then up n (m + 1) (l.erase (m + 1)) else (m, l)
  let r := up (c.above.length + 1) c.mark (c.above ++ [id])
  { c with mark := r.1, above := r.2, landed := ((id, wrote) :: c.landed).filter fun y => decide (r.1 < y.1) && !y.2.isEmpty }

/-- Changes a channel. -/
def Ctx.onChan (c : Ctx) (w : Bool) (ch : Chan) (f : Channel → Channel) : Ctx :=
  if w then { c with wch := c.wch.set ch.toNat (f (c.wch[ch.toNat]'ch.isLt)) ch.isLt }
  else { c with lch := c.lch.set ch.toNat (f (c.lch[ch.toNat]'ch.isLt)) ch.isLt }
/-- Every part of a moved transfer has been answered. -/
def State.answered (s : State) (x : Xfer) : Bool :=
  x.waiting.isEmpty &&
    (match x.kind with
    | .copyf => x.started || x.failed.isSome
    | .rred => !(s.har.rred.any fun p => p.ref == x.ref)
    | .stread => !s.hasCmds x && x.land.done x.dst.toNat x.len
    | .stwrite => !s.hasCmds x
    | .netrd => !s.hasOps x && x.land.done x.dst.toNat x.len
    | .netwr => !s.hasOps x
    | _ => true)

/-- COPYF's flag is due: every piece has been accepted (R315). -/
def Xfer.flagDue (x : Xfer) : Bool := x.kind == .copyf && x.moved && x.waiting.isEmpty && !x.started && x.failed.isNone

/-- COPYF's flag, where it lies now (R315): added here, or its increment sent. -/
def State.copyfFlag (s : State) (x : Xfer) (flag : Option Phys) : State × Xfer :=
  if x.flagDue then
    match flag with
    | none => (s, { x with started := true })
    | some p =>
      if p.pkg = s.mem.own.toNat then (s.flagAdd s.ctx.core p, { x with started := true })
      else
        let va : BitVec 56 := (x.rel.getD 0).setWidth 56
        (s.request ⟨(globalForm s.mem.own (va.setWidth 64)).getD 0, p⟩ .increment (.flagInc x.ref), { x with started := true, waiting := [x.pieces] })
  else (s, x)

/-- The four steps of R254 for a transfer of the context in focus. First its core's L1 drops the lines of what it has written: a byte
that the context stored there since is lost with its line (R252). -/
def State.finish (s : State) (x : Xfer) (flag : Option Phys) : State :=
  let s : State := { s with mem := s.mem.l1DropAll s.ctx.core (hbmRanges s.mem.own x.wrote) }
  let c := s.ctx
  let c := { c with tok := if x.pfDue then pushAll c.tok x.eng ⟨false, true, false, false⟩ else c.tok }
  let c := { c with tok := if x.pbDue then pushAll c.tok x.eng ⟨false, false, false, true⟩ else c.tok }
  let s := ({ s with ctx := c }).release c.core x flag
  let s := match x.failed with
    | some e => s.pushErr x.ref.c e false
    | none => s
  let s : State := { s with ctx :=
    { (s.ctx.onChan x.ref.w x.ref.ch fun h => h.complete x.ref.id x.wrote) with xfers := s.ctx.xfers.filter (·.ref != x.ref) } }
  let s := s.endGrant (dieOfCore c.core) x.leave
  if x.kind = .rred then { s with mem := s.mem.rredOut s.pkg c.asid false } else s

/-- A transfer that has moved, with its flag as it translates now: COPYF's flag is added to, and it completes once all has been answered. -/
def State.finishWith (s : State) (x : Xfer) (flag : Option Phys) : State :=
  let r := s.copyfFlag x flag
  if r.1.answered r.2 then r.1.finish r.2 flag else r.1.setXfer r.2

/-- Completes a transfer that has moved and been answered. One whose flag no longer translates suspends, with nothing of its completion done;
one that is being abandoned completes without it (R255, R256) (DEDUCED, log 63). -/
def State.finishIf (s : State) (x : Xfer) (abandoned : Bool) : State :=
  if !x.moved then s
  else if !(x.flagDue || s.answered x) then s.setXfer x
  else match s.flagPhys x with
    | (s, .ok f) => s.finishWith x f
    | (s, .error t) => if abandoned then s.finishWith x none else s.suspend x (x.trap 6 x.pieces t)

/-! Abandonment (R256) -/

/-- The address of a dropped piece in an error-queue entry (R321). -/
def Place.entryAddr (p : Place) (own : Pkg) : Nat :=
  if p.scr then p.a.toNat % 2 ^ 32 else ((globalForm own p.a).map fun va => va.toNat).getD (p.a.toNat % 2 ^ 56)

/-- Counts a piece dropped at abandonment; the first is kept for the entry. -/
def State.dropPiece (s : State) (first : Option Nat) (p : Place) : State × Option Nat :=
  (s.countErr 46, if first.isSome then first else some (p.entryAddr s.mem.own))

/-- A destination piece: its place, and the offsets from it of its bytes. -/
structure DstPiece where
  at_ : Place
  offs : List Nat
deriving DecidableEq, Repr

/-- Writes one unfinished piece poisoned, or drops it (DEDUCED, log 21). -/
def State.poisonPiece (s : State) (x : Xfer) (first : Option Nat) (p : DstPiece) : State × Xfer × Option Nat :=
  let drop := fun (_ : Unit) =>
    let r := s.dropPiece first p.at_
    (r.1, x, r.2)
  let (t, l) := s.freePoison p.offs.length
  let gone := match scrForm p.at_.a with
    | .package core off => p.at_.scr && !allocHolds (allocs s.ctxs) s.ctx.asid core off ((p.offs.map (· + 1)).foldl max 0)
    | _ => false
  if gone then drop ()
  else match t.writePart x p.at_ (p.offs.zip (l.map fun y => y.1)) true with
    | (u, .ok x) => (u, x, first)
    | (_, .error _) => drop ()

/-- The pieces of COPYT.out from element e on. -/
def Shape.visits (sh : Shape) (x : Xfer) : Nat → Nat → List DstPiece
  | 0, _ => []
  | n + 1, e =>
    if Xfer.elements sh ≤ e then []
    else
      let (k, at_, offs) := sh.visit x.dst e
      ⟨⟨x.sideScr, at_⟩, (upTo 32).filter offs.contains⟩ :: sh.visits x n (e + k)

/-- The destination pieces that a suspended transfer has not finished, or the place of a piece of a scatter chunk that cannot be written: where
the chunk would lie, and the destination's base where its index is poisoned, so that no place is known. An STWRITE and a NETWR have none:
what they have not sent is not written, not counted and not named (DESIGN CHOICE, log 72). -/
def State.unfinished (s : State) (x : Xfer) : List (Except Place DstPiece) :=
  let piece := fun (p : Place) (n k : Nat) => Except.ok (DstPiece.mk (p.plus (runAt p.a.toNat n k).1) (upTo (runAt p.a.toNat n k).2))
  let runsAt := fun (p : Place) (n : Nat) => ((upTo (x.pieces - x.done)).map (· + x.done)).map (piece p n)
  match x.kind with
  | .copy | .rloadb => runsAt ⟨x.dstScr, x.dst⟩ x.len
  | .stread | .netrd => ((upTo x.pieces).filter fun k => !x.land.landed.contains k).map (piece ⟨x.dstScr, x.dst⟩ x.len)
  | .gath => runsAt ⟨true, x.dst⟩ x.bytes
  | .copym => (x.targets s.ctx.core).zipIdx.flatMap fun t =>
      (runsAt ⟨true, form01 t.1 (natField x.dst.toNat 0 21)⟩ x.len).drop (if t.2 < x.elem then 1 else 0)
  | .copyt => match x.shape with
    | none => []
    | some sh =>
      if x.ref.w then (sh.visits x (Xfer.elements sh) x.elem).map .ok
      else ((upTo (x.pieces - x.done)).map (· + x.done)).map fun k =>
        let r := runAt (natField x.dst.toNat 0 21) x.bytes k
        .ok ⟨⟨true, sh.dense x.dst r.1⟩, upTo r.2⟩
  | .scat => ((upTo (x.nidx * x.scatPer - x.elem)).map (· + x.elem)).map fun e =>
      let i := e / x.scatPer
      let begun := if i = x.elem / x.scatPer then x.chunk else none
      let run := fun (a : Dword) => runAt a.toNat x.csize (e % x.scatPer)
      match begun, s.chunkAddr x x.dst i with
      | some a, _ => piece ⟨x.sideScr, a⟩ x.csize (e % x.scatPer)
      | none, .error _ => .error ⟨x.sideScr, x.dst⟩
      | none, .ok a =>
        if (s.chunkAt x x.dst a .copyWrite).isNone then piece ⟨x.sideScr, a⟩ x.csize (e % x.scatPer)
        else .error ⟨x.sideScr, a + BitVec.ofNat 64 (run a).1⟩
  | _ => []

/-- The unfinished rows of COPYA become poisoned, their elements free (DEDUCED, log 21). -/
def State.poisonRows (s : State) (x : Xfer) : State :=
  ((upTo (x.pieces - x.done)).map (· + x.done)).foldl (fun s k =>
    let (s, l) := s.freePoison 32
    let row := natField x.ctl.toNat 0 6 + k / 8
    let t := x.dst.toNat + row / 64
    let old := s.ctx.getA t
    { s with ctx := s.ctx.setA t ⟨setBytes old.v (row % 64 * 256 + k % 8 * 32) (l.map fun y => y.1), old.p ||| BitVec.ofNat 64 (2 ^ (row % 64))⟩ }) s

/-- Unfinished pieces of COPYF and RRED leave poisoned, whatever EXPORT holds. -/
def State.poisonSent (s : State) (x : Xfer) : State × Xfer × Option Nat :=
  ((upTo (x.pieces - x.done)).map (· + x.done)).foldl (fun (acc : State × Xfer × Option Nat) k =>
    let (s, l) := acc.1.freePoison (runAt x.dst.toNat x.len k).2
    if x.kind = .rred then (match s.rredPiece { x with exportOk := true } k l with
      | some p => (s.handPiece p, acc.2)
      | none => (s, acc.2))
    else match s.sendPiece acc.2.1 k l true with
      | (s, .ok x) => (s, x, acc.2.2)
      | (_, .error _) =>
        let r := s.dropPiece acc.2.2 ⟨false, x.dst + BitVec.ofNat 64 (runAt x.dst.toNat x.len k).1⟩
        (r.1, acc.2.1, r.2)) (s, x, none)

/-- Abandons one suspended transfer of the context in focus (R256): it writes what it can, poisoned, and completes (DEDUCED, log 21). -/
def State.abandonOne (s : State) (x : Xfer) : State :=
  let s : State := { s with agent := .stream x.eng }
  let (s, x, first) : State × Xfer × Option Nat := match x.kind with
    | .copyf => s.poisonSent x
    | .rred =>
      let r := s.poisonSent x
      let held := r.1.har.rred.filter fun p => p.ref == x.ref && p.fretted
      (held.foldl (fun (s : State) p => s.rredTry { p with exportOk := true }) r.1, r.2)
    | .copya =>
      let x : Xfer := { x with buf := [], done := x.done / 8 * 8 }
      (s.poisonRows x, x, none)
    | _ => (s.unfinished x).foldl (fun (acc : State × Xfer × Option Nat) q => match q with
        | .ok p => acc.1.poisonPiece acc.2.1 acc.2.2 p
        | .error p =>
          let r := acc.1.dropPiece acc.2.2 p
          (r.1, acc.2.1, r.2)) (s, x, none)
  let s := match first with
    | some a => s.pushErr x.ref.c (errEntry 9 a) false
    | none => s
  let mine := fun (o : RmaOp) => o.kind == .netrd x.ref || o.kind == .netwr x.ref
  let s := (s.net.ops.filter mine).foldl (fun (s : State) o => s.dropPackets o.id) s
  let s : State := { s with net := { s.net with
    nvme := s.net.nvme.filter fun c => c.ref != x.ref
    ops := s.net.ops.filter fun o => !mine o } }
  let x : Xfer := { x with
    fault := none, done := x.pieces, started := x.started || x.kind != .copyf
    elem := x.len + x.nidx * x.scatPer + x.bytes
    waiting := if x.kind = .copyf then x.waiting else []
    land := ⟨[], upTo x.pieces⟩ }
  (s.setXfer x).finishIf x true

/-- Abandons every suspended transfer of a context (R256, R361). -/
def State.abandonAll (s : State) (inst : Nat) : State :=
  match s.focus inst with
  | none => s
  | some s => (s.ctx.xfers.filter fun x => x.fault.isSome).foldl State.abandonOne s

/-- A context's transfers run while it is resident or parked (R107, R256). -/
def Ctx.runsXfers (c : Ctx) : Bool :=
  match c.place with
  | .resident | .parked _ _ => true
  | _ => false

/-- A transfer that has moved: a piece of RRED that frets suspends it; else it completes once all is answered. -/
def State.closeXfer (s : State) (x : Xfer) : State :=
  match s.frettedPiece x with
  | some p => s.suspend x (x.trap 6 p.k (fretTrap 2 0 7 (some p.addr)))
  | none => s.finishIf x false

/-- One turn of a transfer: it moves a piece, or completes. -/
def State.turnMove (s : State) (r : XferRef) : State :=
  match s.focus r.c with
  | none => s
  | some s => match s.ctx.xfer r with
    | none => s
    | some x =>
      if !s.ctx.runsXfers || !x.mayMove then s
      else if x.moved then s.closeXfer x
      else match s.moveXfer x with
        | (s, .error (t, x)) => s.suspend x t
        | (s, .ok _) => s

/-- One piece of a storage or network read lands, in any order (R252). -/
def State.turnLand (s : State) (r : XferRef) (k : Nat) : State :=
  match s.focus r.c with
  | none => s
  | some s => match s.ctx.xfer r with
    | none => s
    | some x =>
      if !s.ctx.runsXfers || !x.mayMove then s
      else match ({ s with agent := .stream x.eng } : State).landXfer x k with
        | (s, .error (t, x)) => s.suspend x t
        | (s, .ok x) => (s.setXfer x).finishIf x false

/-- The transfer moves on and lands what has arrived, up to a fault. -/
def State.runXfer (s : State) (x : Xfer) : State × Except (Trap × Xfer) Xfer :=
  match s.moveAll x.fuel x with
  | (s, .error e) => (s, .error e)
  | (s, .ok x) => match s.landAll x with
    | (s, .error e) => (s, .error e)
    | (s, .ok x) => (s.setXfer x, .ok x)

/-- TRANSFER_COMPLETE (R254): the transfer's remaining pieces land and it completes; a transfer that a fault or a reply still holds
does not. -/
def execTransferComplete (r : XferRef) (s : State) : Outcome :=
  .next (match s.focus r.c with
    | none => s
    | some s => match s.ctx.xfer r with
      | none => s
      | some x =>
        if !s.ctx.runsXfers || !x.mayMove then s
        else match s.runXfer x with
          | (_, .error _) => s
          | (t, .ok x) => if x.moved then t.closeXfer x else t)

/-- TRANSFER_FAULT (R255): the transfer moves up to a piece that faults, suspends and traps its context; nothing where no
piece faults. -/
def execTransferFault (r : XferRef) (s : State) : Outcome :=
  .next (match s.focus r.c with
    | none => s
    | some s => match s.ctx.xfer r with
      | none => s
      | some x =>
        if !s.ctx.runsXfers || !x.mayMove then s
        else match s.runXfer x with
          | (t, .error (tr, x)) => t.suspend x tr
          | (_, .ok _) => s)

end Sys2Proof.Machine
end

