-- ==== Sys2Proof/Machine/Copy.lean ====
section
/-!
DEFINITION. The L and W words: their checks and issue (R245 to R251), entry by entry (R259 to R269, R314, R316).
-/

namespace Sys2Proof.Machine

/-- Reads registers in order: their values, or the STALL of the first that waits. -/
def State.readAll (s : State) : List SReg → Except (BitVec 4) (List SVal)
  | [] => .ok []
  | r :: rs => match s.readS r with
    | .error c => .error c
    | .ok v => match s.readAll rs with
      | .error c => .error c
      | .ok vs => .ok (v :: vs)

/-- Reads clean registers: one that waits stalls, then the first poisoned one is a fret (R250 step 1, R292). -/
def State.cleanAll (s : State) (rs : List SReg) (k : List Dword → Res) : Res :=
  match s.readAll rs with
  | .error c => .wait c s
  | .ok vs => match (rs.zip vs).find? fun x => x.2.p with
    | some x => .trap (fretTrap 1 x.1.toNat 0 none) s
    | none => k (vs.map fun v => v.v)

/-- What a transfer word's checks find: steps 1 to 5 of R250 as optional traps in order, and the transfer to be. -/
structure Plan where
  poison : Option Trap
  reserved : Bool
  access : List (Option Trap)
  align : List (Option Trap)
  bound : List (Option Trap)
  xfer : Xfer

/-- The first trap of a list. -/
def firstTrap (l : List (Option Trap)) : Option Trap := l.findSome? id

/-- ACCESS_VIOLATION for a transfer's side. -/
def sideTrap (k : AKind) (scr : Bool) (why : Nat) (a : Dword) : Option Trap := some (memTrap causeAccess k scr why a)

/-- Step 3 for a side of n bytes (R149, R150, R250): form, own package unless `anyPkg`, a form-01 range in full. -/
def State.sideAccess (s : State) (p : Place) (n : Nat) (k : AKind) (anyPkg : Bool) : Option Trap :=
  if p.scr then match scrForm p.a with
    | .bad => sideTrap k true 2 p.a
    | .own _ => none
    | .package core off =>
      if n = 0 then none
      else if scrSize < off + n then sideTrap k true 2 p.a
      else if allocHolds (allocs s.ctxs) s.ctx.asid core off n then none else sideTrap k true 5 p.a
  else match globalForm s.mem.own p.a with
    | none => sideTrap k false 1 p.a
    | some va => if anyPkg || natField va.toNat 44 12 == s.mem.own.toNat then none else sideTrap k false 1 p.a

/-- Step 3 for n bytes at a signed offset from a form-01 base: they lie in the base's scratchpad and in an allocation there (R150). -/
def State.spanAccess (s : State) (base : Dword) (off : Int) (n : Nat) (k : AKind) : Option Trap :=
  let a := base + BitVec.ofInt 64 off
  match scrForm base with
  | .package core b =>
    let lo : Int := b + off
    if n = 0 then none
    else if lo < 0 ∨ (scrSize : Int) < lo + n then sideTrap k true 2 a
    else if allocHolds (allocs s.ctxs) s.ctx.asid core lo.toNat n then none else sideTrap k true 5 a
  | _ => none

/-- Step 5 for n bytes at a signed offset from a form-00 base: they lie in the own allocation. -/
def State.spanBound (s : State) (base : Dword) (off : Int) (n : Nat) (k : AKind) : Option Trap :=
  match scrForm base with
  | .own b =>
    let lo : Int := b + off
    if n ≠ 0 ∧ (lo < 0 ∨ (s.ctx.scrBytes : Int) < lo + n) then some (memTrap causeBound k true 0 (base + BitVec.ofInt 64 off)) else none
  | _ => none

/-- Step 5 for a side of n bytes: a form-00 range in full. -/
def State.sideBound (s : State) (p : Place) (n : Nat) (k : AKind) : Option Trap :=
  if p.scr && n != 0 then match scrForm p.a with
    | .own off => if s.ctx.scrBytes < off + n then some (memTrap causeBound k true 0 p.a) else none
    | _ => none
  else none

/-- A global range of n bytes leaves the package of its first byte. -/
def crosses (own : Pkg) (a : Dword) (n : Nat) : Bool :=
  (globalForm own a).any fun va => decide (2 ^ 44 < natField va.toNat 0 44 + n)

/-- The release register (R249): a bad KIND or reserved bit. -/
def relBad (r : Dword) : Bool :=
  r.extractLsb' 56 6 != 0 || (match r.toNat / 2 ^ 62 with
    | 1 => r.extractLsb' 16 40 != 0
    | 2 => false
    | _ => true)

/-- Step 3 for a named flag of a release. R250 lists an ACCESS_VIOLATION on the flag word in step 6 as well: one that its address alone shows, a
malformed one or one in another package, is reported here, as for every other global address (DESIGN CHOICE, log 65). -/
def State.flagAccess (s : State) (r : Option Dword) : Option Trap :=
  r.bind fun r => if relFlag r then s.sideAccess ⟨false, relAddr r⟩ 8 .store false else none
/-- The flag word is 8-byte aligned. -/
def flagAlign (k : AKind) (r : Option Dword) : Option Trap :=
  r.bind fun r => if relFlag r && (relAddr r).toNat % 8 != 0 then some (memTrap causeAlign k false 0 (relAddr r)) else none

/-- DOMAIN's value (R272) and EXPORT (R331), as an issuing stream sees them, are read at issue. -/
def domainNum : SysNum := 0x004

/-- The scope that DOMAIN gives the word of stream e (R40, R272). -/
def State.domainSeen (s : State) (e : StreamId) : Except (BitVec 4) Scope3 :=
  (s.ctx.seen e domainNum (s.ctx.regs.domain.setWidth 64)).map fun v => v.extractLsb' 0 3

/-- The phaser that a release names (R271). -/
def State.relName (s : State) (scope : Scope3) (r : Dword) : PhaserName :=
  ⟨scope, scopeAt scope s.ctx.core s.mem.own.toNat, r.extractLsb' 0 16⟩

/-- Resolves the object of a release, after every other check: a flag is translated (step 6), a phaser named. -/
def State.withRelease (s : State) (e : StreamId) (x : Xfer) (k : State → Xfer → Res) : Res :=
  match x.rel with
  | none => k s x
  | some r =>
    if relFlag r then
      match s.flagPhys x with
      | (s, .error t) => .trap t s
      | (s, .ok _) => k s x
    else match s.domainSeen e with
      | .error c => .wait c s
      | .ok d => k s { x with name := some (s.relName d r) }

/-- The channel's next ID (R245): none while 16 transfers are outstanding, or while the last ID waits for MARK. -/
def Ctx.nextId (c : Ctx) (w : Bool) (ch : Chan) : Option (Nat × Ctx) :=
  let h := c.chan w ch
  if 16 ≤ (c.xfers.filter fun x => x.ref.w == w && x.ref.ch == ch).length then none
  else if 2 ^ 32 ≤ h.next then
    (if h.mark = 2 ^ 32 - 1 then some (1, c.onChan w ch fun _ => ⟨2, 0, [], []⟩) else none)
  else some (h.next, c.onChan w ch fun h => { h with next := h.next + 1 })

/-- Takes the ID and starts the transfer (R245, R250, R251): a full channel waits with STALL 12, more than 1 MiB asks leave. -/
def State.start (s : State) (e : StreamId) (push : Tok) (x : Xfer) : Res :=
  let go := fun (s : State) =>
    match s.ctx.nextId x.ref.w x.ref.ch with
    | none => Res.wait 12 s
    | some (id, c) =>
      let y : Xfer := { x with
        ref := { x.ref with id := id }, pfDue := push.pf, pbDue := push.pb, leave := c.leaveHeld e
        owed := if x.sideScr then [] else s.mem.l1Dirty s.ctx.core }
      let s : State := { s with ctx := { c.leaveTaken e with xfers := c.xfers ++ [y] } }
      .done true (if x.kind = .rred then { s with mem := s.mem.rredOut s.pkg s.ctx.asid true } else s)
  if (s.ctx.nextId x.ref.w x.ref.ch).isNone then .wait 12 s
  else
    let many := if x.kind = .copym then x.bytes * (x.targets s.ctx.core).length else x.bytes
    if x.kind ≠ .copya ∧ 1048576 < many then s.leaveAsk e leaveCopy go else go s

/-- Runs a planned transfer word: the checks in R250's order, then the start. An odd b with REL is `odd`; COPYA's hold comes last (R218). -/
def State.issue (s : State) (e : StreamId) (push : Tok) (odd : Bool) (p : Plan) : Res :=
  let x := p.xfer
  match p.poison with
  | some t => .trap t s
  | none =>
    if odd || p.reserved || x.rel.any relBad || (x.kind == .copyf && !x.rel.all relFlag) then .trap (wordTrap causeReserved x.word) s
    else match firstTrap (p.access ++ [if x.kind = .copyf then none else s.flagAccess x.rel] ++ p.align ++
        [flagAlign (if x.kind = .copyf then .atomic else .store) x.rel] ++ p.bound) with
      | some t => .trap t s
      | none => s.withRelease e x fun s x =>
        match x.tiles.find? s.ctx.mHolds with
        | some t => .trap (Trap.withDetail 0x40 t) s
        | none => s.start e push x

/-- A transfer of context `inst` before its checks. -/
def Xfer.blank (inst : Nat) (w : Bool) (ch : Chan) (kind : XferKind) (word : Word) (ctl : Dword) (rel : Option Dword) (exportOk : Bool) : Xfer := {
  ref := ⟨inst, w, ch, 0⟩, kind := kind, word := word, dst := 0, src := 0, ctl := ctl, rel := rel, name := none, exportOk := exportOk
  shape := none, desc := [], pieces := 0, done := 0, elem := 0, waiting := [], snap := [], under := [], pfDue := false, pbDue := false, fault := none
  failed := none, dropped := false, started := false, leave := 0, owed := [], wrote := [], buf := [], chunk := none
  obj := none, land := Landing.start }

/-- A transfer word: a tile named beyond the allocation (step 4 of R33), gates (R282), operands, the plan and its checks. -/
def transfer (w : Bool) (t : Tok) (i : Instr) (regs : List SReg) (b : SReg) (rel : Bool) (ch : Dword → Chan) (kind : XferKind)
    (tile : Option TileNo) (plan : State → Xfer → List Dword → Plan) (s : State) : Outcome :=
  let e : StreamId := if w then .W else .L
  ctxWord e t 1 (fun push s =>
    if tile.any fun k => decide (s.ctx.tiles ≤ k.toNat) then .trap (whyTrap 7) s
    else s.ungated fun _ =>
      let odd := rel && b.toNat % 2 == 1
      s.cleanAll (regs ++ [b] ++ (if rel && !odd then [b + 1] else [])) fun vs =>
        let n := regs.length
        let ctl := vs.getD n 0
        let x := Xfer.blank s.ctx.inst w (ch ctl) kind (Instr.firstWord i) ctl (if rel then vs[n + 1]? else none) s.ctx.regs.exportOk
        s.issue e push odd (plan s x vs)) s

/-- A word with a channel in mod. -/
def inMod (c : Chan) (_ : Dword) : Chan := c

/-- LEN and the fields of R248 that must be zero: all but those of a mask. -/
def ctlBad (x : Xfer) (mask : Dword) : Bool := x.ctl &&& ~~~mask != 0
/-- LEN. -/
def maskLen : Dword := 0xFFFFFFFF
/-- SS. -/
def maskSS : Dword := 0x100000000
/-- DS. -/
def maskDS : Dword := 0x200000000
/-- FUA. -/
def maskFua : Dword := 0x400000000
/-- COLMASK and ROWMASK. -/
def maskTargets : Dword := 0xFFFFFF0000000000

/-- COPY (R259). -/
def planCopy (s : State) (x : Xfer) (v : List Dword) : Plan :=
  let x : Xfer := { x with dst := v.getD 0 0, src := v.getD 1 0 }
  let n := x.len
  let src : Place := ⟨x.sideScr, x.src⟩
  let dst : Place := ⟨x.dstScr, x.dst⟩
  { poison := none, reserved := ctlBad x (maskLen ||| maskSS ||| maskDS)
    access := [s.sideAccess src n .copyRead false, s.sideAccess dst n .copyWrite false], align := []
    bound := [s.sideBound src n .copyRead, s.sideBound dst n .copyWrite]
    xfer := { x with pieces := runCount x.dst.toNat n } }

/-- The bytes of a shape record (R261) at a form-00 offset that lie in the allocation, and whether those are all; of an NDIM that R261 does not
allow, the header alone. None where the offset is misaligned or the header lies outside. -/
def State.shapeBytes (s : State) (off : Nat) : Option (List (Byte × Bool) × Bool) :=
  let get := fun n => s.mem.scrReadP s.ctx.core (s.ctx.scrBase + off) n
  if off % 32 ≠ 0 ∨ s.ctx.scrBytes < off + 16 then none
  else
    let h := get 16
    let nd := leNat ((h.take 1).map fun y => y.1)
    if nd = 0 ∨ 9 < nd then some (h, true)
    else some (get (min (16 + 16 * nd) (s.ctx.scrBytes - off)), decide (off + (16 + 16 * nd) ≤ s.ctx.scrBytes))

/-- The shape of a record, where it is legal (R261); fields that the bytes do not reach are 0. -/
def shapeOf (l : List Byte) : Option Shape :=
  let f := fun (o n : Nat) => leNat ((l.drop o).take n)
  let nd := f 0 1
  let sh : Shape := ⟨2 ^ f 1 1, f 2 1, f 4 2, (upTo nd).map fun j => (f (16 + 16 * j) 4, BitVec.ofNat 64 (f (0x18 + 16 * j) 8))⟩
  if nd = 0 ∨ 9 < nd ∨ 3 < f 1 1 ∨ 7 < f 2 1 ∨ f 3 1 ≠ 0 ∨ f 6 10 ≠ 0 ∨ (upTo nd).any (fun j => f (0x14 + 16 * j) 4 != 0) ∨
      (sh.swz ≠ 0 ∧ sh.lpitch = 0) ∨ 2 ^ 32 ≤ Xfer.elements sh * sh.esize then none
  else some sh

/-- COPYT (R260 to R262). Of a record that runs past the allocation, what lies inside is judged by steps 1 and 2 of R250 before its bound
by step 5. -/
def planShape (out : Bool) (s : State) (x : Xfer) (v : List Dword) : Plan :=
  let x : Xfer := { x with dst := v.getD 0 0, src := v.getD 1 0 }
  let rec_ := natField x.ctl.toNat 0 21
  let raw := s.shapeBytes rec_
  let shape := raw.bind fun l => shapeOf (l.1.map fun y => y.1)
  let sh := shape.getD ⟨1, 0, 0, [(0, 0)]⟩
  let x : Xfer := { x with shape := some sh }
  let n := x.bytes
  let total := Xfer.elements sh
  let dense := if out then x.src else x.dst
  let side := if out then x.dst else x.src
  let kd := if out then AKind.copyRead else AKind.copyWrite
  let ks := if out then AKind.copyWrite else AKind.copyRead
  let b := natField dense.toNat 0 21
  let dparts := (runs b n).map fun r => ((sh.denseOff dense r.1 : Int) - b, r.2)
  let sparts := if x.sideScr then (upTo total).map fun i => ((shapeOffset sh.dims i).toInt, sh.esize) else []
  { poison := if raw.any fun l => l.1.any fun y => y.2 then some (fretTrap 1 0 7 (some (BitVec.ofNat 64 rec_))) else none
    reserved := ctlBad x (maskSS ||| 0x1FFFFF) || (raw.isSome && shape.isNone)
    access := [s.sideAccess ⟨x.sideScr, side⟩ 0 ks false, s.sideAccess ⟨true, dense⟩ 0 kd false] ++
      (sparts.map (fun p => s.spanAccess side p.1 p.2 ks) ++ dparts.map fun p => s.spanAccess dense p.1 p.2 kd)
    align := [
      if rec_ % 32 ≠ 0 then some (memTrap causeAlign .load true 0 (BitVec.ofNat 64 rec_)) else none,
      if side.toNat % sh.esize ≠ 0 ∨ sh.dims.any (fun d => d.2.toNat % sh.esize != 0) then some (memTrap causeAlign ks x.sideScr 0 side) else none,
      if sh.swz ≠ 0 ∧ dense.toNat % 64 ≠ 0 then some (memTrap causeAlign kd true 0 dense) else none]
    bound := (if !raw.any (·.2) then some (memTrap causeBound .load true 0 (BitVec.ofNat 64 rec_)) else none) ::
      (sparts.map (fun p => s.spanBound side p.1 p.2 ks) ++ dparts.map fun p => s.spanBound dense p.1 p.2 kd)
    xfer := { x with pieces := if out then total else runCount (natField dense.toNat 0 21) n } }

/-- COPYM (R263). -/
def planMulti (s : State) (x : Xfer) (v : List Dword) : Plan :=
  let x : Xfer := { x with dst := v.getD 0 0, src := v.getD 1 0 }
  let n := x.len
  let src : Place := ⟨x.sideScr, x.src⟩
  let off := natField x.dst.toNat 0 21
  let form := match scrForm x.dst with
    | .package core _ => if core = s.ctx.core / 128 * 128 then none else sideTrap .copyWrite true 2 x.dst
    | _ => sideTrap .copyWrite true 2 x.dst
  { poison := none, reserved := ctlBad x (maskLen ||| maskSS ||| maskTargets)
    access := [s.sideAccess src n .copyRead false, form] ++
      (x.targets s.ctx.core).map fun core => s.sideAccess ⟨true, form01 core off⟩ n .copyWrite false
    align := [], bound := [s.sideBound src n .copyRead]
    xfer := { x with pieces := if (x.targets s.ctx.core).isEmpty then 0 else runCount off n } }

/-- COPYA (R264); `dst` holds the tile. -/
def planAdd (tile : TileNo) (s : State) (x : Xfer) (v : List Dword) : Plan :=
  let x : Xfer := { x with dst := tile.setWidth 64, src := v.getD 0 0 }
  let src : Place := ⟨x.sideScr, x.src⟩
  let last := tile.toNat + (natField x.ctl.toNat 0 6 + x.rows - 1) / 64
  { poison := none, reserved := ctlBad x 0x10193FFFF || decide (95 < last)
    access := [if s.ctx.tiles ≤ last then some (whyTrap 7) else none, s.sideAccess src x.bytes .copyRead false]
    align := [if x.src.toNat % 32 ≠ 0 then some (memTrap causeAlign .copyRead x.sideScr 0 x.src) else none]
    bound := [s.sideBound src x.bytes .copyRead]
    xfer := { x with pieces := 8 * x.rows } }

/-- GATH and SCAT (R265). -/
def planIndexed (out : Bool) (s : State) (x : Xfer) (v : List Dword) : Plan :=
  let x : Xfer := { x with dst := v.getD 0 0, src := v.getD 1 0 }
  let n := x.bytes
  let dense : Place := ⟨true, if out then x.src else x.dst⟩
  let side : Place := ⟨x.sideScr, if out then x.dst else x.src⟩
  let kd := if out then AKind.copyRead else AKind.copyWrite
  let ks := if out then AKind.copyWrite else AKind.copyRead
  let il : Place := ⟨true, BitVec.ofNat 64 (natField x.ctl.toNat 35 21)⟩
  { poison := none, reserved := ctlBad x 0x00FFFFF900FFFFFF
    access := [s.sideAccess side 0 ks false, s.sideAccess dense n kd false]
    align := [if il.a.toNat % 4 ≠ 0 then some (memTrap causeAlign .load true 0 il.a) else none]
    bound := [s.sideBound il (4 * x.nidx) .load, s.sideBound dense n kd]
    xfer := { x with pieces := if out then n / 32 else runCount dense.a.toNat n } }

/-- RLOADB (R267). -/
def planRemoteLoad (s : State) (x : Xfer) (v : List Dword) : Plan :=
  let x : Xfer := { x with dst := v.getD 0 0, src := v.getD 1 0 }
  let n := x.len
  let dst : Place := ⟨x.dstScr, x.dst⟩
  { poison := none, reserved := ctlBad x (maskLen ||| maskDS)
    access := [s.sideAccess ⟨false, x.src⟩ n .copyRead true, if crosses s.mem.own x.src n then sideTrap .copyRead false 6 x.src else none,
      s.sideAccess dst n .copyWrite false]
    align := [], bound := [s.sideBound dst n .copyWrite]
    xfer := { x with pieces := runCount x.dst.toNat n } }

/-- STREAD and STWRITE (R268). -/
def planStore (out : Bool) (s : State) (x : Xfer) (v : List Dword) : Plan :=
  let x : Xfer := { x with dst := v.getD 0 0, src := v.getD 1 0 }
  let n := x.len
  let side : Place := if out then ⟨x.sideScr, x.src⟩ else ⟨x.dstScr, x.dst⟩
  let obj := if out then x.dst else x.src
  let k := if out then AKind.copyRead else AKind.copyWrite
  { poison := none, reserved := ctlBad x (maskLen ||| (if out then maskSS ||| maskFua else maskDS))
    access := [s.sideAccess side n k false]
    align := [if natField obj.toNat 0 48 % 512 ≠ 0 ∨ n % 512 ≠ 0 then some (memTrap causeAlign (if out then .copyWrite else .copyRead) false 0 obj) else none]
    bound := [s.sideBound side n k]
    xfer := { x with pieces := runCount side.a.toNat n } }

/-- A network descriptor's reserved and illegal fields (R269). -/
def netBad (d : List Byte) : Bool :=
  leNat ((d.drop 2).take 2) != 0 || decide (7 < leNat ((d.drop 16).take 1)) || decide (1 < leNat ((d.drop 17).take 1)) ||
    (d.drop 18).any (· != 0)

/-- NETRD and NETWR (R269). -/
def planNet (out : Bool) (s : State) (x : Xfer) (v : List Dword) : Plan :=
  let x : Xfer := { x with dst := v.getD 0 0, src := v.getD 1 0 }
  let n := x.len
  let side : Place := if out then ⟨x.sideScr, x.src⟩ else ⟨x.dstScr, x.dst⟩
  let d := if out then x.dst else x.src
  let k := if out then AKind.copyRead else AKind.copyWrite
  let raw := match scrForm d with
    | .own off => if off % 32 = 0 ∧ off + 32 ≤ s.ctx.scrBytes then some (s.mem.scrReadP s.ctx.core (s.ctx.scrBase + off) 32) else none
    | _ => none
  let desc := (raw.getD []).map fun y => y.1
  { poison := if raw.any fun l => l.any fun y => y.2 then some (fretTrap 1 0 7 (some d)) else none
    reserved := ctlBad x (maskLen ||| (if out then maskSS else maskDS)) || (raw.isSome && netBad desc)
    access := [match scrForm d with
      | .own _ => none
      | _ => sideTrap .load true 2 d, s.sideAccess side n k false]
    align := [if d.toNat % 32 ≠ 0 then some (memTrap causeAlign .load true 0 d) else none]
    bound := [s.sideBound ⟨true, d⟩ 32 .load, s.sideBound side n k]
    xfer := { x with desc := desc, pieces := runCount side.a.toNat n } }

/-- A flag outside the package of the destination (R314). -/
def State.flagPackage (s : State) (x : Xfer) : Option Trap :=
  x.rel.bind fun r => match globalForm s.mem.own (relAddr r), globalForm s.mem.own x.dst with
    | none, _ => sideTrap .atomic false 1 (relAddr r)
    | some f, some d => if natField f.toNat 44 12 = natField d.toNat 44 12 then none else sideTrap .atomic false 6 (relAddr r)
    | _, none => none

/-- COPYF (R314). -/
def planFlagged (s : State) (x : Xfer) (v : List Dword) : Plan :=
  let x : Xfer := { x with dst := v.getD 0 0, src := v.getD 1 0 }
  let n := x.len
  let src : Place := ⟨x.sideScr, x.src⟩
  { poison := none, reserved := ctlBad x (maskLen ||| maskSS)
    access := [s.sideAccess src n .copyRead false, s.sideAccess ⟨false, x.dst⟩ n .copyWrite true,
      if crosses s.mem.own x.dst n then sideTrap .copyWrite false 6 x.dst else none, s.flagPackage x]
    align := [], bound := [s.sideBound src n .copyRead]
    xfer := { x with pieces := runCount x.dst.toNat n } }

/-- RRED (R316). -/
def planReduce (s : State) (x : Xfer) (v : List Dword) : Plan :=
  let x : Xfer := { x with dst := v.getD 0 0, src := v.getD 1 0 }
  let n := x.len
  let src : Place := ⟨x.sideScr, x.src⟩
  let op := redOf (natField x.ctl.toNat 38 2) (natField x.ctl.toNat 36 2)
  let size := (op.map fun o => redSize o.1).getD 1
  { poison := none, reserved := ctlBad x (maskLen ||| maskSS ||| 0xF000000000) || op.isNone
    access := [s.sideAccess src n .copyRead false, s.sideAccess ⟨false, x.dst⟩ n .copyWrite true,
      if crosses s.mem.own x.dst n then sideTrap .copyWrite false 6 x.dst else none]
    align := [
      if n % size ≠ 0 ∨ x.src.toNat % size ≠ 0 then some (memTrap causeAlign .copyRead x.sideScr 0 x.src) else none,
      if x.dst.toNat % size ≠ 0 then some (memTrap causeAlign .copyWrite false 0 x.dst) else none]
    bound := [s.sideBound src n .copyRead]
    xfer := { x with pieces := runCount x.dst.toNat n } }

/-- The channel, kind and plan of a transfer word. -/
def planOf (ctl : Dword) : Instr → Option (Bool × Chan × XferKind × (State → Xfer → List Dword → Plan))
  | .copyIn _ _ _ _ _ ch => some (false, ch, .copy, planCopy)
  | .copytIn _ _ _ _ _ ch => some (false, ch, .copyt, planShape false)
  | .copym _ _ _ _ _ ch => some (false, ch, .copym, planMulti)
  | .copya _ tile _ _ _ => some (false, ctl.extractLsb' 23 2, .copya, fun s x v => planAdd tile s x (v.drop 1))
  | .gath _ _ _ _ _ ch => some (false, ch, .gath, planIndexed false)
  | .rloadb _ _ _ _ _ ch => some (false, ch, .rloadb, planRemoteLoad)
  | .stread _ _ _ _ _ ch => some (false, ch, .stread, planStore false)
  | .netrd _ _ _ _ _ ch => some (false, ch, .netrd, planNet false)
  | .copyOut _ _ _ _ _ ch => some (true, ch, .copy, planCopy)
  | .copytOut _ _ _ _ _ ch => some (true, ch, .copyt, planShape true)
  | .scat _ _ _ _ _ ch => some (true, ch, .scat, planIndexed true)
  | .copyf _ _ _ _ ch => some (true, ch, .copyf, planFlagged)
  | .rred _ _ _ _ _ ch => some (true, ch, .rred, planReduce)
  | .stwrite _ _ _ _ _ ch => some (true, ch, .stwrite, planStore true)
  | .netwr _ _ _ _ _ ch => some (true, ch, .netwr, planNet true)
  | _ => none

/-- A transfer of the context in focus that an image holds and the context does not (R368): planned anew from its word and operands. -/
def State.replan (s : State) (word : Word) (dst src ctl : Dword) (rel : Option Dword) (exportOk : Bool) : Option Xfer :=
  match decodeWord word 0 with
  | .error _ => none
  | .ok i => (planOf ctl i).map fun k =>
    let x := (k.2.2.2 s (Xfer.blank s.ctx.inst k.1 k.2.1 k.2.2.1 word ctl rel exportOk) [dst, src]).xfer
    match rel with
    | none => x
    | some r =>
      if relFlag r then x else { x with name := some (s.relName s.ctx.regs.domain r) }

/-- COPY.in (R259). -/
def execCopyIn (t : Tok) (d a b : SReg) (rel : Bool) (ch : Chan) (s : State) : Outcome :=
  transfer false t (.copyIn t d a b rel ch) [d, a] b rel (inMod ch) .copy none planCopy s
/-- COPYT.in (R260). -/
def execCopytIn (t : Tok) (d a b : SReg) (rel : Bool) (ch : Chan) (s : State) : Outcome :=
  transfer false t (.copytIn t d a b rel ch) [d, a] b rel (inMod ch) .copyt none (planShape false) s
/-- COPYM (R263). -/
def execCopym (t : Tok) (d a b : SReg) (rel : Bool) (ch : Chan) (s : State) : Outcome :=
  transfer false t (.copym t d a b rel ch) [d, a] b rel (inMod ch) .copym none planMulti s
/-- COPYA (R264): its channel lies in sB. -/
def execCopya (t : Tok) (tile : TileNo) (a b : SReg) (rel : Bool) (s : State) : Outcome :=
  transfer false t (.copya t tile a b rel) [a] b rel (fun c => c.extractLsb' 23 2) .copya (some tile) (planAdd tile) s
/-- GATH (R265). -/
def execGath (t : Tok) (d a b : SReg) (rel : Bool) (ch : Chan) (s : State) : Outcome :=
  transfer false t (.gath t d a b rel ch) [d, a] b rel (inMod ch) .gath none (planIndexed false) s
/-- PREF (R266): it writes no visible state. -/
def execPref (t : Tok) (a b : SReg) (s : State) : Outcome :=
  ctxWord .L t 1 (fun _ s => s.ungated fun _ => s.cleanAll [a, b] fun v =>
    if (v.getD 1 0).extractLsb' 32 32 != 0 then .trap (wordTrap causeReserved (Instr.firstWord (.pref t a b))) s
    else match s.sideAccess ⟨false, v.getD 0 0⟩ 0 .copyRead false with
      | some tr => .trap tr s
      | none => .done false s) s
/-- RLOADB (R267). -/
def execRloadb (t : Tok) (d a b : SReg) (rel : Bool) (ch : Chan) (s : State) : Outcome :=
  transfer false t (.rloadb t d a b rel ch) [d, a] b rel (inMod ch) .rloadb none planRemoteLoad s
/-- STREAD (R268). -/
def execStread (t : Tok) (d a b : SReg) (rel : Bool) (ch : Chan) (s : State) : Outcome :=
  transfer false t (.stread t d a b rel ch) [d, a] b rel (inMod ch) .stread none (planStore false) s
/-- NETRD (R269). -/
def execNetrd (t : Tok) (d a b : SReg) (rel : Bool) (ch : Chan) (s : State) : Outcome :=
  transfer false t (.netrd t d a b rel ch) [d, a] b rel (inMod ch) .netrd none (planNet false) s
/-- COPY.out (R259). -/
def execCopyOut (t : Tok) (d a b : SReg) (rel : Bool) (ch : Chan) (s : State) : Outcome :=
  transfer true t (.copyOut t d a b rel ch) [d, a] b rel (inMod ch) .copy none planCopy s
/-- COPYT.out (R260). -/
def execCopytOut (t : Tok) (d a b : SReg) (rel : Bool) (ch : Chan) (s : State) : Outcome :=
  transfer true t (.copytOut t d a b rel ch) [d, a] b rel (inMod ch) .copyt none (planShape true) s
/-- SCAT (R265). -/
def execScat (t : Tok) (d a b : SReg) (rel : Bool) (ch : Chan) (s : State) : Outcome :=
  transfer true t (.scat t d a b rel ch) [d, a] b rel (inMod ch) .scat none (planIndexed true) s
/-- COPYF (R314). -/
def execCopyf (t : Tok) (d a b : SReg) (ch : Chan) (s : State) : Outcome :=
  transfer true t (.copyf t d a b ch) [d, a] b true (inMod ch) .copyf none planFlagged s
/-- RRED (R316). -/
def execRred (t : Tok) (d a b : SReg) (rel : Bool) (ch : Chan) (s : State) : Outcome :=
  transfer true t (.rred t d a b rel ch) [d, a] b rel (inMod ch) .rred none planReduce s
/-- STWRITE (R268). -/
def execStwrite (t : Tok) (d a b : SReg) (rel : Bool) (ch : Chan) (s : State) : Outcome :=
  transfer true t (.stwrite t d a b rel ch) [d, a] b rel (inMod ch) .stwrite none (planStore true) s
/-- NETWR (R269). -/
def execNetwr (t : Tok) (d a b : SReg) (rel : Bool) (ch : Chan) (s : State) : Outcome :=
  transfer true t (.netwr t d a b rel ch) [d, a] b rel (inMod ch) .netwr none (planNet true) s

end Sys2Proof.Machine
end

