-- ==== Sys2Proof/Machine/System.lean ====
section
/-!
DEFINITION. System registers: GETS and SETS (R38 to R42, R146), and the events that stand for a write to one (R164, R168,
R256, R320, R361).
-/

namespace Sys2Proof.Machine

/-! Reading (R41) -/

/-- ERRQ_STAT (R320). -/
def Ctx.errqStat (c : Ctx) : Nat := c.regs.ovf.toNat * 2 ^ 15 + c.regs.phovr.toNat * 2 ^ 14 + c.errq.length
/-- CTX_STATE (R361). -/
def Ctx.stateReg (c : Ctx) : Nat :=
  c.regs.ptok.toNat * 256 + c.regs.drain.toNat * 8 + c.regs.hold.toNat * 4 + c.regs.frozen.toNat * 2 + c.regs.trapped.toNat

/-- IEEE_FLAGS (R78): bits [7:6] read 0. -/
def Ctx.ieee (c : Ctx) : Flags := c.regs.flags &&& 0x3F

/-- A per-context register (R41): none where the directory assigns no such number. -/
def Ctx.reg (c : Ctx) (time : Dword) (n : SysNum) : Option Dword :=
  let r := c.regs
  match n.toNat with
  | 0x000 => some c.id
  | 0x001 => some (BitVec.ofNat 64 r.slip)
  | 0x002 => some (r.tokCeil.setWidth 64)
  | 0x003 => some (r.tokInit.setWidth 64)
  | 0x004 => some (r.domain.setWidth 64)
  | 0x005 => some (r.remain.setWidth 64)
  | 0x006 => some (c.ieee.setWidth 64)
  | 0x007 => some ((match c.lfsrSets.getLast? with
      | some x => x.2
      | none => r.lfsr).setWidth 64)
  | 0x008 => some (BitVec.ofNat 64 r.mpref)
  | 0x010 => some (BitVec.ofNat 64 (c.chan false 0).mark)
  | 0x011 => some (BitVec.ofNat 64 (c.chan false 1).mark)
  | 0x012 => some (BitVec.ofNat 64 (c.chan false 2).mark)
  | 0x013 => some (BitVec.ofNat 64 (c.chan false 3).mark)
  | 0x014 => some (BitVec.ofNat 64 (c.chan true 0).mark)
  | 0x015 => some (BitVec.ofNat 64 (c.chan true 1).mark)
  | 0x016 => some (BitVec.ofNat 64 (c.chan true 2).mark)
  | 0x017 => some (BitVec.ofNat 64 (c.chan true 3).mark)
  | 0x018 => some time
  | 0x020 => some (BitVec.ofNat 64 c.errqStat)
  | 0x021 => some (c.errq.headD 0)
  | 0x028 => some (BitVec.ofNat 64 (r.refuse * 2 ^ 48 + r.stallCycles))
  | 0x100 => some (BitVec.ofNat 64 c.stateReg)
  | 0x101 => some (r.prio.setWidth 64)
  | 0x102 => some (BitVec.ofNat 64 r.exportOk.toNat)
  | 0x103 => some (BitVec.ofNat 64 (r.root.toNat * 8192))
  | 0x104 => some (BitVec.ofNat 64 (r.trapAddr.toNat * 256 + r.trapEn.toNat))
  | _ => none

/-- A register outside the contexts (R41); FSPLIT reads the split that the banks are adopting (R164) (DEDUCED, log 46). -/
def State.packageReg (s : State) (n : SysNum) : Option Dword :=
  let die := n.toNat / 256 - 8
  match n.toNat with
  | 0x200 => some (s.thr.target.setWidth 64)
  | 0x201 => some (BitVec.ofNat 64 s.thr.num)
  | 0xC00 => some (s.har.preemptMargin.setWidth 64)
  | 0xC01 => some (s.har.drainLimit.setWidth 64)
  | 0xC02 => some (s.har.gangWindow.setWidth 64)
  | 0xC03 => some (s.net.switchTimeout.setWidth 64)
  | k =>
    let d := s.mem.dieOf (die * 3)
    if 0x800 ≤ k ∧ k < 0xC00 then
      (if k % 256 = 0 then some (BitVec.ofNat 64 ((if d.busy then d.newSlots else d.slots) + d.busy.toNat * 2 ^ 31))
       else if k % 256 = 1 then some (d.auto.setWidth 64) else none)
    else none

/-- The directory assigns the number (R41). -/
def assigned (n : SysNum) : Bool :=
  let k := n.toNat
  decide (k ≤ 8) || decide (0x010 ≤ k ∧ k ≤ 0x018) || k == 0x020 || k == 0x021 || k == 0x028 || decide (0x100 ≤ k ∧ k ≤ 0x104) ||
    k == 0x200 || k == 0x201 || (decide (0x800 ≤ k ∧ k < 0xC00) && decide (k % 256 ≤ 1)) || decide (0xC00 ≤ k ∧ k ≤ 0xC03)

/-- The register's access is RO (R41). -/
def readOnly (n : SysNum) : Bool := [0x000, 0x002, 0x003, 0x010, 0x011, 0x012, 0x013, 0x014, 0x015, 0x016, 0x017, 0x018, 0x021, 0x028, 0x201].contains n.toNat

/-! Writing (R146) -/

/-- Drops what a stream's unfinished word has done so far. -/
def Ctx.forget (c : Ctx) (e : StreamId) : Ctx :=
  let c := { c with issued := c.issued.filter (·.e != e), leaves := c.leaves.filter (·.e != e), sees := c.sees.filter (·.1 != e) }
  match e with
  | .V => { c with vplan := none, prog := { c.prog with velem := 0 } }
  | .M => { c with slices := [], prog := { c.prog with mslice := 0, miter := 0, mflags := 0 }, held := [] }
  | .Y => { c with signalled := false, phAnswer := none, phSent := false }
  | _ => c

/-- SKIP (R361): the failing stream moves past its failing word, once, where it stands at it. -/
def Ctx.skip (c : Ctx) : Ctx :=
  match c.regs.trapped, c.record with
  | true, some r => match r.eng with
    | none => c
    | some e =>
      if r.size = 0 then c
      else { (c.onStream e (·.advance r.size)).forget e with record := some { r with size := 0 } }
  | _, _ => c

/-- The grant of a word that a SKIP of the context passes ends (R423), and so does its wait for a phaser's home. -/
def State.skipGrant (s : State) (inst : Nat) : State :=
  match s.findCtx inst with
  | none => s
  | some c => match c.regs.trapped, c.record with
    | true, some r => match r.eng with
      | none => s
      | some e => if r.size = 0 then s else
        (if e = .Y then s.detachPhaser inst false else s).endGrant (dieOfCore c.core) (c.leaveHeld e)
    | _, _ => s

/-- The clamped window of SLIP_WINDOW (R93). -/
def clampSlip (v : Dword) : Nat := max 64 (min (natField v.toNat 0 17) 65536)
/-- DEPTH of M_PREFETCH (R234). -/
def clampDepth (v : Dword) : Nat := max 1 (min (natField v.toNat 0 5) 16)
/-- STATE of LFSR_SEED (R76). -/
def seedOf (v : Dword) : Word := if v.extractLsb' 0 32 = 0 then 1 else v.extractLsb' 0 32

/-- A write to a per-context register that has no action on other units; POP and the RW1C bits act here (R320). -/
def Ctx.setReg (c : Ctx) (n : SysNum) (v : Dword) : Ctx :=
  let r := c.regs
  match n.toNat with
  | 0x001 => { c with regs := { r with slip := clampSlip v } }
  | 0x004 => { c with regs := { r with domain :=
      let d : BitVec 3 := v.extractLsb' 0 3
      if d = 0 ∨ d = 6 ∨ d = 7 then r.domain else d } }
  | 0x005 => { c with regs := { r with remain := v.extractLsb' 0 48 } }
  | 0x006 => { c with regs := { r with flags := r.flags &&& ~~~(v.extractLsb' 0 8) } }
  | 0x007 => { c with lfsrSets := [], regs := { r with lfsr := seedOf v } }
  | 0x008 => { c with regs := { r with mpref := clampDepth v } }
  | 0x020 =>
    { c with
      errq := if v.getLsbD 8 then c.errq.drop 1 else c.errq
      regs := { r with ovf := r.ovf && !v.getLsbD 15, phovr := r.phovr && !v.getLsbD 14 } }
  | 0x100 =>
    let c := ({ c with regs := { r with ptok := v.extractLsb' 8 8, hold := v.getLsbD 2 } } : Ctx).retry
    if v.getLsbD 6 then c.skip else c
  | 0x101 => { c with regs := { r with prio := v.extractLsb' 0 2 } }
  | 0x102 => { c with regs := { r with exportOk := v.getLsbD 0 } }
  | 0x103 => { c with regs := { r with root := v.extractLsb' 13 43 } }
  | 0x104 => { c with regs := { r with trapAddr := v.extractLsb' 8 48, trapEn := v.getLsbD 0 } }
  | _ => c

/-- S writes a register of its context (R40, R76): streams behind it keep the old value. -/
def Ctx.setOwn (c : Ctx) (time : Dword) (n : SysNum) (v : Dword) : Ctx :=
  if n = 0x007 ∧ !c.streams.v.inact then { c with lfsrSets := c.lfsrSets ++ [(c.streams.s.pos, seedOf v)] }
  else
    let keep := n = 0x001 ∨ n = 0x004 ∨ n = 0x008
    let hist := if keep then (c.sysHist ++ [(c.streams.s.pos, n, (c.reg time n).getD 0)]).filter fun h => c.lagging.any fun q => decide (q ≤ h.1)
      else c.sysHist
    { c.setReg n v with sysHist := hist }

/-- A context in which the words of M and Y under way go on with the value of a register that they have seen (R40). -/
def Ctx.latch (c : Ctx) (time : Dword) (n : SysNum) : Ctx :=
  let add := fun (l : List (StreamId × SysNum × Dword)) (e : StreamId) =>
    if c.underWay e && (c.held? e n).isNone then match c.seen e n ((c.reg time n).getD 0) with
      | .ok v => l ++ [(e, n, v)]
      | .error _ => l
    else l
  if n = 0x004 ∨ n = 0x008 ∨ n = 0x103 then { c with sees := add (add c.sees .M) .Y } else c

/-- Harius writes a register of a context (R40): it takes effect for every stream at that stream's next word. A stream that has yet to pass
an earlier SETS of the register sees Harius's value from then on (DESIGN CHOICE, log 61). ABANDON acts on the transfers that are suspended
before the write, which may let the context run again (R361). -/
def State.setCtxReg (s : State) (inst : Nat) (n : SysNum) (v : Dword) : State :=
  let s := if n = 0x100 ∧ v.getLsbD 6 then s.skipGrant inst else s
  let s := if n = 0x100 ∧ v.getLsbD 5 then { s.abandonAll inst with agent := s.agent } else s
  s.onCtx inst fun c => { (c.latch s.pkg.time n).setReg n v with sysHist := c.sysHist.filter fun h => h.2.1 != n }

/-- A write to a register outside the contexts (R164, R167, R324, R348, R365, R373). -/
def State.setPackageReg (s : State) (n : SysNum) (v : Dword) : State :=
  let die := n.toNat / 256 - 8
  match n.toNat with
  | 0x200 => { s with thr := { s.thr with target := v.extractLsb' 0 32 &&& 0x1FFF } }
  | 0xC00 => { s with har := { s.har with preemptMargin := v.extractLsb' 0 8 } }
  | 0xC01 => { s with har := { s.har with drainLimit := v.extractLsb' 0 48 } }
  | 0xC02 => { s with har := { s.har with gangWindow := BitVec.ofNat 32 (max 1000 (natField v.toNat 0 32)) } }
  | 0xC03 => { s with net := { s.net with switchTimeout := v.extractLsb' 0 6 }, out := s.out ++ [.switchTimeout (v.extractLsb' 0 6)] }
  | k =>
    if 0x800 ≤ k ∧ k < 0xC00 then
      (if k % 256 = 0 then { s with mem := s.mem.writeSplit die v }
       else if k % 256 = 1 then { s with mem := s.mem.onDie die fun d => { d with auto := v.extractLsb' 0 8 &&& 0xF1 } } else s)
    else s

/-! The words -/

/-- A number that lies in the contexts' space. -/
def perContext (n : SysNum) : Bool := decide (n.toNat < 0x200)

/-- The fates of R39, in their order, before the value is read: `write` marks SETS. -/
def State.sysFate (s : State) (i : Instr) (n : SysNum) (write : Bool) : Option Trap :=
  if !assigned n then some (wordTrap causeReserved (Instr.firstWord i))
  else if s.agent != .thread && decide (0x100 ≤ n.toNat) then some (whyTrap 11)
  else if write && readOnly n then some (whyTrap 11)
  else none

/-- On a thread, TARGET must name a context for its registers to be reached (R39, R348). -/
def State.sysContext (s : State) : Option Ctx :=
  match s.agent with
  | .thread => s.target
  | .stream _ => some s.ctx

/-- On S, a GETS or SETS of IEEE_FLAGS issues once every earlier S word has written its destination (R146). -/
def State.flagsWait (s : State) (n : SysNum) : Bool := s.agent != .thread && n == 0x006 && !s.ctx.loads.isEmpty

/-- GETS (R146). -/
def execGets (t : Tok) (d : SReg) (n : SysNum) (s : State) : Outcome :=
  anyWord .S t 1 (fun _ s =>
    match s.sysFate (.gets t d n) n false with
    | some tr => .trap tr s
    | none => if s.flagsWait n then .wait 11 s else s.writable d fun _ =>
      if perContext n then match s.sysContext with
        | none => .trap (whyTrap 12) s
        | some c => .done false (s.writeS d ⟨(c.reg s.pkg.time n).getD 0, false⟩)
      else .done false (s.writeS d ⟨(s.packageReg n).getD 0, false⟩)) s

/-- SETS (R146). -/
def execSets (t : Tok) (d : SReg) (n : SysNum) (s : State) : Outcome :=
  anyWord .S t 1 (fun _ s =>
    match s.sysFate (.sets t d n) n true with
    | some tr => .trap tr s
    | none => if s.flagsWait n then .wait 11 s else s.clean d 3 fun v =>
      match s.agent with
      | .stream _ => .done false { s with ctx := s.ctx.setOwn s.pkg.time n v }
      | .thread =>
        if perContext n then match s.target with
          | none => .trap (whyTrap 12) s
          | some c => .done false (s.setCtxReg c.inst n v)
        else .done false (s.setPackageReg n v)) s

/-! Events -/

/-- HRBASE, HRLEN and HRTAIL of BAR 0, by offset (R420). -/
def PkgSt.hostReg (p : PkgSt) (off : SysNum) (v : Dword) : Option PkgSt :=
  match off.toNat with
  | 0x020 => some { p with hrbase := v &&& ~~~(0x3F : Dword) }
  | 0x028 => some { p with hrlen := v }
  | 0x038 => some { p with hrtail := v }
  | _ => none

/-- REGISTER_WRITE (R146): a write by a Harius thread to a register of context c, or of the package where c is 0; there, the
numbers 0x020, 0x028 and 0x038 are the host's writes at these offsets of BAR 0 (R420). -/
def execRegisterWrite (c : Nat) (n : SysNum) (v : Dword) (s : State) : Outcome :=
  .next (match (if c = 0 then s.pkg.hostReg n v else none) with
    | some p => { s with pkg := p }
    | none => if !assigned n || readOnly n then s else if perContext n then s.setCtxReg c n v else s.setPackageReg n v)
/-- FSPLIT_WRITE (R164). -/
def execFsplitWrite (die : BitVec 2) (v : Dword) (s : State) : Outcome := .next { s with mem := s.mem.writeSplit die.toNat v }
/-- The bank words that waited for a die's split have been accepted: pushes are applied, other packages get their answers (R101, R177). -/
def State.banksAccepted (s : State) (die : Nat) : State :=
  let take := fun (c : Ctx) => c.bankDone fun b => b.req.isNone && dieOfStack (paStack b.addr) == die
  { s with
    ctx := take s.ctx
    others := s.others.map take
    out := s.out ++ ((s.mem.dieOf (3 * die)).heldPromotes.filterMap (·.reply)).map fun p => .reply p .accept }

/-- FSPLIT_ADOPT (R168). -/
def execFsplitAdopt (die : BitVec 2) (s : State) : Outcome :=
  .next (if (s.mem.dieOf (3 * die.toNat)).busy then { s.banksAccepted die.toNat with mem := s.mem.adoptSplit die.toNat } else s)
/-- AUTO_PROMOTION (R167): a hot row enters its bank's list as a PROMOTE. -/
def execAutoPromotion (bank row : Nat) (s : State) : Outcome :=
  .next (if s.mem.hot bank row then { s with mem := s.mem.promote (rowAddr bank row) } else s)
/-- PROMOTE_EPOCH (R167): activation counts restart. -/
def execPromoteEpoch (die : BitVec 2) (s : State) : Outcome := .next { s with mem := s.mem.onDie die.toNat fun d => { d with acts := [] } }
/-- ERRQ_POP (R320). -/
def execErrqPop (c : Nat) (s : State) : Outcome := .next (s.onCtx c fun c => { c with errq := c.errq.drop 1 })
/-- CTX_SKIP (R361). -/
def execCtxSkip (c : Nat) (s : State) : Outcome := .next ((s.skipGrant c).onCtx c Ctx.skip)
/-- CTX_ABANDON (R256, R361). -/
def execCtxAbandon (c : Nat) (s : State) : Outcome := .next { s.abandonAll c with agent := s.agent }
/-- CTX_HOLD (R361). -/
def execCtxHold (c : Nat) (on : Bool) (s : State) : Outcome := .next (s.onCtx c fun c => ({ c with regs := { c.regs with hold := on } } : Ctx).retry)
/-- LEASE_EXPIRE (R172): the ingress lease of a line ends; its data already stands in the die cache. -/
def execLeaseExpire (line : Nat) (s : State) : Outcome := .next { s with mem := { s.mem with leases := s.mem.leases.filter (· != line) } }

end Sys2Proof.Machine
end

