-- ==== Sys2Proof/Machine/Sync.lean ====
section
/-!
DEFINITION. The Y words (R271 to R306).
-/

namespace Sys2Proof.Machine

/-- The agent is a Harius thread. -/
def State.isThread (s : State) : Bool :=
  match s.agent with
  | .thread => true
  | .stream _ => false
/-- The party in focus (R274): its number, and its name. -/
def State.partyId (s : State) : Nat := if s.isThread then s.thr.num else s.ctx.inst
/-- The party in focus. -/
def State.me (s : State) : Party := s.party s.isThread s.partyId
/-- Its registrations (R274). -/
def State.myRegs (s : State) : List Registration := if s.isThread then s.thr.phasers else s.ctx.phasers
/-- Changes its registrations. -/
def State.setMyRegs (s : State) (l : List Registration) : State :=
  if s.isThread then { s with thr := { s.thr with phasers := l } } else { s with ctx := { s.ctx with phasers := l } }
/-- Removes a registration from its record. -/
def State.forget (s : State) (n : PhaserName) : State := s.setMyRegs (s.myRegs.filter (·.name != n))

/-! Handles and scopes (R271, R273, R280) -/

/-- The trap of a phaser cause (R280); `flags` are bits 30 and 31 of DETAIL. -/
def phTrap (cause : Byte) (num home scope flags : Nat) : Trap := Trap.withDetail cause (num + home * 2 ^ 16 + scope * 2 ^ 26 + flags * 2 ^ 30)
/-- The same for a resolved name. -/
def nameTrap (cause : Byte) (n : PhaserName) (flags : Nat) : Trap :=
  phTrap cause n.num.toNat (if n.scope = 5 then n.at_ else 0) n.scope.toNat flags

/-- The scope of a Y word: its mod, or DOMAIN for 000 on a context (R271). -/
def State.wordScope (s : State) (m : Scope3) : Except (BitVec 4) Scope3 :=
  if m ≠ 0 then .ok m else if s.isThread then .ok 0 else s.domainSeen .Y

/-- Resolves a handle (R271, R273). -/
def State.phaserName (s : State) (scope : Scope3) (h : Dword) : Except Trap PhaserName :=
  let num := natField h.toNat 0 16
  let home := natField h.toNat 16 10
  if s.isThread && scope != 4 && scope != 5 then .error (phTrap causePhScope num home scope.toNat 0)
  else if scopeCapacity scope ≤ num ∨ h.extractLsb' 26 38 ≠ 0 ∨ (scope ≠ 5 ∧ home ≠ 0) then .error (phTrap causeRange num home scope.toNat 0)
  else .ok ⟨scope, scopeAt scope s.ctx.core home, BitVec.ofNat 16 num⟩

/-! Drains and L1 actions (R281 to R285, R289) -/

/-- Every memory word below Y's position has been performed, a PROMOTE or DEMOTE once its bank has taken it and an array word of M once it has
completed: what goes to another package counts once it is sent, at system scope
once its target has accepted it (R281); one that was refused or muted is answered too, so that nothing hangs (R311). -/
def State.drained (s : State) (sys : Bool) : Bool :=
  let c := s.ctx
  let q := c.streams.y.pos
  c.streams.y.mems.all (fun p => (c.stream p.2).inact || decide (p.1 < (c.stream p.2).pos)) &&
    c.banks.all (fun b => b.req.isSome || decide (q ≤ b.pos)) && c.jobs.all (fun j => decide (q ≤ j.pos)) &&
    (!sys || s.net.wires.all fun w => w.muted || match w.origin with
      | .store i p | .sload i p | .bank i p => i != c.inst || decide (q ≤ p)
      | _ => true)

/-- The regions that the context has bound to an object. -/
def Ctx.boundTo (c : Ctx) (o : BindObj) : List Binding := c.bindings.filter (·.obj == o)

/-- The L1 action of a release of an object: dirty bytes of bound regions are written back (R285). -/
def State.releaseL1 (s : State) (o : BindObj) : State :=
  { s with mem := s.mem.l1ForEach s.ctx.core (fun x => (s.ctx.boundTo o).any fun b => x.overlaps s.ctx.asid b.base.toNat b.len) Memory.l1Clean }
/-- The L1 action of an acquire: such lines are invalidated, dirty bytes first written back. -/
def State.acquireL1 (s : State) (o : BindObj) : State :=
  { s with mem := s.mem.l1ForEach s.ctx.core (fun x => (s.ctx.boundTo o).any fun b => x.overlaps s.ctx.asid b.base.toNat b.len) Memory.l1Evict }

/-- A thread's earlier words are performed, but for the PROMOTEs that a die holds while its split changes (R168, R448). -/
def State.threadDrained (s : State) : Bool := s.mem.dies.toList.all fun d => d.heldPromotes.all fun h => h.thread != some s.thr.num

/-- A drain (R289): a thread has no L1, and waits for its held PROMOTEs alone; a context waits for its memory words. -/
def State.drain (s : State) (scope : Scope3) (k : State → Res) : Res :=
  if (if s.isThread then s.threadDrained else s.drained (scope == 5)) then k s else .wait 10 s
/-- The release's action for a phaser wider than core scope. -/
def State.releasePh (s : State) (n : PhaserName) : State := if s.isThread || n.scope == 1 then s else s.releaseL1 (.phaser n)
/-- The acquire's action for a phaser wider than core scope. -/
def State.acquirePh (s : State) (n : PhaserName) : State := if s.isThread || n.scope == 1 then s else s.acquireL1 (.phaser n)

/-! Asking a holder in another package (R273, R279) -/

/-- The answer that has arrived for the party in focus. -/
def State.answer (s : State) : Option Reply := if s.isThread then s.thr.phAnswer else s.ctx.phAnswer
/-- Takes the answer. -/
def State.clearAnswer (s : State) : State :=
  if s.isThread then { s with thr := { s.thr with phAnswer := none } } else { s with ctx := { s.ctx with phAnswer := none, phSent := false } }
/-- Y's word has been sent; a wait is open as long as its phase has not come. -/
def State.noteSent (s : State) (ev : PhaserEv) : State := if s.isThread || ev == .wait then s else { s with ctx := { s.ctx with phSent := true } }
/-- The number under which an answer finds the party: threads are counted from 1. -/
def State.whoWaits (s : State) : Nat := if s.isThread then s.thr.num + 1 else s.ctx.inst

/-- Sends a phaser word to its home and waits for the answer; a silent or unreachable home gives a mute reply (R326, R412). -/
def State.askHome (s : State) (n : PhaserName) (ev : PhaserEv) (k : State → Reply → Res) : Res :=
  let mute := fun (r : BitVec 2) => k (s.countMute (s.homeOf n)) (.mute r)
  match s.answer with
  | some r => k s.clearAnswer r
  | none =>
    if s.net.wires.any fun w => !w.muted && match w.origin with
      | .phaser who _ th _ => who == s.whoWaits && th == s.isThread
      | _ => false then .wait 10 s
    else if s.mem.silent s.pkg (s.homeOf n) then mute 3
    else if !s.pkg.linked then mute 2
    else .wait 10 ((s.sendPhaser s.whoWaits s.isThread s.asid n s.me ev).noteSent ev)

/-- The cause and phase of a holder's answer. -/
def replyAns : Reply → HolderAns
  | .phaser c ph => if c = 0 then .done ph else .fault c ph.toNat
  | _ => .fault causeNotReg 0

/-- Hands an event to the holder of a phaser, here or in its home; `onMute` is the fate of a mute reply. -/
def State.hold (s : State) (n : PhaserName) (ev : PhaserEv) (here : List Phaser → List Phaser × HolderAns) (onMute : State → Res)
    (k : State → HolderAns → Res) : Res :=
  if s.homeOf n = s.mem.own then
    let r := here s.har.phasers
    k { s with har := { s.har with phasers := r.1 } } r.2
  else s.askHome n ev fun s r => match r with
    | .mute _ => onMute s
    | r => match replyAns r with
      | .fault c more => k (if c = causeNotReg ∨ (c = causeFret ∧ more = 0) then s.forget n else s) (.fault c more)
      | a => k s a

/-- A mute reply to a signal, drop, expectation or registration: an entry, and the word completes (R279) (DEDUCED, log 22). -/
def State.mutedWord (s : State) (n : PhaserName) : State := s.phaserErr s.isThread s.partyId s.asid 3 n

/-- POISON_FRET of a wait on a poisoned phaser (R279). -/
def poisonedPhaser : Trap := fretTrap 4 0 0 none

/-- The trap of a holder's refusal. -/
def refusal (n : PhaserName) (cause : Byte) (more : Nat) : Trap :=
  if cause = causeFret then poisonedPhaser
  else nameTrap cause n (if cause ≠ causeFull then 0 else if more = 1 then 2 else if more = 2 then 1 else 0)

/-- A phaser word: its handle, scope and name (R271, R292). -/
def phaserWord (a : SReg) (m : Scope3) (more : List SReg) (body : State → PhaserName → List Dword → Res) (s : State) : Outcome :=
  anyWord .Y Tok.none 1 (fun _ s =>
    s.cleanAll (a :: more) fun vs => match s.wordScope m with
      | .error c => .wait c s
      | .ok scope => match s.phaserName scope (vs.getD 0 0) with
        | .error t => .trap t s
        | .ok n => body s n (vs.drop 1)) s

/-- The party's own registration on a name. -/
def State.myReg (s : State) (n : PhaserName) : Option Registration := s.myRegs.find? (·.name == n)

/-- How many registrations a party may hold (R274). -/
def State.regLimit (s : State) : Nat := if s.isThread then 4 else 16

/-- PHREG (R294) (DEDUCED, log 22). A thread's `.wait` or `.sigwait` traps ILLEGAL_INSTRUCTION after the reserved bits of the word have been checked: R294
does not say that it belongs to step 2 of R33 (DESIGN CHOICE, log 66). -/
def execPhreg (mode : BitVec 2) (a : SReg) (m : Scope3) (s : State) : Outcome :=
  if s.isThread && modeWait mode then anyWord .Y Tok.none 1 (fun _ s => .trap (wordTrap causeIllegal (Instr.firstWord (.phreg mode a m))) s) s
  else phaserWord a m [] (fun s n _ =>
    if (s.myReg n).isSome then .trap (nameTrap causeRegistered n 0) s
    else if s.regLimit ≤ s.myRegs.length then .trap (nameTrap causeFull n 0) s
    else s.hold n (.register mode) (fun l => holdRegister l n s.asid s.me mode) (fun s => .done false (s.mutedWord n)) fun s r => match r with
      | .fault c f => .trap (refusal n c f) s
      | .held => .wait 10 s
      | .done ph => .done false (s.setMyRegs (s.myRegs ++ [⟨n, mode, ph, ph⟩]))) s

/-- A fault that a holder of this package would answer, before anything is done (R280); of a phaser of another package the party's
own record tells whether its mode lacks what the word needs. -/
def State.preCheck (s : State) (n : PhaserName) (sig wait_ : Bool) : Option Trap :=
  if s.homeOf n ≠ s.mem.own then
    if (s.myReg n).any fun r => (sig && !modeSig r.mode) || (wait_ && !modeWait r.mode) then some (nameTrap causeNotReg n 0) else none
  else match holdLookup s.har.phasers n s.asid s.me with
    | .error (.fault c f) => some (refusal n c f)
    | .error _ => none
    | .ok (_, r) => if (sig && !modeSig r.mode) || (wait_ && !modeWait r.mode) then some (nameTrap causeNotReg n 0) else none

/-- PHDROP (R276, R295): a signaller's drop drains and releases (DEDUCED, log 22). -/
def execPhdrop (a : SReg) (m : Scope3) (s : State) : Outcome :=
  phaserWord a m [] (fun s n _ =>
    match s.preCheck n false false with
    | some t => .trap t s
    | none =>
      let sig := (s.myReg n).any fun r => modeSig r.mode
      let go := fun (s : State) =>
        s.hold n .drop (fun l => holdDrop l n s.asid s.me) (fun s => .done false ((s.mutedWord n).forget n)) fun s r => match r with
          | .fault c f => .trap (refusal n c f) s
          | .held => .wait 10 s
          | .done _ => .done false (s.forget n)
      if sig then s.drain n.scope fun s => go (s.releasePh n) else go s) s

/-- The registrant's SPH or WPH moves on in its own record (R274). -/
def State.bump (s : State) (n : PhaserName) (sig : Bool) : State :=
  s.setMyRegs (s.myRegs.map fun r => if r.name = n then (if sig then { r with sph := r.sph + 1 } else { r with wph := r.wph + 1 }) else r)

/-- Drains, releases and sends one signal (R296), that of PHNEXT (R297) or of PHSIG, then goes on. -/
def State.signal (s : State) (n : PhaserName) (next : Bool) (k : State → Res) : Res :=
  s.drain n.scope fun s =>
    (s.releasePh n).hold n (if next then .next else .signal) (fun l => (if next then holdNext else holdSignal) l n s.asid s.me)
      (fun s => k (s.mutedWord n)) fun s r => match r with
      | .fault c f => .trap (refusal n c f) s
      | .held => .wait 10 s
      | .done _ => k (s.bump n true)

/-- PHSIG (R296). -/
def execPhsig (a : SReg) (m : Scope3) (s : State) : Outcome :=
  phaserWord a m [] (fun s n _ => match s.preCheck n true false with
    | some t => .trap t s
    | none => s.signal n false (.done false)) s

/-- Y's wait at its word has begun: PHNEXT has signalled, or a turn has left Y at this word with STALL 10. -/
def State.waitOpen (s : State) : Bool := !s.isThread && (s.ctx.signalled || s.ctx.streams.y.stall == 10)

/-- Waits for the next phase, then acquires (R275, R297). -/
def State.waitPhase (s : State) (n : PhaserName) : Res :=
  s.hold n .wait (fun l => holdWait s.waitOpen l n s.asid s.me) (fun s => .trap poisonedPhaser s) fun s r => match r with
    | .fault c f => .trap (refusal n c f) s
    | .held => .wait 10 s
    | .done _ => .done false ((s.bump n false).acquirePh n)

/-- PHWAIT (R297). -/
def execPhwait (a : SReg) (m : Scope3) (s : State) : Outcome :=
  phaserWord a m [] (fun s n _ =>
    if s.homeOf n ≠ s.mem.own ∧ (s.myReg n).any (fun r => !modeWait r.mode) then .trap (nameTrap causeNotReg n 0) s else s.waitPhase n) s

/-- PHNEXT (R297): the signal once, then the wait. -/
def execPhnext (a : SReg) (m : Scope3) (s : State) : Outcome :=
  phaserWord a m [] (fun s n _ =>
    let go := fun (s : State) => match ({ s with ctx := { s.ctx with signalled := true } }).waitPhase n with
      | .done d s => Res.done d { s with ctx := { s.ctx with signalled := false } }
      | r => r
    if s.ctx.signalled then go s
    else match (findPhaser s.har.phasers n).filter (fun p => s.homeOf n == s.mem.own && p.asid == s.asid && p.poisoned) with
      | some _ => .trap poisonedPhaser s
      | none => match s.preCheck n true true with
        | some t => .trap t s
        | none => s.signal n true go) s

/-- PHEXPB (R298). -/
def execPhexpb (a b : SReg) (m : Scope3) (s : State) : Outcome :=
  phaserWord a m [b] (fun s n vs =>
    let bytes := vs.getD 0 0
    s.hold n (.expect bytes) (fun l => holdExpect l n s.asid s.me bytes) (fun s => .done false (s.mutedWord n)) fun s r => match r with
      | .fault c f => .trap (refusal n c f) s
      | .held => .wait 10 s
      | .done _ => .done false s) s

/-- PHQ's record address (R299): form 00 on a context, form 01 on a thread, a multiple of 64. -/
def State.queryPlace (s : State) (a : Dword) : Except Trap ScrPlace :=
  let bad := Except.error (memTrap causeAccess .load true 2 a)
  match scrForm a, s.isThread with
  | .own _, false => s.scratch a .load 64 64
  | .package _ _, true => s.scratch a .load 64 64
  | _, _ => bad

/-- Writes PHQ's record. -/
def State.writeQuery (s : State) (p : ScrPlace) (l : List Byte) (poison : Bool) : State := { s with mem := s.mem.scrWrite p.core p.off l poison }

/-- PHQ (R299): a snapshot at the holder; a mute reply gives zeros but for SCOPE, poisoned (R279). -/
def execPhq (a b : SReg) (m : Scope3) (s : State) : Outcome :=
  phaserWord a m [b] (fun s n vs =>
    match s.queryPlace (vs.getD 0 0) with
    | .error t => .trap t s
    | .ok p =>
      if s.homeOf n = s.mem.own then
        if (findPhaser s.har.phasers n).any fun q => q.asid != s.asid then .trap (nameTrap causePhAsid n 0) s
        else .done false (s.writeQuery p (holdQuery s.har.phasers n s.me) false)
      else s.askHome n .query fun s r => match r with
        | .data l _ => .done false (s.writeQuery p l false)
        | .phaser c _ => .trap (refusal n c 0) s
        | _ => .done false (s.writeQuery p (holdQuery [] n s.me) true)) s

/-! Bindings (R300, R301) -/

/-- The object of a binding (R300): reserved bits and bad codes, then a flag's package and alignment. -/
def State.bindObj (s : State) (w : Word) (v : Dword) : Except (Except (BitVec 4) Trap) BindObj :=
  let res := Except.error (Except.ok (wordTrap causeReserved w))
  if v.extractLsb' 56 6 ≠ 0 then res
  else match v.toNat / 2 ^ 62 with
    | 1 =>
      let sc : Scope3 := v.extractLsb' 26 3
      if v.extractLsb' 29 27 ≠ 0 ∨ 5 < sc.toNat then res
      else
        let mk := fun (k : Scope3) => BindObj.phaser ⟨k, scopeAt k s.ctx.core (natField v.toNat 16 10), v.extractLsb' 0 16⟩
        if sc ≠ 0 then .ok (mk sc) else match s.domainSeen .Y with
          | .error c => .error (.error c)
          | .ok k => .ok (mk k)
    | 2 =>
      let a := relAddr v
      match s.sideAccess ⟨false, a⟩ 8 .load false with
      | some t => .error (.ok t)
      | none => if a.toNat % 8 ≠ 0 then .error (.ok (memTrap causeAlign .load false 0 a)) else .ok (.flag ((globalForm s.mem.own a).getD 0))
    | _ => res

/-- BIND (R300): the checks in the order of the rule's list. -/
def execBind (d a b : SReg) (s : State) : Outcome :=
  ctxWord .Y Tok.none 1 (fun _ s => s.cleanAll [d, a, b] fun vs =>
    let w := Instr.firstWord (.bind d a b)
    let base := vs.getD 1 0
    let len := (vs.getD 2 0).toNat
    match s.bindObj w (vs.getD 0 0) with
    | .error (.error c) => .wait c s
    | .error (.ok t) => .trap t s
    | .ok obj => match globalForm s.mem.own base with
        | none => .trap (memTrap causeAccess .load false 1 base) s
        | some va =>
          if 2 ^ 40 < len then .trap (wordTrap causeReserved w) s
          else if 2 ^ 44 < natField va.toNat 0 44 + len then .trap (memTrap causeAccess .load false 6 base) s
          else if len = 0 then .done false s
          else if 16 ≤ s.ctx.bindings.length then .trap (memTrap causeAccess .load false 10 base) s
          else .done false { s with ctx := { s.ctx with bindings := s.ctx.bindings ++ [⟨obj, va, len⟩] } }) s

/-- UNBIND and UNBIND.all (R301). -/
def execUnbind (a : SReg) (all : Bool) (s : State) : Outcome :=
  ctxWord .Y Tok.none 1 (fun _ s =>
    if all then .done false { s with ctx := { s.ctx with bindings := [] } }
    else s.cleanAll [a] fun vs =>
      let va := globalForm s.mem.own (vs.getD 0 0)
      .done false { s with ctx := { s.ctx with bindings := s.ctx.bindings.filter fun b => some b.base != va } }) s

/-! Fences and waits (R289, R302 to R306) -/

/-- FENCE (R289, R302): `fl` bit 0 acquires, bit 1 releases. -/
def execFence (fl : BitVec 2) (m : Scope3) (s : State) : Outcome :=
  anyWord .Y Tok.none 1 (fun _ s => match s.wordScope m with
    | .error c => .wait c s
    | .ok scope => s.drain scope fun s =>
      if s.isThread || scope == 1 then .done false s
      else
        let mem := if fl.getLsbD 1 then s.mem.l1CleanAll s.ctx.core else s.mem
        .done false { s with mem := if fl.getLsbD 0 then mem.l1EvictAll s.ctx.core else mem }) s

/-- A stream has passed a trace position (R303). -/
def Ctx.past (c : Ctx) (e : StreamId) (q : Nat) : Bool := (c.stream e).inact || decide (q < (c.stream e).pos)

/-- WAITW (R303). -/
def execWaitw (b : SReg) (w : Bool) (ch : Chan) (s : State) : Outcome :=
  ctxWord .Y Tok.none 1 (fun _ s => s.cleanAll [b] fun vs =>
    let v := vs.getD 0 0
    if v.extractLsb' 32 32 ≠ 0 then .trap (wordTrap causeReserved (Instr.firstWord (.waitw b w ch))) s
    else if !s.ctx.past (if w then .W else .L) s.ctx.streams.y.pos then .wait 10 s
    else
      let c := s.ctx.chan w ch
      if min v.toNat (c.next - 1) ≤ c.mark then .done false s else .wait 10 s) s

/-- WAITF (R304): the flag at its die cache. -/
def execWaitf (a b : SReg) (s : State) : Outcome :=
  ctxWord .Y Tok.none 1 (fun _ s => s.cleanAll [a, b] fun vs =>
    let x := vs.getD 0 0
    match s.sideAccess ⟨false, x⟩ 8 .load false with
    | some t => .trap t s
    | none => match s.access x .load 8 with
      | (s, .error t) => .trap t s
      | (s, .ok g) =>
        if s.remote g then .trap (memTrap causeAccess .load false 1 x) s
        else
          let r := s.siteRead g 8
          let s : State := { s with mem := s.mem.endLeases g.phys.off 8 }
          if r.2 then .trap (fretTrap 5 0 7 (some x)) s
          else if (vs.getD 1 0).toNat ≤ r.1 then .done false (s.acquireL1 (.flag g.va)) else .wait 10 s) s

/-- WAITT (R305). -/
def execWaitt (b : SReg) (s : State) : Outcome :=
  ctxWord .Y Tok.none 1 (fun _ s => s.cleanAll [b] fun vs =>
    if (vs.getD 0 0).toNat ≤ s.pkg.time.toNat then .done false s else .wait 10 s) s

/-- YLEAVE (R306): one grant for the next n words that would ask, which begins its coverage. -/
def execYleave (n : BitVec 5) (s : State) : Outcome :=
  ctxWord .Y Tok.none 1 (fun _ s =>
    match s.ctx.leaves.find? (·.e == .Y) with
    | none => .wait 9 (s.coverAsk n.toNat).leaveWait
    | some r =>
      if r.granted then .done false { s with ctx := (s.ctx.leaveTaken .Y).coverGrant s.ctx.streams.y.pos n.toNat r.milliwatts }
      else .wait 9 s.leaveWait) s

/-! Events -/

/-- TIME_NS_REACHED (R305): the package clock has reached a value; it never falls (R386). -/
def execTimeNsReached (ns : Dword) (s : State) : Outcome :=
  .next (if s.pkg.time.toNat < ns.toNat then { s with pkg := { s.pkg with time := ns } } else s)

end Sys2Proof.Machine
end

