-- ==== Sys2Proof/Machine/Tasks.lean ====
section
/-!
DEFINITION. The task and peg words of Harius (R375 to R379, R381, R382) and the form that every N word shares.
-/

namespace Sys2Proof.Machine

/-! The form of an N word (R34, R375, R397) -/

/-- Runs an N word: on a compute core S traps at it; on a thread a poisoned operand is a fret. -/
def nWord (i : Instr) (srcs : List SReg) (body : State → List Dword → Res) (s : State) : Outcome :=
  match s.agent with
  | .stream .S => s.sTrap 1 (wordTrap causeEngine (Instr.firstWord i))
  | .stream _ => .fault .notOwner
  | .thread => threadWord 1 (fun s => s.cleanAll srcs fun vs => body s vs) s

/-- A bad field (R375). -/
def badField (i : Instr) (s : State) : Res := .trap (wordTrap causeReserved (Instr.firstWord i)) s

/-- Reads n bytes of a record at a physical address that must be aligned. -/
def State.nBytes (s : State) (a : Dword) (n align : Nat) (kind : AKind) (k : State → Phys → List (Byte × Bool) → Res) : Res :=
  match s.physRange a n with
  | .error 1 => .trap (memTrap causeAccess kind false 1 a) s
  | r =>
    if a.toNat % align ≠ 0 then .trap (memTrap causeAlign kind false 0 a) s
    else match r with
      | .error w => .trap (memTrap causeAccess kind false w a) s
      | .ok p => k { s with mem := s.mem.endLeases p.off n } p (s.physRead p n)

/-- Reads a record whose poison is a fret (R330). -/
def State.nRecord (s : State) (a : Dword) (n align : Nat) (k : State → Phys → Nat → Res) : Res :=
  s.nBytes a n align .load fun s p l => if anyPoison l then .trap (fretTrap 1 0 7 (some a)) s else k s p (valueOf l)

/-- A number that must fit in n bits. -/
def fits (v : Dword) (n : Nat) : Bool := decide (v.toNat < 2 ^ n)

/-! The pegboard (R350, R376) -/

/-- An entry image keeps the limits of R350. -/
def entryOk (x : Nat) : Bool :=
  natField x 74 5 == 0 && natField x 89 2 != 3 && natField x 92 4 == 0 && natField x 238 2 == 0 && natField x 240 16 != 0

/-- Installs an entry. -/
def Har.arm (h : Har) (i : Nat) (e : BitVec 256) : Har := { h with entries := (i, e) :: h.entries.filter (·.1 != i) }

/-- NARM (R376). -/
def execNarm (a b : SReg) (s : State) : Outcome :=
  nWord (.narm a b) [a, b] (fun s vs =>
    let i := vs.getD 0 0
    if !fits i 16 then badField (.narm a b) s
    else s.nRecord (vs.getD 1 0) 32 32 fun s _ x =>
      if entryOk x then .done false { s with har := s.har.arm i.toNat (BitVec.ofNat 256 x) } else badField (.narm a b) s) s

/-- The arrivals that an entry has taken and that have not passed step 4 of R19. -/
def Net.atEntry (n : Net) (i : Nat) : List Nat :=
  n.inflows.filterMap fun f => match f.work with
    | .deposit k _ _ => if k = i then some f.id else none
    | _ => none

/-- NDISARM (R376): the entry goes at once; the word ends when every arrival that it has taken has passed step 4. -/
def execNdisarm (d a : SReg) (s : State) : Outcome :=
  nWord (.ndisarm d a) [a] (fun s vs =>
    let i := vs.getD 0 0
    if !fits i 16 then badField (.ndisarm d a) s
    else
      let (was, ids) := s.thr.disarm.getD (s.har.entries.any (·.1 == i.toNat), s.net.atEntry i.toNat)
      let s : State := if s.thr.disarm.isSome then s else { s with har := { s.har with entries := s.har.entries.filter (·.1 != i.toNat) } }
      if s.net.inflows.any fun f => ids.contains f.id then .wait 0 { s with thr := { s.thr with disarm := some (was, ids) } }
      else .done false (({ s with thr := { s.thr with disarm := none } } : State).writeS d ⟨BitVec.ofNat 64 was.toNat, false⟩)) s

/-! Peg words (R377) -/

/-- A field of a peg. -/
def Peg.field (p : Peg) : PegField → Dword
  | .cnt => p.count
  | .thr => p.thresh
  | .act => p.action
  | .opd => p.operand

/-- Writes a field of a peg. -/
def Peg.put (p : Peg) (v : Dword) : PegField → Peg
  | .cnt => { p with count := v }
  | .thr => { p with thresh := v }
  | .act => { p with action := v }
  | .opd => { p with operand := v }

/-- PEGSET (R354, R377). -/
def execPegset (a b : SReg) (f : PegField) (s : State) : Outcome :=
  nWord (.pegset a b f) [a, b] (fun s vs =>
    let i := vs.getD 0 0
    let v := vs.getD 1 0
    if !fits i 14 || (f == .act && !actionOk v) then badField (.pegset a b f) s
    else .done false (({ s with har := s.har.setPeg i.toNat ((s.har.peg i.toNat).put v f) }).pegEval i.toNat)) s

/-- PEGADD (R354, R377). -/
def execPegadd (d a b : SReg) (s : State) : Outcome :=
  nWord (.pegadd d a b) [a, b] (fun s vs =>
    let i := vs.getD 0 0
    if !fits i 14 then badField (.pegadd d a b) s
    else
      let old := (s.har.peg i.toNat).count
      .done false ((s.pegAdd i.toNat (vs.getD 1 0)).writeS d ⟨old, false⟩)) s

/-- PEGRD (R377). -/
def execPegrd (d a : SReg) (f : PegField) (s : State) : Outcome :=
  nWord (.pegrd d a f) [a] (fun s vs =>
    let i := vs.getD 0 0
    if !fits i 14 then badField (.pegrd d a f) s
    else .done false (s.writeS d ⟨(s.har.peg i.toNat).field f, false⟩)) s

/-! Launches (R357, R378, R379) -/

/-- NLAUNCH (R378). -/
def execNlaunch (d a b : SReg) (s : State) : Outcome :=
  nWord (.nlaunch d a b) [a, b] (fun s vs =>
    let asid := vs.getD 1 0
    if !fits asid 12 then badField (.nlaunch d a b) s
    else s.nRecord (vs.getD 0 0) 16 16 fun s _ x =>
      let l : BitVec 128 := BitVec.ofNat 128 x
      if !launchOk l then badField (.nlaunch d a b) s
      else match s.accept l (asid.setWidth 12) .word none with
        | (s, some n) => .done false (s.writeS d ⟨BitVec.ofNat 64 n, false⟩)
        | (s, none) => .trap (whyTrap 13) s) s

/-- The record of gang member i (R379): Z is i. -/
def gangRecord (l : BitVec 128) (i : Nat) : BitVec 128 :=
  (l &&& ~~~(0xFFFF <<< 44 : BitVec 128)) ||| (BitVec.ofNat 128 (i % 65536) <<< 44)

/-- Launches the own package's member of a gang; a refusal raises ACTION_FAULT (R357). -/
def State.gangLocal (s : State) (l : BitVec 128) (asid : Asid) (origin : Pkg) (g : Nat) : State :=
  match s.accept l asid .word (some (origin, g)) with
  | (s, some _) => s
  | (s, none) => s.actionFault asid .word (.access 13 0)

/-- Sends the members of a gang their records (DEDUCED, log 28). -/
def State.sendGang (s : State) (g : Nat) (l : BitVec 128) (asid : Asid) (members : List Pkg) : State :=
  members.zipIdx.foldl (fun s (m : Pkg × Nat) =>
    if m.1 = s.mem.own then s.gangLocal (gangRecord l m.2) asid s.mem.own g
    else if s.mem.silent s.pkg m.1 then s
    else { s with out := s.out ++ [.gangMember m.1 g (gangRecord l m.2) asid] }) s

/-- A list has no repeats. -/
def distinct {α : Type} [BEq α] : List α → Bool
  | [] => true
  | x :: xs => !xs.contains x && distinct xs

/-- The gang slots that are free (R379). -/
def Har.freeGangs (h : Har) : List Nat := (upTo 64).filter fun i => h.gangs.all fun g => g.id != i

/-- Draws one of n outcomes that the spec allows (R8) (DESIGN CHOICE, log 3). -/
def State.choose (s : State) (n : Nat) : Nat × State := (Config.choice s.fresh % n, { s with fresh := s.fresh + 1 })

/-- NGANG (R373, R374, R379) (DEDUCED, log 28). -/
def execNgang (d a b : SReg) (s : State) : Outcome :=
  nWord (.ngang d a b) [a, b] (fun s vs =>
    let at_ := vs.getD 0 0
    let asid := vs.getD 1 0
    if !fits asid 12 then badField (.ngang d a b) s
    else s.nRecord at_ 32 32 fun s _ x =>
      let l : BitVec 128 := BitVec.ofNat 128 x
      let n := natField x 128 16
      if !launchOk l || n == 0 || decide (1024 < n) || !pegIndexOk (natField x 144 16) || natField x 160 96 != 0 then badField (.ngang d a b) s
      else s.nRecord (at_ + 32) (2 * n) 2 fun s _ y =>
        let ms := (upTo n).map fun i => natField y (16 * i) 16
        if ms.any (fun m => decide (1024 ≤ m)) || !distinct ms then badField (.ngang d a b) s
        else if s.mem.asidState s.pkg (asid.setWidth 12) != 1 || (s.typeEntry (launchType l)).isNone then .trap (whyTrap 13) s
        else if s.har.freeGangs.isEmpty then .done false (s.writeS d ⟨BitVec.allOnes 64, false⟩)
        else
          let (i, s) : Nat × State := s.choose s.har.freeGangs.length
          let g := s.har.freeGangs.getD i 0
          let members : List Pkg := ms.map fun m => BitVec.ofNat 10 m
          let asid : Asid := asid.setWidth 12
          let gang : Gang := ⟨g, l, asid, members, [], BitVec.ofNat 16 (natField x 144 16), s.pkg.time + s.har.gangWindow.setWidth 64⟩
          let s : State := { s with har := { s.har with gangs := s.har.gangs ++ [gang] } }
          .done false ((s.sendGang g l asid members).writeS d ⟨BitVec.ofNat 64 g, false⟩)) s

/-! Freezing (R381) -/

/-- Sets or clears FROZEN. -/
def Ctx.freeze (c : Ctx) (on : Bool) : Ctx := ({ c with regs := { c.regs with frozen := on } } : Ctx).retry

/-- Every word that a context has issued has completed (R107). -/
def State.stilled (s : State) (c : Ctx) : Bool := !c.unsettled && c.held.isEmpty && !s.quartet.any (fun q => q.inst == c.inst)

/-- NFREEZE (R381): it completes once the streams have stopped. -/
def execNfreeze (s : State) : Outcome :=
  nWord .nfreeze [] (fun s _ => match s.target with
    | none => .trap (whyTrap 12) s
    | some c =>
      let t := s.onCtx c.inst (·.freeze true)
      if s.stilled c then .done false t else .wait 0 t) s

/-- NTHAW (R381). -/
def execNthaw (s : State) : Outcome :=
  nWord .nthaw [] (fun s _ => match s.target with
    | none => .trap (whyTrap 12) s
    | some c => if c.regs.frozen then .done false (s.onCtx c.inst (·.freeze false)) else .trap (whyTrap 12) s) s

/-! Translations (R156, R382) -/

/-- A held translation is dropped (DESIGN CHOICE, log 4). -/
def mapDrops (op : MapOp) (a : Dword) (asid : Asid) (e : TlbEntry) : Bool :=
  match op with
  | .page => e.asid == asid && decide (e.page ≤ a.toNat % 2 ^ 56 / 65536) && decide (a.toNat % 2 ^ 56 / 65536 < e.page + e.span)
  | .asid => e.asid == asid
  | .all => true

/-- The requests on the wire that used a translation which an NMAP drops (R382): those of the dropped entries' pages and of sA's own. -/
def State.mapUses (s : State) (op : MapOp) (a : Dword) (asid : Asid) : List Nat :=
  let page := a.toNat % 2 ^ 56 / 65536
  let gone := s.mem.tlb.filter fun e => mapDrops op a asid e
  let inPage := fun (q : Nat) => q == page || gone.any fun e => decide (e.page ≤ q) && decide (q < e.page + e.span)
  (s.net.wires.filter fun w => w.kind.isSome && w.kind != some .probe && !w.muted && match op with
    | .all => true
    | .asid => w.asid == asid
    | .page => w.asid == asid && inPage (w.addr.toNat / 65536)).map (·.id)

/-- Accesses that used a dropped translation have not been performed (R382): requests on the wire, and words of V or of banks under way
in an address space whose translations go (DEDUCED, log 60). -/
def State.mapBusy (s : State) (op : MapOp) (asid : Asid) (ids : List Nat) : Bool :=
  (s.net.wires.any fun w => ids.contains w.id && !w.muted) ||
    s.ctxs.any fun c => (op == .all || c.asid == asid) && (c.vplan.isSome || !c.banks.isEmpty)

/-- NMAP (R382): the entries go at once; the word ends when what used them has been performed. -/
def execNmap (a b : SReg) (op : MapOp) (s : State) : Outcome :=
  nWord (.nmap a b op) [a, b] (fun s vs =>
    let x := vs.getD 0 0
    let y := vs.getD 1 0
    let bad := match op with
      | .page => !fits y 12
      | .asid => !fits y 12 || x != 0
      | .all => x != 0 || y != 0
    let asid : Asid := y.setWidth 12
    if bad then badField (.nmap a b op) s
    else if op != .all && s.mem.asidState s.pkg asid == 0 then .trap (whyTrap 13) s
    else if op == .page && (globalForm s.mem.own x).isNone then .trap (memTrap causeAccess .load false 1 x) s
    else
      let va : Dword := if op == .page then ((globalForm s.mem.own x).getD 0).setWidth 64 else x
      let ids := s.thr.maps.getD (s.mapUses op va asid)
      let s : State := if s.thr.maps.isSome then s else { s with mem := { s.mem with tlb := s.mem.tlb.filter fun e => !mapDrops op va asid e } }
      if s.mapBusy op asid ids then .wait 0 { s with thr := { s.thr with maps := some ids } }
      else
        let h := match op with
          | .asid => if s.mem.asidState s.pkg asid = 2 ∧ !s.har.mapped.contains asid then { s.har with mapped := asid :: s.har.mapped } else s.har
          | _ => s.har
        .done false { s with har := h, thr := { s.thr with maps := none } }) s

end Sys2Proof.Machine
end

