-- ==== Sys2Proof/Machine/Image.lean ====
section
/-!
DEFINITION. Room on a core (R21), the save area (R114), YIELD (R122), and the images of saved contexts (R368, R380).
-/

namespace Sys2Proof.Machine

/-! Room on a core (R21, R105) -/

/-- What a context, or a launch placed and not yet started, takes of its core. -/
structure Use where
  inst : Nat
  slot : Option Nat
  holdsSlot : Bool
  demand : Nat
  tiles : Nat
  base : Nat
  len : Nat
deriving DecidableEq, Repr

/-- Scratchpad bytes that an allocation reserves: the declared bytes and the save area (R114). -/
def reserved (scr : Nat) : Nat := scr + 20480

/-- What is taken of a core. -/
def State.uses (s : State) (core : Nat) : List Use :=
  (s.ctxs.filterMap fun c => if c.core ≠ core then none else match c.place with
    | .resident => some ⟨c.inst, some c.slot, true, c.demand, c.tiles, c.scrBase, reserved c.scrBytes⟩
    | .parked _ _ => some ⟨c.inst, none, false, 0, c.tiles, c.scrBase, reserved c.scrBytes⟩
    | _ => none) ++
  (s.har.tasks.filterMap fun t => match t.phase with
    | .placed k base => if k ≠ core then none else
        (s.typeEntry (launchType t.launch)).map fun e => ⟨t.inst, none, true, typeDemand e, typeTiles e, base, reserved (typeScr e)⟩
    | _ => none)

/-- The bases at which an allocation fits: multiples of 2,048 (R160) whose bytes are free (DESIGN CHOICE, log 11). -/
def freeBases (us : List Use) (scr : Nat) : List Nat :=
  ((upTo 1024).map (· * 2048)).filter fun b => decide (b + reserved scr ≤ scrSize) &&
    us.all fun u => decide (b + reserved scr ≤ u.base) || decide (u.base + u.len ≤ b)

/-- Slot and vector registers are free (R21, R105). -/
def hasSlot (us : List Use) (demand : Nat) : Bool :=
  decide ((us.filter (·.holdsSlot)).length < 4) && decide ((us.map (·.demand)).sum + demand ≤ 128)

/-- The bases that make a core eligible; none where it is not (R21). -/
def roomIn (us : List Use) (demand tiles scr : Nat) : List Nat :=
  if hasSlot us demand && decide ((us.map (·.tiles)).sum + tiles ≤ 96) then freeBases us scr else []

/-- The slots that no resident context of a core holds; the lowest is taken (R439) (DEDUCED, log 58). -/
def State.freeSlots (s : State) (core : Nat) : List Nat :=
  (upTo 4).filter fun i => (s.uses core).all fun u => u.slot != some i

/-- One of a list, where the spec lets any of them be taken (DESIGN CHOICE, log 3) (DESIGN CHOICE, log 11). -/
def State.pick (s : State) (l : List Nat) : Nat × State :=
  if l.length ≤ 1 then (l.headD 0, s)
  else
    let r : Nat × State := s.choose l.length
    (l.getD r.1 0, r.2)

/-! The save area (R114) -/

/-- A list of bytes brought to n bytes by zeros. -/
def padTo (n : Nat) (l : List Byte) : List Byte := (l ++ List.replicate (n - l.length) 0).take n

/-- A scalar register as a stream sees it. -/
def Ctx.view (c : Ctx) (e : StreamId) (i : Nat) : SVal :=
  match c.readS e (BitVec.ofNat 5 i) with
  | .ok v => v
  | .error _ => c.sf.getS (BitVec.ofNat 5 i)

/-- The vector registers of the save area. -/
def Ctx.areaV (c : Ctx) : List Byte := (upTo c.demand).flatMap fun i => natBytes 512 (c.getV (BitVec.ofNat 5 i)).v.toNat

/-- Bits of a test over n numbers. -/
def bitsOf (n : Nat) (f : Nat → Bool) : Nat := packNat 1 (fun i => (f i).toNat) n

/-- A decision FIFO entry (R114). -/
def Decision.bytes (d : Decision) (code : Dword) : List Byte :=
  natBytes 4 (d.taken.toNat + 2 * ((d.target - code).toNat / 4 % 2 ^ 31))

/-- The save area from 0x4000 on. -/
def Ctx.areaTail (c : Ctx) : List Byte :=
  ((upTo 32).flatMap fun i => natBytes 16 (c.getV (BitVec.ofNat 5 i)).p.toNat) ++
  ((upTo 7).flatMap fun i => natBytes 128 (c.getM (BitVec.ofNat 3 (i + 1))).v.toNat) ++
  ((upTo 8).flatMap fun i => natBytes 8 (c.sf.getB (BitVec.ofNat 3 i)).toNat) ++
  natBytes 4 c.tok.toNat ++ natBytes 4 0 ++
  natBytes 1 (bitsOf 8 fun i => (c.sf.getP (BitVec.ofNat 3 i)).v) ++ natBytes 1 (bitsOf 8 fun i => (c.sf.getP (BitVec.ofNat 3 i)).p) ++
  natBytes 2 0 ++ (streamOrder.flatMap fun e => natBytes 4 (bitsOf 32 fun i => (c.view e i).p)) ++
  natBytes 1 (bitsOf 8 fun i => (c.getM (BitVec.ofNat 3 i)).p) ++ natBytes 1 c.msel.toNat ++ natBytes 26 0 ++
  (streamOrder.flatMap fun e => (upTo 32).flatMap fun i => natBytes 8 (c.view e i).v.toNat) ++
  padTo 1024 ((c.fifo.take 256).flatMap fun d => d.bytes c.code)

/-- A little-endian field of a byte list. -/
def fieldAt (l : List Byte) (off n : Nat) : Nat := leNat ((l.drop off).take n)

/-- Stream e sees a scalar register with a value that an image gives it (R96). -/
def Ctx.setView (c : Ctx) (e : StreamId) (r : SReg) (v : SVal) : Ctx :=
  if r = 0 ∨ c.view e r.toNat = v then c
  else
    let q := (c.stream e).pos
    let below := fun (h : Nat × SReg × SVal) => decide (h.1 < q)
    { c with hist := c.hist.filter below ++ (q, r, v) :: c.hist.filter fun h => !below h }

/-- The streams other than S, the foremost first. -/
def Ctx.foremost (c : Ctx) : List StreamId :=
  (streamOrder.filter (· != .S)).foldl (fun l e => l.takeWhile (fun o => decide ((c.stream e).pos < (c.stream o).pos)) ++
    e :: l.dropWhile (fun o => decide ((c.stream e).pos < (c.stream o).pos))) []

/-- Reads a save area back: the registers of V, masks, b registers, predicates, tokens, each stream's view of the scalars, and the decisions
of the FIFO at the trace positions that are known for them (DESIGN CHOICE, log 31). -/
def Ctx.loadArea (c : Ctx) (l : List Byte) : Ctx :=
  let c := (upTo c.demand).foldl (fun (c : Ctx) i =>
    c.setV (BitVec.ofNat 5 i) ⟨BitVec.ofNat 4096 (fieldAt l (512 * i) 512), BitVec.ofNat 128 (fieldAt l (0x4000 + 16 * i) 16)⟩) c
  let c := (upTo 7).foldl (fun (c : Ctx) i =>
    c.setM (BitVec.ofNat 3 (i + 1)) ⟨BitVec.ofNat 1024 (fieldAt l (0x4200 + 128 * i) 128), (fieldAt l 0x45E4 1).testBit (i + 1)⟩) c
  let f := (upTo 8).foldl (fun (f : ScalarFile) i => f.setB (BitVec.ofNat 3 i) (BitVec.ofNat 64 (fieldAt l (0x4580 + 8 * i) 8))) c.sf
  let f := (upTo 8).foldl (fun (f : ScalarFile) i =>
    f.setP (BitVec.ofNat 3 i) ⟨(fieldAt l 0x45C8 1).testBit i, (fieldAt l 0x45C9 1).testBit i⟩) f
  let view := fun (k i : Nat) => (⟨BitVec.ofNat 64 (fieldAt l (0x4600 + 256 * k + 8 * i) 8), (fieldAt l (0x45CC + 4 * k) 4).testBit i⟩ : SVal)
  let f := (upTo 32).foldl (fun (f : ScalarFile) i => f.setS (BitVec.ofNat 5 i) (view 0 i)) f
  let c : Ctx := { c with
    sf := f, tok := BitVec.ofNat 32 (fieldAt l 0x45C0 4), msel := BitVec.ofNat 3 (fieldAt l 0x45E5 1)
    fifo := c.fifo.zipIdx.map fun d =>
      let x := fieldAt l (0x4C00 + 4 * d.2) 4
      { d.1 with taken := x.testBit 0, target := c.code + BitVec.ofNat 64 (x / 2 * 4) } }
  c.foremost.foldl (fun c e => (upTo 32).foldl (fun (c : Ctx) i => c.setView e (BitVec.ofNat 5 i) (view (streamOrder.idxOf e) i)) c) c

/-- Writes the save area of a context behind its scratchpad allocation. -/
def State.saveArea (s : State) (c : Ctx) : State :=
  let at_ := c.scrBase + c.scrBytes
  { s with mem := (s.mem.scrWrite c.core at_ c.areaV false).scrWrite c.core (at_ + 0x4000) c.areaTail false }

/-- Reads a context's save area. -/
def State.savedArea (s : State) (c : Ctx) : List Byte := s.mem.scrBytes c.core (c.scrBase + c.scrBytes) 20480

/-! YIELD (R122) -/

/-- The first word after YIELD that is not an L, M, V or W word, among n words from an address on (DEDUCED, log 29). -/
def State.waitAhead (s : State) : Nat → Dword → Option Instr
  | 0, _ => none
  | n + 1, a => match (s.codeAt a).2 with
    | .error _ => none
    | .ok (w, lit) =>
      let e := Engine.ofCode (Header.unpack w).eng
      if e == .L || e == .M || e == .V || e == .W then
        (if isWide w then match n with
          | 0 => none
          | m + 1 => s.waitAhead m (a + 8)
        else s.waitAhead n (a + 4))
      else match decodeWord w lit with
        | .ok i => some i
        | .error _ => none

/-- A clean scalar, as the streams that have met see it. -/
def State.met (s : State) (r : SReg) : Option Dword :=
  let v := s.ctx.sf.getS r
  if v.p then none else some v.v

/-- The wait of a Y word that would wait, if it is one of the four and its condition does not yet hold; with the word sent to a
phaser's home where that is another package. -/
def State.waitOf (s : State) (i : Instr) : Option (ParkWait × State) :=
  match i with
  | .phwait a m =>
    match s.met a, s.wordScope m with
    | some h, .ok scope => match s.phaserName scope h with
      | .error _ => none
      | .ok n =>
        if (s.myReg n).isNone then none
        else if s.homeOf n = s.mem.own then
          match holdWait false s.har.phasers n s.asid s.me with
          | (_, .held) => some (.phaser n, s)
          | _ => none
        else if s.mem.silent s.pkg (s.homeOf n) || !s.pkg.linked || s.answer.isSome then none
        else some (.phaser n, s.sendPhaser s.whoWaits false s.asid n s.me .wait)
    | _, _ => none
  | .waitw b w ch =>
    (s.met b).bind fun v =>
      let c := s.ctx.chan w ch
      let t := min v.toNat (c.next - 1)
      if v.extractLsb' 32 32 ≠ 0 ∨ t ≤ c.mark then none else some (.mark w ch t, s)
  | .waitf a b =>
    match s.met a, s.met b with
    | some x, some v => match s.access x .load 8 with
      | (_, .error _) => none
      | (_, .ok g) =>
        let r := s.siteRead g 8
        if s.remote g || r.2 || decide (v.toNat ≤ r.1) then none else some (.flag x v, s)
    | _, _ => none
  | .waitt b => (s.met b).bind fun v => if v.toNat ≤ s.pkg.time.toNat then none else some (.time v, s)
  | _ => none

/-- Parks the context in focus (R105, R114). -/
def State.park (s : State) (w : ParkWait) : State :=
  let s := (s.saveArea s.ctx).dropLeaves s.ctx.inst
  { s with ctx := { s.ctx with place := .parked w false } }

/-- YIELD (R122): a rendezvous; the context parks where the wait that follows does not yet hold. -/
def execYield (s : State) : Outcome :=
  ctlWord (fun s =>
    if !s.ctx.met then s.sWait 4
    else
      let y : State := { s with agent := .stream .Y }
      match (s.waitAhead 64 (s.ctx.streams.s.pc + 4)).bind y.waitOf with
      | none => .next { s with ctx := s.ctx.passAll }
      | some (w, t) =>
        let t : State := { t with agent := s.agent, ctx := t.ctx.passAll }
        .next (t.park w)) (illegalHere .yield) s

/-- A parked context's wait has come to its end: it holds, or would trap (R105). -/
def State.waitOver (s : State) (c : Ctx) (w : ParkWait) : Bool :=
  match w with
  | .phaser n =>
    if s.homeOf n = s.mem.own then match holdWait true s.har.phasers n c.asid (s.party false c.inst) with
      | (_, .held) => false
      | _ => true
    else c.phAnswer.isSome
  | .mark w ch t => decide (t ≤ (c.chan w ch).mark)
  | .flag x v =>
    match globalForm s.mem.own x with
    | none => true
    | some va => match (translate s.mem s.fresh (some c.core) c.asid c.regs.root va .load x).res with
      | .error _ => true
      | .ok p =>
        let r := s.physRead p 8
        decide (p.pkg ≠ s.mem.own.toNat) || anyPoison r || decide (v.toNat ≤ valueOf r)
  | .time ns => decide (ns.toNat ≤ s.pkg.time.toNat)

/-- Marks the parked contexts whose waits are over, in the order in which that comes about (R105). -/
def State.fireWaits (s : State) : State :=
  (s.ctxs.filterMap fun c => match c.place with
    | .parked w false => if s.waitOver c w then some (c.inst, w) else none
    | _ => none).foldl (fun s (x : Nat × ParkWait) =>
      let s := s.onCtx x.1 fun c => { c with place := .parked x.2 true }
      { s with har := { s.har with parkOrder := s.har.parkOrder ++ [x.1] } }) s

/-! Images (R368) -/

/-- The per-context registers in the directory's order (R41). -/
def imageRegs : List SysNum :=
  [0x000, 0x001, 0x002, 0x003, 0x004, 0x005, 0x006, 0x007, 0x008, 0x010, 0x011, 0x012, 0x013, 0x014, 0x015, 0x016, 0x017, 0x018,
   0x020, 0x021, 0x028, 0x100, 0x101, 0x102, 0x103, 0x104]

/-- A binding's object in R300's layout. -/
def BindObj.code : BindObj → Nat
  | .phaser n => 2 ^ 62 + n.scope.toNat * 2 ^ 26 + (if n.scope = 5 then n.at_ else 0) * 2 ^ 16 + n.num.toNat
  | .flag a => 2 ^ 63 + a.toNat

/-- A phaser's handle. -/
def PhaserName.handle (n : PhaserName) : Nat := n.num.toNat + (if n.scope = 5 then n.at_ else 0) * 65536

/-- Which streams stand at a word that has issued and stopped at a fault, one bit each, and in bit 6 whether PHNEXT has signalled (R113). -/
def Ctx.midMask (c : Ctx) : Nat :=
  (streamOrder.zipIdx.map fun e => if c.issued.any (·.e == e.1) then 2 ^ e.2 else 0).sum + (if c.signalled then 64 else 0)

/-- The 16 KiB context record (R368); the parts whose inner layout the manual leaves open are laid out as DESIGN CHOICE, log 31 says. -/
def Ctx.recordBytes (c : Ctx) (time : Dword) : List Byte :=
  natBytes 16 c.launch.toNat ++ natBytes 8 c.inst ++ natBytes 8 c.id.toNat ++
  (streamOrder.flatMap fun e => natBytes 8 (c.stream e).pc.toNat) ++ (streamOrder.flatMap fun e => natBytes 8 (c.stream e).pos) ++
  padTo 256 (imageRegs.flatMap fun n => natBytes 8 ((c.reg time n).getD 0).toNat) ++
  padTo 128 (c.errq.flatMap fun e => natBytes 8 e.toNat) ++
  padTo 512 (c.phasers.flatMap fun r => natBytes 8 r.name.handle ++ natBytes 8 (r.name.scope.toNat + r.mode.toNat * 256) ++
    natBytes 8 r.sph.toNat ++ natBytes 8 r.wph.toNat) ++
  padTo 512 (c.bindings.flatMap fun b => natBytes 8 b.obj.code ++ natBytes 8 b.base.toNat ++ natBytes 8 b.len ++ natBytes 8 0) ++
  (c.shadow.toList.flatMap fun l => padTo 32 (natBytes 4 l.a.toNat ++ natBytes 4 l.sa.toNat ++ natBytes 4 l.b.toNat ++
    natBytes 4 l.sb.toNat ++ natBytes 2 l.count.toNat ++ natBytes 1 l.step.toNat)) ++
  padTo 64 (natBytes 8 c.prog.miter ++ natBytes 8 c.prog.mslice ++ natBytes 8 c.streams.m.pc.toNat ++
    natBytes 8 c.prog.mflags.toNat ++ natBytes 8 c.prog.velem ++ natBytes 8 c.midMask) ++
  ((c.lch.toList ++ c.wch.toList).flatMap fun h => padTo 32 (natBytes 8 h.next ++ natBytes 8 h.mark)) ++
  padTo 8192 ((c.xfers.take 128).flatMap fun x => natBytes 8 x.word.toNat ++ natBytes 8 x.ref.id ++ natBytes 8 x.done ++
    natBytes 8 x.dst.toNat ++ natBytes 8 x.src.toNat ++ natBytes 8 x.ctl.toNat ++ natBytes 8 (x.rel.getD 0).toNat ++
    natBytes 8 (x.pfDue.toNat + x.pbDue.toNat * 2 + x.rel.isSome.toNat * 4 + x.exportOk.toNat * 8)) ++ List.replicate 6144 0

/-- Bytes of an image from the start of the scratchpad part. -/
def imageScr : Nat := 0x9000
/-- Bytes of an image (R368). -/
def Ctx.imageLen (c : Ctx) : Nat := imageScr + roundUp 4096 c.scrBytes + 16384 * c.tiles

/-- A tile as bytes with their poison: every sector of a poisoned row is poisoned. -/
def Tile.bytes (t : Tile) : List (Byte × Bool) :=
  (natBytes 16384 t.v.toNat).zipIdx.map fun x => (x.1, t.p.getLsbD (x.2 / 256))

/-- A tile from an image: a row is poisoned where any of its sectors is. -/
def Tile.ofBytes (l : List (Byte × Bool)) : Tile :=
  ⟨BitVec.ofNat 131072 (valueOf l), packBits fun r => anyPoison ((l.drop (256 * r)).take 256)⟩

/-- The image of a context. -/
def State.imageBytes (s : State) (c : Ctx) : List (Byte × Bool) :=
  cleanBytes (c.recordBytes s.pkg.time ++ padTo 16384 c.areaV ++ c.areaTail) ++
  s.mem.scrReadP c.core c.scrBase c.scrBytes ++ cleanBytes (List.replicate (roundUp 4096 c.scrBytes - c.scrBytes) 0) ++
  ((upTo c.tiles).flatMap fun i => (c.getA i).bytes)

/-- The registers of an image (DESIGN CHOICE, log 31). -/
def Ctx.loadRegs (c : Ctx) (l : List Byte) : Ctx :=
  let r := fun (i : Nat) => (BitVec.ofNat 64 (fieldAt l (0x80 + 8 * i) 8) : Dword)
  let st := r 21
  let lfsr := seedOf (r 7)
  let known := (c.lfsrSets.getLast?.map fun x => x.2).getD c.regs.lfsr == lfsr
  { c with
    lfsrSets := if known then c.lfsrSets else []
    regs := { c.regs with
    slip := clampSlip (r 1)
    tokCeil := (r 2).setWidth 32
    tokInit := (r 3).setWidth 32
    domain := (r 4).setWidth 3
    remain := (r 5).setWidth 48
    flags := (r 6).setWidth 8 &&& 0x3F
    lfsr := if known then c.regs.lfsr else lfsr
    mpref := clampDepth (r 8)
    ovf := (r 18).getLsbD 15
    phovr := (r 18).getLsbD 14
    refuse := natField (r 20).toNat 48 16
    stallCycles := natField (r 20).toNat 0 48
    ptok := st.extractLsb' 8 8
    drain := st.getLsbD 3
    frozen := st.getLsbD 1
    trapped := st.getLsbD 0
    prio := (r 22).setWidth 2
    exportOk := (r 23).getLsbD 0
    root := (r 24).extractLsb' 13 43
    trapAddr := (r 25).extractLsb' 8 48
    trapEn := (r 25).getLsbD 0 } }

/-- An image's trace positions. -/
def imagePositions (l : List Byte) : List Nat := (upTo 6).map fun k => fieldAt l (0x50 + 8 * k) 8

/-- What a context keeps beside its image: what streams have noted of the words that they have passed, older versions of registers, the trace
positions of decisions. It belongs to the image alone whose trace positions are those that the context was saved with; of any other image
the streams start from what it holds (DESIGN CHOICE, log 31). -/
def Ctx.notesFor (c : Ctx) (l : List Byte) : Ctx :=
  if imagePositions l = streamOrder.map (fun e => (c.stream e).pos) then c
  else { streamOrder.foldl (fun (c : Ctx) e => c.onStream e fun st =>
      { Stream.start st.pc with pos := st.pos }) c with
      hist := [], sysHist := [], lfsrSets := [], fifo := [], late := [], words := [], idle := [], sees := [], slices := [], covers := []
      failedWords := [] }

/-- The program counters, positions and error queue of an image, with the registers that lie beside them. -/
def Ctx.loadStreams (c : Ctx) (l : List Byte) : Ctx :=
  let c := streamOrder.zipIdx.foldl (fun (c : Ctx) e => c.onStream e.1 fun st =>
    { st with pc := BitVec.ofNat 64 (fieldAt l (0x20 + 8 * e.2) 8), pos := fieldAt l (0x50 + 8 * e.2) 8 }) c
  { c with
    launch := BitVec.ofNat 128 (fieldAt l 0 16)
    errq := ((upTo (min 16 (fieldAt l 0x110 8 % 32))).map fun i => BitVec.ofNat 64 (fieldAt l (0x180 + 8 * i) 8)) }

/-- A phaser of an image: below system scope it is the one of the core that the context was saved on. -/
def Ctx.imageName (c : Ctx) (scope : Scope3) (handle : Nat) : PhaserName :=
  let num := BitVec.ofNat 16 handle
  ((c.phasers.find? fun r => r.name.scope == scope && r.name.num == num && (scope != 5 || r.name.at_ == natField handle 16 10)).map (·.name)).getD
    ⟨scope, scopeAt scope c.core (natField handle 16 10), num⟩

/-- Registrations, bindings, nest levels, and the progress of M and of the words in whose middle streams stand, of an image (R368). -/
def Ctx.loadTables (c : Ctx) (l : List Byte) : Ctx :=
  let f := fun (o n : Nat) => fieldAt l o n
  let name := c.imageName
  let level := fun (k : Nat) => (⟨BitVec.ofNat 32 (f (0x600 + 32 * k) 4), BitVec.ofNat 32 (f (0x604 + 32 * k) 4), BitVec.ofNat 32 (f (0x608 + 32 * k) 4),
    BitVec.ofNat 32 (f (0x60C + 32 * k) 4), BitVec.ofNat 16 (f (0x610 + 32 * k) 2), BitVec.ofNat 8 (f (0x612 + 32 * k) 1)⟩ : NestLevel)
  { c with
    phasers := (upTo 16).filterMap fun k =>
      let w := f (0x208 + 32 * k) 8
      if w % 8 = 0 then none
      else some ⟨name (BitVec.ofNat 3 w) (f (0x200 + 32 * k) 8), BitVec.ofNat 2 (w / 256), BitVec.ofNat 64 (f (0x210 + 32 * k) 8), BitVec.ofNat 64 (f (0x218 + 32 * k) 8)⟩
    bindings := (upTo 16).filterMap fun k =>
      let w := f (0x400 + 32 * k) 8
      let len := f (0x410 + 32 * k) 8
      let obj := if w / 2 ^ 63 = 1 then BindObj.flag (BitVec.ofNat 56 w) else .phaser (name (BitVec.ofNat 3 (natField w 26 3)) w)
      if len = 0 then none else some ⟨obj, BitVec.ofNat 56 (f (0x408 + 32 * k) 8), len⟩
    shadow := ⟨#[level 0, level 1, level 2, level 3, level 4, level 5], rfl⟩
    prog := { miter := f 0x6C0 8, mslice := f 0x6C8 8, mflags := BitVec.ofNat 8 (f 0x6D8 8), velem := f 0x6E0 8 }
    issued := streamOrder.zipIdx.filterMap fun e => if (f 0x6E8 8).testBit e.2 then some ⟨e.1, Tok.none, none, false⟩ else none
    signalled := (f 0x6E8 8).testBit 6 }

/-- The suspended transfers of an image (R368). One that the context holds under the same word and operands goes on as it stands, from the
image's sector; of another the word is planned anew. -/
def State.imageXfers (s : State) (l : List Byte) : List Xfer :=
  (upTo 128).filterMap fun k =>
    let f := fun (i : Nat) => fieldAt l (0x800 + 64 * k + 8 * i) 8
    let d := fun (i : Nat) => (BitVec.ofNat 64 (f i) : Dword)
    let word : Word := BitVec.ofNat 32 (f 0)
    let rel := if (f 7).testBit 2 then some (d 6) else none
    let set := fun (x : Xfer) => { x with done := f 2, pfDue := (f 7).testBit 0, pbDue := (f 7).testBit 1, leave := 0, owed := [] }
    if f 1 = 0 then none
    else match s.ctx.xfers.find? fun x => x.ref.id == f 1 && x.word == word && x.dst == d 3 && x.src == d 4 && x.ctl == d 5 && x.rel == rel with
      | some x => some (set x)
      | none => (s.replan word (d 3) (d 4) (d 5) rel ((f 7).testBit 3)).map fun x =>
        set { x with ref := { x.ref with id := f 1 }, elem := f 2, started := false, fault := some (Trap.plain causePage) }

/-- A channel of an image (R368): its IDs above MARK that no suspended transfer holds have completed. -/
def Channel.fromImage (h : Channel) (next mark : Nat) (ids : List Nat) : Channel :=
  if h.next = next ∧ h.mark = mark then h
  else
    let above := ((upTo (next - mark - 1)).map (· + mark + 1)).filter fun i => !ids.contains i
    ⟨next, mark, above, h.landed.filter fun x => above.contains x.1⟩

/-- The channels of an image. -/
def Ctx.loadChans (c : Ctx) (l : List Byte) : Ctx :=
  let ch := fun (w : Bool) (k : Nat) (h : Channel) =>
    let o := 0x700 + 32 * (k + if w then 4 else 0)
    h.fromImage (fieldAt l o 8) (fieldAt l (o + 8) 8) ((c.xfers.filter fun x => x.ref.w == w && x.ref.ch.toNat == k).map (·.ref.id))
  { c with
    lch := ⟨#[ch false 0 c.lch[0], ch false 1 c.lch[1], ch false 2 c.lch[2], ch false 3 c.lch[3]], rfl⟩
    wch := ⟨#[ch true 0 c.wch[0], ch true 1 c.wch[1], ch true 2 c.wch[2], ch true 3 c.wch[3]], rfl⟩ }

/-- A word that S decides (R94). -/
def decides : Instr → Bool
  | .br .. | .brT .. | .brF .. | .brDnz .. | .brl .. | .brlT .. | .brlF .. | .brlDnz .. | .checkS .. | .checkP .. | .checkV .. | .checkM .. => true
  | _ => false

/-- The trace positions of the decisions of an image's FIFO, found along the text from the slowest stream on, for n positions. -/
def State.retrace (s : State) : Nat → Dword → Nat → List Decision → List Decision
  | 0, _, _, _ => []
  | n + 1, pc, q, ds =>
    if s.ctx.streams.s.pos ≤ q then []
    else match (s.codeAt pc).2 with
      | .error _ => []
      | .ok (w, lit) =>
        let k := wordSize w
        match decodeWord w lit, ds with
        | .ok i, d :: rest =>
          if decides i then { d with pos := q } :: s.retrace n (if d.taken then d.target else nextPc pc k) (q + k) rest
          else s.retrace n (nextPc pc k) (q + k) ds
        | _, _ => s.retrace n (nextPc pc k) (q + k) ds

/-- The FIFO of an image for whose trace positions the context has no notes. -/
def State.imageFifo (s : State) (l : List Byte) : List Decision :=
  let c := s.ctx
  let low := c.lagging.foldl min c.streams.s.pos
  let pc := ((streamOrder.find? fun e => (c.stream e).pos == low).map fun e => (c.stream e).pc).getD c.streams.s.pc
  s.retrace (c.streams.s.pos - low) pc low ((upTo 256).map fun i =>
    let x := fieldAt l (0x4C00 + 4 * i) 4
    ⟨0, x.testBit 0, c.code + BitVec.ofNat 64 (x / 2 * 4)⟩)

/-- A context as an image holds it, placed on a core: record, save area and tiles (R368). -/
def Ctx.fromImage (c : Ctx) (l : List (Byte × Bool)) (core slot base : Nat) : Ctx :=
  let bytes := (l.take imageScr).map (·.1)
  let c := ((((c.notesFor bytes).loadRegs bytes).loadStreams bytes).loadTables bytes).loadArea (bytes.drop 16384)
  let tiles := l.drop (imageScr + roundUp 4096 c.scrBytes)
  let c := (upTo c.tiles).foldl (fun (c : Ctx) i => c.setA i (Tile.ofBytes ((tiles.drop (16384 * i)).take 16384))) c
  { c with place := .resident, core := core, slot := slot, scrBase := base }

/-- The parts of an image that need its text and its scratchpad: transfers, channels and, for an older image, the places of its decisions. -/
def State.loadRest (s : State) (inst : Nat) (bytes : List Byte) (older : Bool) : State :=
  match s.focus inst with
  | none => s
  | some t =>
    let t : State := { t with agent := .stream .S }
    let fifo := if older then t.imageFifo (bytes.drop 16384) else t.ctx.fifo
    let xs := t.imageXfers bytes
    t.onCtx inst fun c => ({ c with fifo := fifo, xfers := xs } : Ctx).loadChans bytes

/-- The lines of a context's address space leave its core's L1, dirty bytes first written back (R288). -/
def State.leaveL1 (s : State) (inst : Nat) : State :=
  match s.findCtx inst with
  | none => s
  | some c => { s with mem := s.mem.l1ForEach c.core (fun x => x.asid == c.asid) Memory.l1Evict }

/-- Puts a saved context back on a core: its scratchpad bytes return with their poison, and error-queue entries that have arrived meanwhile
follow those of the image (R319). The core's L1 keeps no line of the address space from before (R288). -/
def State.reload (s : State) (c : Ctx) (l : List (Byte × Bool)) (core slot base : Nat) (hold : Bool) : State :=
  let bytes := (l.take imageScr).map (·.1)
  let older := imagePositions bytes != streamOrder.map fun e => (c.stream e).pos
  let d := c.fromImage l core slot base
  let s := s.onCtx c.inst fun _ => { d with regs := { d.regs with
    hold := hold, ovf := d.regs.ovf || c.regs.ovf, phovr := d.regs.phovr || c.regs.phovr } }
  let s := s.leaveL1 c.inst
  let s : State := { s with mem := s.mem.scrWriteP core base ((l.drop imageScr).take c.scrBytes) }
  let s := s.loadRest c.inst bytes older
  let s := c.errq.foldl (fun s e => s.pushErr c.inst e false) s
  s.onCtx c.inst Ctx.retry

/-- Every issued word of a context has completed, and every transfer has completed or suspended (R380). -/
def State.quiet (s : State) (c : Ctx) : Bool := s.stilled c && c.xfers.all fun x => x.fault.isSome

/-- A context gives up its slot, registers, scratchpad and tiles, its state saved (R367, R380); entries of its error queue that arrive from
now on wait for its return (R319). What its core's L1 holds of its address space is written back, since it may return to another core (R288). -/
def State.unload (s : State) (inst : Nat) (where_ : Residency) : State :=
  let s := (s.dropLeaves inst).leaveL1 inst
  s.onCtx inst fun c => { c with place := where_, errq := [], regs := { c.regs with ovf := false, phovr := false } }

/-- NSAVE (R380). -/
def execNsave (d a : SReg) (rel : Bool) (s : State) : Outcome :=
  nWord (.nsave d a rel) [a] (fun s vs => match s.target with
    | none => .trap (whyTrap 12) s
    | some c =>
      if !c.regs.trapped && !c.regs.frozen && !c.regs.hold then .trap (whyTrap 12) s
      else
        let n := c.imageLen
        s.nBytes (vs.getD 0 0) n 4096 .store fun s p _ =>
          if !s.quiet c then .wait 0 s
          else
            let s := s.physWrite p (s.imageBytes c)
            let s := if rel then s.unload c.inst .saved else s
            .done false (s.writeS d ⟨BitVec.ofNat 64 n, false⟩)) s

/-- The core that TARGET names; none where it does not lie on DIE (R348). -/
def State.targetCore (s : State) : Option Nat :=
  let w := s.thr.target.toNat
  if natField w 9 2 ≠ natField w 0 9 / 128 then none else some (natField w 0 9)

/-- NLOAD (R380): the slot and the place of the allocation are any that are free. -/
def execNload (d a : SReg) (s : State) : Outcome :=
  nWord (.nload d a) [a] (fun s vs => match s.targetCore with
    | none => .trap (whyTrap 12) s
    | some core =>
      let at_ := vs.getD 0 0
      s.nRecord at_ 16384 4096 fun s _ x =>
        match s.findCtx (natField x 128 64) with
        | none => .trap (whyTrap 12) s
        | some c =>
          if c.place ≠ .saved then .trap (whyTrap 12) s
          else
            let bases := roomIn (s.uses core) c.demand c.tiles c.scrBytes
            if bases.isEmpty then .done false (s.writeS d ⟨BitVec.allOnes 64, false⟩)
            else s.nBytes at_ c.imageLen 4096 .load fun s _ l =>
              if anyPoison (l.take imageScr) then .trap (fretTrap 1 0 7 (some at_)) s
              else
                let (base, s) : Nat × State := s.pick bases
                let slot := (s.freeSlots core).headD 0
                let s := s.reload c l core slot base true
                .done false (s.writeS d ⟨((s.findCtx c.inst).map fun c => c.id).getD 0, false⟩)) s

end Sys2Proof.Machine
end

