-- ==== Sys2Proof/Machine/Vector.lean ====
section
/-!
DEFINITION. The V words that work on registers (R183 to R212): elements, lanes and their poison, masks, arithmetic, conversions,
reductions and permutes.
-/

namespace Sys2Proof

/-- The float format of a V type; integer types give fp32, which no caller reads. -/
def VTy.float (ty : VTy) : FFmt :=
  match ty with
  | .bf16 => .bf16
  | .fp16 => .fp16
  | _ => .fp32

/-- The float format of a conversion code; integers give fp32, which no caller reads. -/
def NFmt.float (n : NFmt) : FFmt :=
  match n.kind with
  | .float f => f
  | .int _ _ => .fp32

/-- The shift count of R195. -/
def VTy.count (ty : VTy) (y : Nat) : Nat := y % ty.bits

end Sys2Proof

namespace Sys2Proof.Machine

/-! Elements and lanes (R67, R183) -/

/-- The poison of element i of width w: that of its lane, or of either of its two lanes. -/
def lanePoison (w : Nat) (p : BitVec 128) (i : Nat) : Bool :=
  if w = 64 then p.getLsbD (2 * i) || p.getLsbD (2 * i + 1) else p.getLsbD (i * w / 32)

/-- A source element: its code and its poison. -/
structure VElem where
  code : Nat
  p : Bool
deriving DecidableEq, Repr

/-- Element i of a register. -/
def VVal.elem (w : Nat) (x : VVal) (i : Nat) : VElem := ⟨(Sys2Proof.elem w x.v i).toNat, lanePoison w x.p i⟩
/-- The elements of a register. -/
def VVal.elems (w : Nat) (x : VVal) : List VElem := (upTo (4096 / w)).map (x.elem w)

/-- The number whose fields of width w are a list of numbers, lowest first. -/
def packFields (w : Nat) : List Nat → Nat
  | [] => 0
  | x :: xs => x % 2 ^ w + packFields w xs * 2 ^ w

/-- What a word writes to each element of a destination: nothing, or a result with its poison. -/
abbrev VWrites := List (Option VElem)

/-- A lane's poison after a word (R67): set by a poisoned write, cleared only when every element is written clean. -/
def laneAfter (old : Bool) (l : VWrites) : Bool := l.any (fun r => r.any (·.p)) || (old && !l.all (·.isSome))

/-- The writes of each of the 128 lanes. -/
def laneWrites (w : Nat) (l : VWrites) : List VWrites := if w = 64 then l.flatMap fun r => [[r], [r]] else chunks (32 / w) 128 l

/-- A register after a word's writes. -/
def VVal.write (w : Nat) (old : VVal) (l : VWrites) : VVal where
  v := BitVec.ofNat 4096 (packFields w (l.zipIdx.map fun (x : Option VElem × Nat) => match x.1 with
    | some r => r.code
    | none => (Sys2Proof.elem w old.v x.2).toNat))
  p := BitVec.ofNat 128 (packFields 1 ((laneWrites w l).zipIdx.map fun (x : VWrites × Nat) => (laneAfter (old.p.getLsbD x.2) x.1).toNat))

/-- A register with every lane poisoned. -/
def VVal.poisoned (x : VVal) : VVal := { x with p := BitVec.allOnes 128 }

/-! Words -/

/-- A word ORs flags into IEEE_FLAGS as its result is written (R78, R146, R188). -/
def Ctx.raise (c : Ctx) (f : Flags) : Ctx := { c with regs := { c.regs with flags := c.regs.flags ||| f } }

/-- Runs a V word of n positions that names vector registers: one beyond the demand is an ACCESS_VIOLATION (R36). -/
def vWord (t : Tok) (n : Nat) (regs : List VReg) (body : Ctx → State → Res) (s : State) : Outcome :=
  ctxWord .V t n (fun _ s => if regs.any fun r => decide (s.ctx.demand ≤ r.toNat) then .trap (whyTrap 7) s else body s.ctx s) s

/-- A V word ends with these registers. -/
def vDone (s : State) (c : Ctx) : Res := .done false { s with ctx := c }

/-- The active mask (R184). -/
def Ctx.mask (c : Ctx) : MVal := c.getM c.msel

/-- The registers of a group of k from r on (R89). -/
def groupRegs (r : VReg) (k : Nat) : List VReg := (upTo k).map fun m => r + BitVec.ofNat 5 m

/-- Element i of a group of k registers from r on (R89): slot i div k of register r + (i mod k). -/
def Ctx.groupElem (c : Ctx) (w : Nat) (r : VReg) (k i : Nat) : VElem := (c.getV (r + BitVec.ofNat 5 (i % k))).elem w (i / k)

/-- A result before the mask: its code, its poison, its flags. -/
structure VRes where
  code : Nat
  p : Bool
  fl : Flags
deriving DecidableEq, Repr

/-- Keeps the results of active elements (R185). -/
def masked (m : MVal) (l : List VRes) : List (Option VRes) :=
  l.zipIdx.map fun (x : VRes × Nat) => if m.v.getLsbD x.2 then some x.1 else none

/-- Writes results to the group of k registers from d on and raises their flags (R67, R187, R188). -/
def Ctx.putGroup (c : Ctx) (w : Nat) (d : VReg) (k : Nat) (m : MVal) (l : List (Option VRes)) : Ctx :=
  let fl := Flags.all (l.map fun (r : Option VRes) => match r with
    | some x => if x.p || m.p then 0 else x.fl
    | none => 0)
  let groups := chunks k l.length (l.map fun (r : Option VRes) => r.map fun x => (⟨x.code, x.p⟩ : VElem))
  let c := (upTo k).foldl (fun (c : Ctx) j =>
    let r := d + BitVec.ofNat 5 j
    let x := (c.getV r).write w (groups.map fun g => g.getD j none)
    c.setV r (if m.p then x.poisoned else x)) c
  c.raise fl

/-- Writes masked results to one register. -/
def Ctx.put (c : Ctx) (w : Nat) (d : VReg) (l : List VRes) : Ctx := c.putGroup w d 1 c.mask (masked c.mask l)

/-- A masked word of one source. -/
def vOne (t : Tok) (ty : VTy) (d a : VReg) (f : Nat → Nat × Flags) (s : State) : Outcome :=
  vWord t 1 [d, a] (fun c s => vDone s (c.put ty.bits d (((c.getV a).elems ty.bits).map fun x =>
    let r := f x.code
    ⟨r.1, x.p, r.2⟩))) s

/-- A masked word of two sources. -/
def vTwo (t : Tok) (ty : VTy) (d a b : VReg) (f : Nat → Nat → Nat × Flags) (s : State) : Outcome :=
  vWord t 1 [d, a, b] (fun c s => vDone s (c.put ty.bits d
    (List.zipWith (fun (x y : VElem) =>
      let r := f x.code y.code
      (⟨r.1, x.p || y.p, r.2⟩ : VRes)) ((c.getV a).elems ty.bits) ((c.getV b).elems ty.bits)))) s

/-! Arithmetic (R190 to R193) -/

/-- A word whose integer form is an exact integer and whose float form is a float operation. -/
def arith (ty : VTy) (i : Int → Int → Int) (f : FFmt → Nat → Nat → Nat × Flags) (x y : Nat) : Nat × Flags :=
  if ty.isFloat then f ty.float x y else (intCode ty.bits (i (intVal ty.bits true x) (intVal ty.bits true y)), 0)

/-- An integer word on signed or unsigned values. -/
def intWord (ty : VTy) (signed : Bool) (i : Int → Int → Int) (x y : Nat) : Nat × Flags :=
  (intCode ty.bits (i (intVal ty.bits signed x) (intVal ty.bits signed y)), 0)

/-- A saturating word (R192). -/
def satWord (ty : VTy) (signed : Bool) (i : Int → Int → Int) (x y : Nat) : Nat × Flags :=
  fitInt ty.bits signed true 0 (i (intVal ty.bits signed x) (intVal ty.bits signed y))

/-- VADD (R190). -/
def execVadd (t : Tok) (ty : VTy) (d a b : VReg) (s : State) : Outcome := vTwo t ty d a b (arith ty (· + ·) fpAdd) s
/-- VSUB (R190). -/
def execVsub (t : Tok) (ty : VTy) (d a b : VReg) (s : State) : Outcome := vTwo t ty d a b (arith ty (· - ·) fpSub) s
/-- VMUL (R190). -/
def execVmul (t : Tok) (ty : VTy) (d a b : VReg) (s : State) : Outcome := vTwo t ty d a b (arith ty (· * ·) fpMul) s
/-- VFMA (R191): three sources, vD among them. -/
def execVfma (t : Tok) (ty : VTy) (d a b : VReg) (s : State) : Outcome :=
  vWord t 1 [d, a, b] (fun c s =>
    let w := ty.bits
    vDone s (c.put w d ((upTo (4096 / w)).map fun i =>
      let x := (c.getV a).elem w i
      let y := (c.getV b).elem w i
      let z := (c.getV d).elem w i
      let r := if ty.isFloat then fpFma ty.float x.code y.code z.code else ((x.code * y.code + z.code) % 2 ^ w, 0)
      ⟨r.1, x.p || y.p || z.p, r.2⟩))) s
/-- VDIV (R190). -/
def execVdiv (t : Tok) (ty : VTy) (d a b : VReg) (s : State) : Outcome := vTwo t ty d a b (fpDiv ty.float) s
/-- VMIN (R81, R190). -/
def execVmin (t : Tok) (ty : VTy) (d a b : VReg) (s : State) : Outcome := vTwo t ty d a b (arith ty min (fpMinMax · false)) s
/-- VMAX (R81, R190). -/
def execVmax (t : Tok) (ty : VTy) (d a b : VReg) (s : State) : Outcome := vTwo t ty d a b (arith ty max (fpMinMax · true)) s
/-- VMINU (R190). -/
def execVminu (t : Tok) (ty : VTy) (d a b : VReg) (s : State) : Outcome := vTwo t ty d a b (intWord ty false min) s
/-- VMAXU (R190). -/
def execVmaxu (t : Tok) (ty : VTy) (d a b : VReg) (s : State) : Outcome := vTwo t ty d a b (intWord ty false max) s
/-- VABS (R193): clears a float's sign bit, NaNs included. -/
def execVabs (t : Tok) (ty : VTy) (d a : VReg) (s : State) : Outcome :=
  vOne t ty d a (fun x => (if ty.isFloat then x % 2 ^ (ty.bits - 1) else intCode ty.bits ((intVal ty.bits true x).natAbs : Int), 0)) s
/-- VNEG (R193): inverts a float's sign bit, NaNs included. -/
def execVneg (t : Tok) (ty : VTy) (d a : VReg) (s : State) : Outcome :=
  vOne t ty d a (fun x => (if ty.isFloat then x ^^^ 2 ^ (ty.bits - 1) else intCode ty.bits (-intVal ty.bits true x), 0)) s
/-- VADDS (R192). -/
def execVadds (t : Tok) (ty : VTy) (d a b : VReg) (s : State) : Outcome := vTwo t ty d a b (satWord ty true (· + ·)) s
/-- VADDSU (R192). -/
def execVaddsu (t : Tok) (ty : VTy) (d a b : VReg) (s : State) : Outcome := vTwo t ty d a b (satWord ty false (· + ·)) s
/-- VSUBS (R192). -/
def execVsubs (t : Tok) (ty : VTy) (d a b : VReg) (s : State) : Outcome := vTwo t ty d a b (satWord ty true (· - ·)) s
/-- VSUBSU (R192). -/
def execVsubsu (t : Tok) (ty : VTy) (d a b : VReg) (s : State) : Outcome := vTwo t ty d a b (satWord ty false (· - ·)) s
/-- VMULH (R190): bits [2n-1:n] of the signed product. -/
def execVmulh (t : Tok) (ty : VTy) (d a b : VReg) (s : State) : Outcome :=
  vTwo t ty d a b (intWord ty true fun x y => (x * y) / 2 ^ ty.bits) s
/-- VMULHU (R190): bits [2n-1:n] of the unsigned product. -/
def execVmulhu (t : Tok) (ty : VTy) (d a b : VReg) (s : State) : Outcome :=
  vTwo t ty d a b (intWord ty false fun x y => (x * y) / 2 ^ ty.bits) s

/-! Logic and shifts (R194, R195) -/

/-- A word on the codes alone. -/
def codeWord (f : Nat → Nat → Nat) (x y : Nat) : Nat × Flags := (f x y, 0)
/-- VAND (R194). -/
def execVand (t : Tok) (ty : VTy) (d a b : VReg) (s : State) : Outcome := vTwo t ty d a b (codeWord (· &&& ·)) s
/-- VOR (R194). -/
def execVor (t : Tok) (ty : VTy) (d a b : VReg) (s : State) : Outcome := vTwo t ty d a b (codeWord (· ||| ·)) s
/-- VXOR (R194). -/
def execVxor (t : Tok) (ty : VTy) (d a b : VReg) (s : State) : Outcome := vTwo t ty d a b (codeWord (· ^^^ ·)) s
/-- VANDN (R194): x AND NOT y. -/
def execVandn (t : Tok) (ty : VTy) (d a b : VReg) (s : State) : Outcome := vTwo t ty d a b (codeWord fun x y => x &&& (2 ^ ty.bits - 1 - y)) s
/-- VSHL (R195). -/
def execVshl (t : Tok) (ty : VTy) (d a b : VReg) (s : State) : Outcome := vTwo t ty d a b (codeWord fun x y => x <<< ty.count y % 2 ^ ty.bits) s
/-- VSHRL (R195). -/
def execVshrl (t : Tok) (ty : VTy) (d a b : VReg) (s : State) : Outcome := vTwo t ty d a b (codeWord fun x y => x >>> ty.count y) s
/-- VSHRA (R195). -/
def execVshra (t : Tok) (ty : VTy) (d a b : VReg) (s : State) : Outcome :=
  vTwo t ty d a b (codeWord fun x y => intCode ty.bits (intVal ty.bits true x / 2 ^ ty.count y)) s

/-! Compares, selects, masks (R196 to R199) -/

/-- A compare's relation on one type: float, signed or unsigned. -/
def relation (ty : VTy) (signed : Bool) (i : Int → Int → Bool) (f : FRel) (x y : Nat) : Bool × Flags :=
  if ty.isFloat then fpCmp ty.float f x y else (i (intVal ty.bits signed x) (intVal ty.bits signed y), 0)

/-- Masks after a compare (R196): bits from N on are 0, masked-off bits keep their value. -/
def compareMask (n : Nat) (old m : MVal) (l : List VRes) : MVal where
  v := BitVec.ofNat 1024 (packFields 1 (l.zipIdx.map fun (x : VRes × Nat) => if m.v.getLsbD x.2 then x.1.code else (old.v.getLsbD x.2).toNat))
  p := m.p || (l.zipIdx.any fun (x : VRes × Nat) => m.v.getLsbD x.2 && x.1.p) || (old.p && !(upTo n).all (m.v.getLsbD ·))

/-- A compare (R196). -/
def vCompare (t : Tok) (ty : VTy) (d : MReg) (a b : VReg) (f : Nat → Nat → Bool × Flags) (s : State) : Outcome :=
  vWord t 1 [a, b] (fun c s =>
    let w := ty.bits
    let m := c.mask
    let l := List.zipWith (fun (x y : VElem) =>
      let r := f x.code y.code
      (⟨r.1.toNat, x.p || y.p, r.2⟩ : VRes)) ((c.getV a).elems w) ((c.getV b).elems w)
    let fl := Flags.all ((masked m l).map fun (r : Option VRes) => match r with
      | some x => if x.p || m.p then 0 else x.fl
      | none => 0)
    vDone s ((c.setM d (compareMask (4096 / w) (c.getM d) m l)).raise fl)) s

/-- VCMPEQ (R196). -/
def execVcmpeq (t : Tok) (ty : VTy) (d : MReg) (a b : VReg) (s : State) : Outcome := vCompare t ty d a b (relation ty true (· == ·) .eq) s
/-- VCMPNE (R196). -/
def execVcmpne (t : Tok) (ty : VTy) (d : MReg) (a b : VReg) (s : State) : Outcome := vCompare t ty d a b (relation ty true (· != ·) .ne) s
/-- VCMPLT (R196). -/
def execVcmplt (t : Tok) (ty : VTy) (d : MReg) (a b : VReg) (s : State) : Outcome :=
  vCompare t ty d a b (relation ty true (fun x y => decide (x < y)) .lt) s
/-- VCMPLE (R196). -/
def execVcmple (t : Tok) (ty : VTy) (d : MReg) (a b : VReg) (s : State) : Outcome :=
  vCompare t ty d a b (relation ty true (fun x y => decide (x ≤ y)) .le) s
/-- VCMPLTU (R196). -/
def execVcmpltu (t : Tok) (ty : VTy) (d : MReg) (a b : VReg) (s : State) : Outcome :=
  vCompare t ty d a b (relation ty false (fun x y => decide (x < y)) .lt) s
/-- VCMPLEU (R196). -/
def execVcmpleu (t : Tok) (ty : VTy) (d : MReg) (a b : VReg) (s : State) : Outcome :=
  vCompare t ty d a b (relation ty false (fun x y => decide (x ≤ y)) .le) s
/-- VCMPUN (R196). -/
def execVcmpun (t : Tok) (ty : VTy) (d : MReg) (a b : VReg) (s : State) : Outcome := vCompare t ty d a b (fpCmp ty.float .un) s

/-- VSEL (R197): every element is written; a poisoned active mask poisons every lane (R187). -/
def execVsel (t : Tok) (z : BitVec 2) (d a b : VReg) (s : State) : Outcome :=
  vWord t 1 [d, a, b] (fun c s =>
    let w := 8 * 2 ^ z.toNat
    let m := c.mask
    let x := (c.getV d).write w ((upTo (4096 / w)).map fun i => some ((c.getV (if m.v.getLsbD i then a else b)).elem w i))
    vDone s (c.setV d (if m.p then x.poisoned else x))) s
/-- VMSEL (R198). -/
def execVmsel (t : Tok) (k : MReg) (s : State) : Outcome := vWord t 1 [] (fun c s => vDone s { c with msel := k }) s
/-- VMLOG (R199). -/
def execVmlog (t : Tok) (op : MLogOp) (d a b : MReg) (s : State) : Outcome :=
  vWord t 1 [] (fun c s =>
    let x := c.getM a
    let y := c.getM b
    vDone s (c.setM d (match op with
      | .and => ⟨x.v &&& y.v, x.p || y.p⟩
      | .or => ⟨x.v ||| y.v, x.p || y.p⟩
      | .xor => ⟨x.v ^^^ y.v, x.p || y.p⟩
      | .andn => ⟨x.v &&& ~~~y.v, x.p || y.p⟩
      | .not => ⟨~~~x.v, x.p⟩))) s

/-! Conversions (R200 to R204) -/

/-- V sees the generator (R40, R76): the newest SETS that it has passed, or STALL 6 where S has not executed one. -/
def Ctx.generator (c : Ctx) : Except (BitVec 4) Word :=
  (c.seen .V 0x007 0).map fun _ => match (c.lfsrSets.filter fun x => decide (x.1 < c.streams.v.pos)).getLast? with
    | some x => x.2
    | none => c.regs.lfsr

/-- The generator after a word's steps; the SETS that V has passed are used up. -/
def Ctx.setGenerator (c : Ctx) (g : Word) : Ctx :=
  { c with lfsrSets := c.lfsrSets.filter fun x => !decide (x.1 < c.streams.v.pos), regs := { c.regs with lfsr := g } }

/-- Runs a conversion whose rounding may need the generator. -/
def withGenerator (s : State) (rm : RMode) (k : Word → Res) : Res :=
  if rm = .sr then match s.ctx.generator with
    | .error code => .wait code s
    | .ok g => k g
  else k 0

/-- An element of a conversion's source, with what else contributes to it: `round` rounds its value with a generator value. -/
structure Source where
  p : Bool
  round : Nat → Nat × Flags

/-- Converts elements in ascending index (R75): every active one steps the generator under SR. -/
def convertAll (sr : Bool) (m : MVal) : Nat → Word → List Source → List (Option VRes) × Word
  | _, g, [] => ([], g)
  | i, g, x :: xs =>
    if m.v.getLsbD i then
      let g := if sr then xorshift g else g
      let r := x.round g.toNat
      let rest := convertAll sr m (i + 1) g xs
      (some ⟨r.1, x.p, r.2⟩ :: rest.1, rest.2)
    else
      let rest := convertAll sr m (i + 1) g xs
      (none :: rest.1, rest.2)

/-- Elements converted by a word between two formats (R201). -/
def convertCount (src dst : NFmt) : Nat := 4096 / min src.regBits dst.regBits

/-- A conversion (R200 to R204): reads vA or its group and `more`, writes vD or its group, then goes on with `after`. -/
def vConvert (t : Tok) (src dst : NFmt) (d a : VReg) (more : List VReg) (rm : RMode) (mk : Ctx → List VElem → List Source)
    (after : Ctx → Ctx → Ctx) (s : State) : Outcome :=
  let (ka, kd) : Nat × Nat := cvtGroups src dst
  vWord t 2 (groupRegs d kd ++ groupRegs a ka ++ more) (fun c s =>
    withGenerator s rm fun g =>
      let m := c.mask
      let l := (upTo (convertCount src dst)).map (c.groupElem src.regBits a ka)
      let r := convertAll (rm == .sr) m 0 g (mk c l)
      let c2 := after c (c.putGroup dst.regBits d kd m r.1)
      vDone s (if rm = .sr then c2.setGenerator r.2 else c2)) s

/-- VCVT (R202). -/
def execVcvt (t : Tok) (ty : VTy) (d a : VReg) (sinv : Bool) (rm : RMode) (dir : Bool) (other : NFmt) (s : State) : Outcome :=
  let (src, dst) : NFmt × NFmt := if dir then (other, ty.fmt) else (ty.fmt, other)
  vConvert t src dst d a [] rm (fun _ l => l.map fun x => ⟨x.p, fun g => convert src dst rm sinv g x.code⟩) (fun _ c => c) s

/-- An element of a block with its index. -/
abbrev Indexed := VElem × Nat

/-- The blocks of 48 elements (R203). -/
def blocks (l : List VElem) : List (List Indexed) := chunks 48 l.length l.zipIdx

/-- What VQUANT.b48 does with a block (R72): its scale byte and the sources of its elements. A block without an active element
gets the byte 0. -/
def quantBlock (src : FFmt) (dst : NFmt) (rm : RMode) (sat : Bool) (m : MVal) (l : List Indexed) : VElem × List Source :=
  let act := l.filter fun (x : Indexed) => m.v.getLsbD x.2
  let p := act.any fun (x : Indexed) => x.1.p
  if act.isEmpty then (⟨0, false⟩, l.map fun _ => ⟨false, fun _ => (0, 0)⟩)
  else match blockScale dst (act.map fun (x : Indexed) => src.val x.1.code) with
    | none => (⟨255, p⟩, l.map fun _ => ⟨p, fun _ => (0, Flags.nv)⟩)
    | some (e, x) => (⟨e, p⟩, l.map fun (y : Indexed) => ⟨p, fun g => roundTo dst.float rm sat g ((src.val y.1.code).scaleDown x)⟩)

/-- A quotient x / q with its flags, rounded once (R203). -/
def quantTensor (src : FFmt) (dst : NFmt) (rm : RMode) (sat : Bool) (q x : Nat) (g : Nat) : Nat × Flags :=
  let a := src.val x
  let b := FFmt.fp32.val q
  let r := a.div b
  let (c, fl) := roundTo dst.float rm sat g r.1
  (c, Val.sigFlags [a, b] ||| r.2 ||| fl)

/-- VQUANT (R203): with B48 scales vB is written whole, with a tensor scale it is a source (DEDUCED, log 41). -/
def execVquant (t : Tok) (ty : VTy) (d a b : VReg) (tensor sinv : Bool) (rm : RMode) (other : NFmt) (s : State) : Outcome :=
  let src := ty.float
  let sat := other.satDefault != sinv
  if tensor then
    vConvert t ty.fmt other d a [b] rm
      (fun c l =>
        let q := (c.getV b).elem 32 0
        l.map fun x => ⟨x.p || q.p, quantTensor src other rm sat q.code x.code⟩)
      (fun _ c => c) s
  else
    vConvert t ty.fmt other d a [b] rm
      (fun c l => (blocks l).flatMap fun k => (quantBlock src other rm sat c.mask k).2)
      (fun old c =>
        let (ka, _) : Nat × Nat := cvtGroups ty.fmt other
        let l := (upTo (convertCount ty.fmt other)).map (old.groupElem ty.fmt.regBits a ka)
        let bytes := (blocks l).map fun k => (quantBlock src other rm sat old.mask k).1
        let x := (VVal.mk 0 0).write 8 ((bytes ++ List.replicate (512 - bytes.length) (⟨0, false⟩ : VElem)).map some)
        c.setV b (if old.mask.p then x.poisoned else x)) s

/-- VDEQUANT (R204): the value times its scale, rounded once. -/
def execVdequant (t : Tok) (ty : VTy) (d a b : VReg) (tensor sinv : Bool) (rm : RMode) (other : NFmt) (s : State) : Outcome :=
  let sat := ty.fmt.satDefault != sinv
  vConvert t other ty.fmt d a [b] rm
    (fun c l => l.zipIdx.map fun (x : Indexed) =>
      let k := if tensor then (c.getV b).elem 32 0 else (c.getV b).elem 8 (x.2 / 48)
      let scale := if tensor then FFmt.fp32.val k.code else scaleByte k.code
      ⟨x.1.p || k.p, fun g => roundTo ty.float rm sat g ((other.float.val x.1.code).scaled scale)⟩)
    (fun _ c => c) s

/-! Special functions (R205) -/

/-- VRCP (R84). -/
def execVrcp (t : Tok) (ty : VTy) (d a : VReg) (s : State) : Outcome := vOne t ty d a (special .rcp ty.float) s
/-- VRSQ (R84). -/
def execVrsq (t : Tok) (ty : VTy) (d a : VReg) (s : State) : Outcome := vOne t ty d a (special .rsq ty.float) s
/-- VEXP2 (R85). -/
def execVexp2 (t : Tok) (ty : VTy) (d a : VReg) (s : State) : Outcome := vOne t ty d a (special .exp2 ty.float) s
/-- VLOG2 (R86). -/
def execVlog2 (t : Tok) (ty : VTy) (d a : VReg) (s : State) : Outcome := vOne t ty d a (special .log2 ty.float) s
/-- VTANH (R87). -/
def execVtanh (t : Tok) (ty : VTy) (d a : VReg) (s : State) : Outcome := vOne t ty d a (special .tanh ty.float) s
/-- VSQRT (R80, R205). -/
def execVsqrt (t : Tok) (ty : VTy) (d a : VReg) (s : State) : Outcome := vOne t ty d a (fpSqrt ty.float) s

/-! Reductions (R206 to R208) -/

/-- Scalar form (R206). -/
def scalarForm (v : Nat) (p : Bool) : VVal := ⟨BitVec.ofNat 4096 (v % 2 ^ 64), if p then 3 else 0⟩

/-- One level of the fixed tree of R207. -/
def treeLevel : List Nat → List Nat × Flags
  | x :: y :: rest =>
    let r := fpAdd .fp32 x y
    let t := treeLevel rest
    (r.1 :: t.1, r.2 ||| t.2)
  | l => (l, 0)

/-- The fixed tree of R207 over n levels. -/
def treeSum : Nat → List Nat → Nat × Flags
  | 0, l => (l.headD 0, 0)
  | n + 1, l =>
    let t := treeLevel l
    let r := treeSum n t.1
    (r.1, t.2 ||| r.2)

/-- The greatest or least of integers, or `none_` of no integer. -/
def intBest (greater : Bool) (none_ : Int) : List Int → Int
  | [] => none_
  | x :: xs => xs.foldl (if greater then max else min) x

/-- A reduction of the active elements (R207, R208): the value and its flags. -/
def vReduce (t : Tok) (ty : VTy) (d a : VReg) (f : List VElem → MVal → Nat × Flags) (s : State) : Outcome :=
  vWord t 1 [d, a] (fun c s =>
    let m := c.mask
    let l := (c.getV a).elems ty.bits
    let p := m.p || l.zipIdx.any fun (x : Indexed) => m.v.getLsbD x.2 && x.1.p
    let r := f l m
    vDone s ((c.setV d (scalarForm r.1 p)).raise (if p then 0 else r.2))) s

/-- The active elements. -/
def activeElems (l : List VElem) (m : MVal) : List VElem := (l.zipIdx.filter fun (x : Indexed) => m.v.getLsbD x.2).map (·.1)

/-- VREDADD (R207) (DEDUCED, log 41). -/
def execVredadd (t : Tok) (ty : VTy) (d a : VReg) (s : State) : Outcome :=
  vReduce t ty d a (fun l m =>
    if ty.isFloat then
      let leaves := l.zipIdx.map fun (x : Indexed) => if m.v.getLsbD x.2 then (widen32 ty.float x.1.code).1 else 0x80000000
      let r := treeSum (Nat.log2 (4096 / ty.bits)) leaves
      (r.1, r.2 ||| Val.sigFlags ((activeElems l m).map fun x => ty.float.val x.code))
    else (intCode 64 ((activeElems l m).map fun x => intVal ty.bits true x.code).sum, 0)) s

/-- VREDMAX and VREDMIN (R208). -/
def redBest (greater : Bool) (ty : VTy) (l : List VElem) (m : MVal) : Nat × Flags :=
  let act := activeElems l m
  if ty.isFloat then
    let f := ty.float
    if act.isEmpty then (f.signBit greater + f.infCode, 0)
    else act.foldl (fun (r : Nat × Flags) x =>
      let y := fpMinMax f greater r.1 x.code
      (y.1, r.2 ||| y.2)) (f.canon, 0)
  else
    let b := intBounds ty.bits true
    (intCode 64 (intBest greater (if greater then b.1 else b.2) (act.map fun x => intVal ty.bits true x.code)), 0)

/-- VREDMAX (R208) (DEDUCED, log 41). -/
def execVredmax (t : Tok) (ty : VTy) (d a : VReg) (s : State) : Outcome := vReduce t ty d a (redBest true ty) s
/-- VREDMIN (R208) (DEDUCED, log 41). -/
def execVredmin (t : Tok) (ty : VTy) (d a : VReg) (s : State) : Outcome := vReduce t ty d a (redBest false ty) s

/-! Permutes, broadcast, insert, extract (R209 to R212) -/

/-- The source index of VPERM (R209). -/
def permIndex (n i e : Nat) : Nat := if n = 512 then i / 256 * 256 + e else e % n

/-- VPERM (R209). -/
def execVperm (t : Tok) (ty : VTy) (d a b : VReg) (s : State) : Outcome :=
  vWord t 1 [d, a, b] (fun c s =>
    let w := ty.bits
    vDone s (c.put w d ((upTo (4096 / w)).map fun i =>
      let e := (c.getV b).elem w i
      let x := (c.getV a).elem w (permIndex (4096 / w) i e.code)
      ⟨x.code, x.p || e.p, 0⟩))) s
/-- VBCAST (R210). -/
def execVbcast (t : Tok) (ty : VTy) (d : VReg) (a : SReg) (s : State) : Outcome :=
  vWord t 1 [d] (fun c s => s.withS a fun x =>
    let w := ty.bits
    vDone s (c.put w d (List.replicate (4096 / w) ⟨x.v.toNat % 2 ^ w, x.p, 0⟩))) s
/-- VINS (R211): not masked; a poisoned index poisons every lane. -/
def execVins (t : Tok) (ty : VTy) (d : VReg) (a b : SReg) (s : State) : Outcome :=
  vWord t 1 [d] (fun c s => s.withS a fun x => s.withS b fun k =>
    let w := ty.bits
    let n := 4096 / w
    let y := (c.getV d).write w ((upTo n).map fun i => if i = k.v.toNat % n then some ⟨x.v.toNat % 2 ^ w, x.p⟩ else none)
    vDone s (c.setV d (if k.p then y.poisoned else y))) s
/-- VEXT (R212): an integer element is sign-extended. -/
def execVext (t : Tok) (ty : VTy) (d a : VReg) (b : SReg) (s : State) : Outcome :=
  vWord t 1 [d, a] (fun c s => s.withS b fun k =>
    let w := ty.bits
    let x := (c.getV a).elem w (k.v.toNat % (4096 / w))
    vDone s (c.setV d (scalarForm (if ty.isFloat then x.code else intCode 64 (intVal w true x.code)) (x.p || k.p)))) s

end Sys2Proof.Machine
end

