-- ==== Sys2Proof/Machine/Matrix.lean ====
section
/-!
DEFINITION. The M words (R214 to R243): products of lines along k in the order of R82, scales, row poison, the quartet queues, the
nest, and moves of tiles. MMA, MMAS, MGRP and MNEST issue in one turn, which makes their checks, asks for leave and takes their hold, and
run in the array while later words go on (R217). MMAQ and MMAR can still trap after they have issued, so no later word of M issues before
they complete (R107); they hold at their program counter.
-/

namespace Sys2Proof

/-- Bits of a packed element (R66). -/
def MTy.packBits (ty : MTy) : Nat :=
  match ty.fmt.kind with
  | .float f => f.bits
  | .int b _ => b

/-- Bytes that n elements of one line take in a slice (R66, R222). -/
def MTy.lineBytes (ty : MTy) (n : Nat) : Nat := if ty.packBits = 6 then 3 * ceilDiv n 4 else ceilDiv (n * ty.packBits) 8

/-- The codes of n packed elements. -/
def MTy.codes (ty : MTy) (n : Nat) (l : List Byte) : List Nat :=
  let x := leNat l
  (upTo n).map fun i => natField x (ty.packBits * i) ty.packBits

/-- Scales required per line (R69, R70). -/
def Gran.need (g : Gran) (k : Nat) : Nat := if g = .b48 then ceilDiv k 48 else 1

/-- Rows of a tile that one vector register holds at a target format (R239). -/
def NFmt.tileRows (f : NFmt) : Nat := 64 / f.regBits

/-- An integer format. -/
def NFmt.isInt (f : NFmt) : Bool :=
  match f.kind with
  | .int _ _ => true
  | .float _ => false

end Sys2Proof

namespace Sys2Proof.Machine

/-! Tiles (R216) -/

/-- Element (i, j) of a tile. -/
def Tile.get (t : Tile) (i j : Nat) : Nat := (elem 32 t.v (64 * i + j)).toNat
/-- A tile from its rows: 64 codes and the row's poison. -/
def Tile.ofRows (l : List (List Nat × Bool)) : Tile where
  v := BitVec.ofNat 131072 (packFields 32 (l.flatMap (·.1)))
  p := BitVec.ofNat 64 (packFields 1 (l.map fun r => r.2.toNat))
/-- Row i of a tile. -/
def Tile.row (t : Tile) (i : Nat) : List Nat × Bool := ((upTo 64).map (t.get i), t.p.getLsbD i)
/-- Rows set to zero, clean. -/
def Tile.zeroRows (t : Tile) (rows : Nat → Bool) : Tile :=
  Tile.ofRows ((upTo 64).map fun i => if rows i then (List.replicate 64 0, false) else t.row i)

/-! Operand lines (R219 to R223) -/

/-- The k-steps of slice sl of K. -/
def sliceLen (k sl : Nat) : Nat := min 64 (k - 64 * sl)
/-- The k-slices of K (R214). -/
def sliceCount (k : Nat) : Nat := ceilDiv k 64

/-- Where a context's scratchpad lies: its core, base and declared bytes. -/
structure ScrBase where
  core : Nat
  base : Nat
  size : Nat
deriving DecidableEq, Repr

/-- The scratchpad of a context. -/
def Ctx.scrBaseOf (c : Ctx) : ScrBase := ⟨c.core, c.scrBase, c.scrBytes⟩

/-- A scratchpad operand named by a pair (R221). -/
structure MOperand where
  base : Nat
  rp : Nat
  tp : Nat
  code : Nat
deriving DecidableEq, Repr

/-- A pair read as an operand whose BASE is shifted: none for a reserved bit or a BASE that is not of form 00. -/
def pairOf (x y : Dword) (shift : Int) : Option MOperand :=
  let b : Int := (natField x.toNat 0 32 : Int) + shift
  if natField x.toNat 48 16 ≠ 0 ∨ natField y.toNat 35 29 ≠ 0 ∨ b < 0 ∨ (scrSize : Int) ≤ b then none
  else some ⟨b.toNat, natField x.toNat 32 16, natField y.toNat 0 32, natField y.toNat 32 3⟩

/-- The 32-byte chunks, each a physical offset and a length, of nb bytes of a line's slice (R222). -/
def MOperand.chunks (o : MOperand) (l sl nb : Nat) : List (Nat × Nat) :=
  (upTo (ceilDiv nb 32)).map fun c => (rotate o.code (o.base + sl * o.tp + l * 64 * o.rp + 32 * c) l, min 32 (nb - 32 * c))

/-- The form-00 address of the first byte beyond the declared bytes (R222). -/
def boundFail (size : Nat) (l : List (Nat × Nat)) : Option Nat := (l.find? fun c => decide (size < c.1 + c.2)).map fun c => max c.1 size

/-- Bytes and poison of chunks of a scratchpad. -/
def Memory.chunkBytes (m : Memory) (at_ : ScrBase) (l : List (Nat × Nat)) : List Byte × Bool :=
  (l.flatMap fun c => m.scrBytes at_.core (at_.base + c.1) c.2, l.any fun c => m.scrRangePoison at_.core (at_.base + c.1) c.2)

/-- A line's codes in a slice and their poison. -/
abbrev MSide := Nat → Nat → Nat → List Nat × Bool

/-- An operand in scratchpad: line l, slice sl, n elements. -/
def scrSide (m : Memory) (at_ : ScrBase) (ty : MTy) (o : MOperand) : MSide := fun l sl n =>
  let r := m.chunkBytes at_ (o.chunks l sl (ty.lineBytes n))
  (ty.codes n r.1, r.2)

/-- An operand in vector registers (R220). -/
def regSide (c : Ctx) (ty : MTy) (v : VReg) : MSide := fun l sl n =>
  let els := (upTo n).map fun m =>
    let k := 64 * sl + m
    (c.getV (v + BitVec.ofNat 5 (k / ty.perReg))).elem ty.fmt.regBits (64 * (k % ty.perReg) + l)
  (els.map (·.code), els.any (·.p))

/-! Scales (R224) -/

/-- A scale block: granularity, COUNT, the shifted addresses of its A and B parts (R224), and the lines of each operand. -/
structure MScale where
  g : Gran
  count : Nat
  a : Nat
  b : Nat
  lines : Nat
deriving DecidableEq, Repr

/-- Where the B part lies behind SBASE (R224). -/
def scalePlace (g : Gran) (lines count : Nat) : Nat :=
  match g with
  | .b48 => lines * count
  | .row => 4 * lines
  | _ => 4

/-- A scale descriptor read under shifts of its two parts: none for a reserved bit or an address that is not of form 00. A B part that is
not shifted is bound-checked alone (DEDUCED, log 25). -/
def scaleOf (g : Gran) (lines : Nat) (sc : Dword) (shiftA shiftB : Int) : Option MScale :=
  let base : Int := natField sc.toNat 0 32
  let count := natField sc.toNat 32 16
  let b := base + scalePlace g lines count + shiftB
  let ok := fun (x : Int) => decide (0 ≤ x) && decide (x < (scrSize : Int))
  if natField sc.toNat 48 16 ≠ 0 ∨ !ok base ∨ !ok (base + shiftA) ∨ (shiftB ≠ 0 ∧ !ok b) then none
  else some ⟨g, count, (base + shiftA).toNat, b.toNat, lines⟩

/-- The offset and length of the scale bytes that a line of A applies up to K (R224): all of them under B48. -/
def MScale.aBytes (x : MScale) (k l : Nat) : Nat × Nat :=
  match x.g with
  | .b48 => (x.a + l * x.count, ceilDiv k 48)
  | .row => (x.a + 4 * l, 4)
  | _ => (x.a, 4)
/-- The same for line l of B operand g. -/
def MScale.bBytes (x : MScale) (k g l : Nat) : Nat × Nat :=
  match x.g with
  | .b48 => (x.b + (g * x.lines + l) * x.count, ceilDiv k 48)
  | .row => (x.b + 4 * (g * x.lines + l), 4)
  | _ => (x.b + 4 * g, 4)

/-- The scale that applies at k, from the bytes of a line: its value and poison; none without scales. -/
def scaleVal (m : Memory) (at_ : ScrBase) (x : Option MScale) (bytes : MScale → Nat × Nat) (k : Nat) : Option (Val × Bool) :=
  x.map fun x =>
    let a := at_.base + (bytes x).1
    if x.g = .b48 then (scaleByte (leNat (m.scrBytes at_.core (a + k / 48) 1)), m.scrRangePoison at_.core (a + k / 48) 1)
    else (FFmt.fp32.val (leNat (m.scrBytes at_.core a 4)), m.scrRangePoison at_.core a 4)

/-! Products (R82, R83, R225, R228) -/

/-- A line's slice ready to multiply: float values scaled, integers, poison. -/
structure MLine where
  fs : List Val
  is : List Int
  p : Bool
deriving DecidableEq, Repr

/-- A line of a slice (R69, R225). -/
def mkLine (ty : MTy) (side : MSide) (scale : Nat → Nat → Option (Val × Bool)) (l sl n : Nat) : MLine :=
  let r := side l sl n
  let scs := (upTo n).map fun m => scale l (64 * sl + m)
  let f := ty.fmt.float
  { fs := if ty.isInt then [] else List.zipWith (fun (c : Nat) (s : Option (Val × Bool)) => match s with
      | some s => (f.val c).scaled s.1
      | none => f.val c) r.1 scs
    is := if ty.isInt then r.1.map fun c => intVal ty.packBits true c else []
    p := r.2 || scs.any fun (s : Option (Val × Bool)) => s.any (·.2) }

/-- One accumulator element over a slice. -/
def mulAcc (ty : MTy) (acc : Nat) (a b : MLine) : Nat × Flags :=
  if ty.isInt then (dotInt acc (a.is.zip b.is), 0) else dotFloat ty.group acc (a.fs.zip b.fs)

/-- A slice applied to rows of a tile (R228): a row that is poisoned raises no flag; poison of the slice comes after it. -/
def applySlice (ty : MTy) (rows : Nat → Bool) (a b : Nat → MLine) (t : Tile) : Tile × Flags :=
  let bl := (upTo 64).map b
  let bp := bl.any (·.p)
  let l := (upTo 64).map fun i =>
    let r := t.row i
    if rows i then
      let x := a i
      let els := List.zipWith (fun acc y => mulAcc ty acc x y) r.1 bl
      ((els.map (·.1), r.2 || x.p || bp), if r.2 then (0 : Flags) else Flags.all (els.map (·.2)))
    else (r, 0)
  (Tile.ofRows (l.map (·.1)), Flags.all (l.map (·.2)))

/-- The lines of a product: A or B, by line, slice and count. -/
abbrev MLines := Nat → Nat → Nat → MLine

/-- Every slice of K applied to rows of a tile. -/
def applyAll (ty : MTy) (rows : Nat → Bool) (k : Nat) (a b : MLines) (t : Tile) : Tile × Flags :=
  (upTo (sliceCount k)).foldl (fun (r : Tile × Flags) sl =>
    let n := sliceLen k sl
    let x := applySlice ty rows (fun l => a l sl n) (fun l => b l sl n) r.1
    (x.1, r.2 ||| x.2)) (t, 0)

/-! Product words -/

/-- What an iteration of a nest adds (R237). -/
structure Shift where
  a : Int
  sa : Int
  b : Int
  sb : Int
  tile : Int
deriving DecidableEq, Repr

/-- The A-lines and B-lines of one operand block (R224). -/
def MFam.lines : MFam → Nat
  | .mmaq _ => 32
  | _ => 64

/-- The value of operand register i of the pairs. -/
def Product.reg (w : Product) (i : Nat) : Dword := w.regs.getD i 0
/-- The A pair. -/
def Product.pairA (w : Product) (h : Shift) : Option MOperand := pairOf (w.reg 0) (w.reg 1) h.a
/-- The B pair. -/
def Product.pairB (w : Product) (h : Shift) : Option MOperand := pairOf (w.reg 2) (w.reg 3) h.b
/-- The scale block; none without scales. -/
def Product.scale (w : Product) (h : Shift) : Option MScale := if w.g = .none then none else scaleOf w.g w.fam.lines w.sc h.sa h.sb

/-- MGRP's counts, start rows and running sums (R235): group, count, start row. -/
def groupRows (counts : List Nat) : List (Nat × Nat × Nat) :=
  (upTo counts.length).map fun g => (g, counts.getD g 0, (counts.take g).sum)

/-- MGRP's count table: its offset and length. -/
def Product.table (w : Product) : Option (Nat × Nat) :=
  match w.fam with
  | .mgrp gm1 ct => some (natField ct.toNat 0 32, gm1 + 1)
  | _ => none

/-- MGRP's GPITCH. -/
def Product.gpitch (w : Product) : Nat :=
  match w.fam with
  | .mgrp _ ct => natField ct.toNat 32 32
  | _ => 0

/-- MGRP's counts as they stand in scratchpad; the other words have one group of every row. A word reads them at its checks (DEDUCED, log 25). -/
def Product.counts (w : Product) (m : Memory) (at_ : ScrBase) : List Nat :=
  match w.table with
  | some (a, n) => (m.scrBytes at_.core (at_.base + a) n).map (·.toNat)
  | none => [w.fam.lines]

/-- The B operand of a group (R235). A BASE that g × GPITCH carries past form 00 is not a form fault: its bytes lie beyond the allocation
(DESIGN CHOICE, log 73). -/
def Product.groupB (w : Product) (h : Shift) (g : Nat) : Option MOperand :=
  (w.pairB h).map fun o => { o with base := o.base + g * w.gpitch }

/-- The A operand lies in scratchpad. -/
def Product.scratchA (w : Product) : Bool :=
  match w.fam with
  | .mmas | .mmaq _ | .mgrp .. => true
  | _ => false
/-- The B operand lies in scratchpad. -/
def Product.scratchB (w : Product) : Bool :=
  match w.fam with
  | .mma .. => false
  | _ => true

/-- A scratch fault of an M word (R243). -/
def scrTrap (cause : Byte) (k : AKind) (why a : Nat) : Trap := memTrap cause k true why (BitVec.ofNat 64 a)

/-- MMAR's address of element 0 of A-line 0, and its stride (R233). -/
def Product.mmarA (w : Product) : Dword × Nat := (w.reg 0, natField (w.reg 1).toNat 0 32)

/-- The package that a global address names; none where its form is bad. -/
def State.packageAt (s : State) (a : Dword) : Option Nat := (globalForm s.mem.own a).map fun v => natField v.toNat 44 12

/-- Step 2 of R227: forms, A before B before MGRP's table before the scales, then the tile that an iteration names (DEDUCED, log 25). -/
def State.formChecks (s : State) (w : Product) (h : Shift) : Option Trap :=
  let low := fun (i : Nat) => natField (w.reg i).toNat 0 32
  let a := match w.fam with
    | .mmar =>
      let (x, stride) : Dword × Nat := w.mmarA
      let last := x + BitVec.ofNat 64 (63 * stride + ((sliceCount w.k - 1) * w.ty.lineBytes 64 + w.ty.lineBytes (sliceLen w.k (sliceCount w.k - 1))) - 1)
      if natField (w.reg 1).toNat 32 32 ≠ 0 ∨ (s.packageAt x).isNone then some (memTrap causeAccess .load false 1 x)
      else if s.packageAt last ≠ s.packageAt x then some (memTrap causeAccess .load false 6 x) else none
    | _ => if w.scratchA && (w.pairA h).isNone then some (scrTrap causeAccess .load 2 (low 0)) else none
  let b := if w.scratchB && (w.pairB h).isNone then some (scrTrap causeAccess .load 2 (low 2)) else none
  let t := w.table.bind fun (x : Nat × Nat) => if scrSize ≤ x.1 then some (scrTrap causeAccess .load 2 x.1) else none
  let c := if w.g ≠ .none ∧ (w.scale h).isNone then some (scrTrap causeAccess .load 2 (natField w.sc.toNat 0 32)) else none
  let n := if 0 ≤ (w.tile : Int) + h.tile ∧ (w.tile : Int) + h.tile < (s.ctx.tiles : Int) then none else some (whyTrap 7)
  firstTrap [a, b, t, c, n]

/-- Step 3 of R227. FADDR is the operand's BASE, for a bad GPITCH that of group 0's B operand, and of a scale block the part that is
misaligned (DESIGN CHOICE, log 73). -/
def Product.alignChecks (w : Product) (h : Shift) : Option Trap :=
  let off := fun (o : Option MOperand) => o.bind fun o =>
    if o.base % 64 ≠ 0 ∨ o.tp % 64 ≠ 0 then some (scrTrap causeAlign .load 0 o.base) else none
  let a := match w.fam with
    | .mmar => if w.mmarA.1.toNat % 64 ≠ 0 ∨ w.mmarA.2 % 64 ≠ 0 then some (memTrap causeAlign .load false 0 w.mmarA.1) else none
    | _ => if w.scratchA then off (w.pairA h) else none
  let b := if w.scratchB then off (w.pairB h) else none
  let g := if w.gpitch % 64 ≠ 0 then some (scrTrap causeAlign .load 0 (w.groupB h 0 |>.map (·.base) |>.getD 0)) else none
  let c := (w.scale h).bind fun x =>
    if x.g = .b48 then none
    else if x.a % 4 ≠ 0 then some (scrTrap causeAlign .load 0 x.a)
    else if x.b % 4 ≠ 0 then some (scrTrap causeAlign .load 0 x.b) else none
  firstTrap [a, b, g, c]

/-- Step 4 of R227: MGRP's count table. -/
def State.tableChecks (s : State) (w : Product) : Option Trap :=
  w.table.bind fun (x : Nat × Nat) =>
    let at_ := s.ctx.scrBaseOf
    if at_.size < x.1 + x.2 then some (scrTrap causeBound .load 0 (max x.1 at_.size))
    else if s.mem.scrRangePoison at_.core (at_.base + x.1) x.2 then some (fretTrap 1 0 7 none)
    else
      let l := w.counts s.mem at_
      ((upTo l.length).find? fun g => decide (64 < (l.take (g + 1)).sum)).map fun g => Trap.withDetail 0x44 (g + (l.take (g + 1)).sum * 65536)

/-- The chunks of every slice of an operand's lines. -/
def Product.operandChunks (w : Product) (o : MOperand) (lines : List Nat) : List (Nat × Nat) :=
  lines.flatMap fun l => (upTo (sliceCount w.k)).flatMap fun sl => o.chunks l sl (w.ty.lineBytes (sliceLen w.k sl))

/-- Steps 5 and 6 of R227: every byte that the word will read lies below the declared bytes; then COUNT. -/
def State.boundChecks (s : State) (w : Product) (h : Shift) : Option Trap :=
  let at_ := s.ctx.scrBaseOf
  let groups := (groupRows (w.counts s.mem at_)).filter fun (x : Nat × Nat × Nat) => x.2.1 != 0
  let rows := upTo ((groups.map fun (x : Nat × Nat × Nat) => x.2.1).sum)
  let cols := upTo w.fam.lines
  let bound := fun (l : List (Nat × Nat)) => (boundFail at_.size l).map fun a => scrTrap causeBound .load 0 a
  let a := if w.scratchA then (w.pairA h).bind fun o => bound (w.operandChunks o rows) else none
  let b := if w.scratchB then groups.findSome? fun (x : Nat × Nat × Nat) => (w.groupB h x.1).bind fun o => bound (w.operandChunks o cols) else none
  let c := (w.scale h).bind fun x => bound (rows.map (x.aBytes w.k) ++ groups.flatMap fun (y : Nat × Nat × Nat) => cols.map (x.bBytes w.k y.1))
  let d := (w.scale h).bind fun x =>
    if x.count < w.g.need w.k then some (Trap.withDetail 0x43 (w.g.need w.k + x.count * 65536)) else none
  firstTrap [a, b, c, d]

/-- ACC_OWNERSHIP of an M word against COPYA (R218, R243). -/
def Ctx.ownCheck (c : Ctx) (tiles : List Nat) : Option Trap := (tiles.find? c.copyaHolds).map fun t => Trap.withDetail 0x40 (t + 256)

/-- The tile of an iteration. -/
def Product.tileAt (w : Product) (h : Shift) : Nat := ((w.tile : Int) + h.tile).toNat

/-- Steps 2 to 7 of R227. -/
def State.productChecks (s : State) (w : Product) (h : Shift) : Option Trap :=
  match s.formChecks w h with
  | some t => some t
  | none => firstTrap [w.alignChecks h, s.tableChecks w, s.boundChecks w h, s.ctx.ownCheck [w.tileAt h]]

/-- No shift. -/
def Shift.zero : Shift := ⟨0, 0, 0, 0, 0⟩

/-- The A-lines of a product whose A lies in registers or scratchpad. -/
def Product.linesA (w : Product) (m : Memory) (c : Ctx) (h : Shift) : MLines :=
  let at_ := c.scrBaseOf
  let side := match w.fam with
    | .mma a _ => regSide c w.ty a
    | _ => scrSide m at_ w.ty ((w.pairA h).getD ⟨0, 0, 0, 0⟩)
  mkLine w.ty side fun l k => scaleVal m at_ (w.scale h) (fun x => x.aBytes w.k l) k

/-- The B-lines of a group. -/
def Product.linesB (w : Product) (m : Memory) (c : Ctx) (h : Shift) (g : Nat) : MLines :=
  let at_ := c.scrBaseOf
  let side := match w.fam with
    | .mma _ b => regSide c w.ty b
    | _ => scrSide m at_ w.ty ((w.groupB h g).getD ⟨0, 0, 0, 0⟩)
  mkLine w.ty side fun l k => scaleVal m at_ (w.scale h) (fun x => x.bBytes w.k g l) k

/-- One execution of MMA, MMAS or MGRP with its counts, or one iteration of a nest, on its tile (R228, R235). -/
def State.runProduct (s : State) (w : Product) (counts : List Nat) (h : Shift) : State :=
  let c := s.ctx
  let a := w.linesA s.mem c h
  let r := (groupRows counts).foldl (fun (r : Tile × Flags) (x : Nat × Nat × Nat) =>
    if x.2.1 = 0 then r
    else
      let rows := fun i => decide (x.2.2 ≤ i) && decide (i < x.2.2 + x.2.1)
      let t := if w.z then r.1.zeroRows rows else r.1
      let y := applyAll w.ty rows w.k a (w.linesB s.mem c h x.1) t
      (y.1, r.2 ||| y.2)) (c.getA (w.tileAt h), 0)
  { s with ctx := (c.setA (w.tileAt h) r.1).raise r.2 }

/-! The array (R217, R218) -/

/-- Tiles that array words under way hold. -/
def Ctx.jobTiles (c : Ctx) : List Nat := c.jobs.flatMap (·.tiles)

/-- An array word under way holds one of the tiles. -/
def Ctx.tileBusy (c : Ctx) (tiles : List Nat) : Bool := tiles.any c.jobTiles.contains

/-- An MMA under way reads one of the vector registers (R217). -/
def Ctx.jobReadsV (c : Ctx) (regs : List VReg) : Bool := c.jobs.any fun j => match j.product.fam with
  | .mma a b =>
    let n := ceilDiv j.product.k j.product.ty.perReg
    (groupRegs a n ++ groupRegs b n).any regs.contains
  | _ => false

/-- A V memory word under way will write one of the vector registers (R98). -/
def Ctx.vOwes (c : Ctx) (regs : List VReg) : Bool := c.vplan.any fun p => regs.any p.writes.contains

/-- A word that later M words may pass while it runs takes its place in the array; there it waits for an earlier word on its tiles, and M
reports STALL 14 meanwhile (`Ctx.arrayStall`). One whose tile two others already wait for or work on holds at M (R217) (DEDUCED, log 25). -/
def State.mIssue (s : State) (leave : Bool) (j : MJob) : Res :=
  let take := fun (s : State) =>
    if s.ctx.tileBusy j.tiles && decide (2 ≤ s.ctx.jobs.length) then Res.hold 14 false s
    else .done true { s with ctx := { (s.ctx.leaveTaken .M) with jobs := s.ctx.jobs ++ [{ j with leave := s.ctx.leaveHeld .M }] } }
  if leave then s.leaveAsk .M leaveNest take else take s

/-- MMAQ and MMAR issue: leave where they need it (R215), then the hold (R218). -/
def State.mTake (s : State) (leave : Bool) (tile : Nat) : Res :=
  let hold := fun (s : State) => Res.hold 14 false { s with ctx := { s.ctx with held := [BitVec.ofNat 7 tile] } }
  if leave then s.leaveAsk .M leaveNest hold else hold s

/-- MMAQ or MMAR completes: its hold and its grant end. -/
def State.mDone (s : State) : State :=
  let s := s.leaveDone .M
  { s with ctx := { s.ctx with held := [], slices := [], prog := { s.ctx.prog with mslice := 0, miter := 0, mflags := 0 } } }

/-- A register of a group beyond the demand, or a tile beyond the allocation (R36). -/
def Ctx.mBeyond (c : Ctx) (regs : List VReg) (tile : Option Nat) : Bool :=
  regs.any (fun r => decide (c.demand ≤ r.toNat)) || tile.any fun t => decide (c.tiles ≤ t)

/-- Runs an M word: its allocations first (R33), its gates where it touches memory (R281, R282), then its clean registers. -/
def mWord (t : Tok) (n : Nat) (regs : List VReg) (tile : Option Nat) (mem : Bool) (scalars : List SReg) (body : Tok → List Dword → State → Res)
    (s : State) : Outcome :=
  ctxWord .M t n (fun push s =>
    if s.ctx.mBeyond regs tile then .trap (whyTrap 7) s
    else
      let go := fun (_ : Unit) => s.cleanAll scalars fun vs => body push vs s
      if mem then s.ungated go else go ()) s

/-- A product word (R227, R228). `sct` is MGRP's register; `work` goes on once the checks have passed, `more` once the word has issued. -/
def productWord (t : Tok) (fam : MFam) (ty : MTy) (tile : TileNo) (pairs sct : List SReg) (vregs : List VReg) (z : Bool) (k : KLen)
    (g : Gran) (sc : SReg) (more : Product → State → Res) (work : Bool → Tok → Product → State → Res) (s : State) : Outcome :=
  mWord t 2 vregs (some tile.toNat) (!pairs.isEmpty || g != .none) (pairs ++ sct ++ (if g = .none then [] else [sc]))
    (fun push vs s =>
      let fam := match fam with
        | .mgrp gm1 _ => .mgrp gm1 (vs.getD pairs.length 0)
        | f => f
      let w : Product := ⟨fam, ty, tile.toNat, z, k.toNat, g, vs.take pairs.length, if g = .none then 0 else vs.getD (pairs.length + sct.length) 0⟩
      if !s.ctx.held.isEmpty then more w s
      else if s.ctx.vOwes vregs then .wait 7 s
      else match s.productChecks w .zero with
        | some tr => .trap tr s
        | none =>
          let leave := match fam with
            | .mma .. => false
            | _ => decide (512 < k.toNat)
          work leave push w s) s

/-- A product as the one iteration of an array word. -/
def Product.job (w : Product) (c : Ctx) (m : Memory) (push : Tok) : MJob :=
  ⟨c.streams.m.pos, w, w.counts m c.scrBaseOf, Vector.replicate 6 NestLevel.zero, 0, 1, 0, push, [w.tile], 0⟩

/-- A product word that takes its place in the array. -/
def workArray (leave : Bool) (push : Tok) (w : Product) (s : State) : Res := s.mIssue leave (w.job s.ctx s.mem push)

/-- What an M word that holds no tile of its own does further: nothing. -/
def notIssued (_ : Product) (s : State) : Res := .hold 14 false s

/-- The registers of an MMA operand (R220). -/
def mmaRegs (ty : MTy) (v : VReg) (k : KLen) : List VReg := groupRegs v (ceilDiv k.toNat ty.perReg)

/-- MMA (R220, R229). -/
def execMma (t : Tok) (ty : MTy) (tile : TileNo) (a b : VReg) (z : Bool) (k : KLen) (g : Gran) (sc : SReg) (s : State) : Outcome :=
  productWord t (.mma a b) ty tile [] [] (mmaRegs ty a k ++ mmaRegs ty b k) z k g sc notIssued workArray s
/-- MMAS (R221, R230). -/
def execMmas (t : Tok) (ty : MTy) (tile : TileNo) (a b : SReg) (z : Bool) (k : KLen) (g : Gran) (sc : SReg) (s : State) : Outcome :=
  productWord t .mmas ty tile [a, a + 1, b, b + 1] [] [] z k g sc notIssued workArray s
/-- MGRP (R235). -/
def execMgrp (t : Tok) (ty : MTy) (tile : TileNo) (a b : SReg) (z : Bool) (k : KLen) (g : Gran) (sc : SReg) (gm1 : BitVec 6) (ct : SReg)
    (s : State) : Outcome :=
  productWord t (.mgrp gm1.toNat 0) ty tile [a, a + 1, b, b + 1] [ct] [] z k g sc notIssued workArray s

/-! MMAQ (R231, R232) -/

/-- The core of member q of a quartet (R11). -/
def memberCore (quartet q : Nat) : Nat := quartet / 32 * 128 + (quartet % 32 / 8 * 2 + q / 2) * 16 + quartet % 8 * 2 + q % 2
/-- The member number of a core within its quartet (R11). -/
def memberOf (core : Nat) : Nat := core % 2 + 2 * (core % 128 / 16 % 2)

/-- MMAQ (R231, R232): the word enters its core's queue; the quartet's join or a trap ends it. -/
def execMmaq (t : Tok) (ty : MTy) (tile : TileNo) (a b : SReg) (z : Bool) (k : KLen) (g : Gran) (sc : SReg) (seq : BitVec 9) (s : State) : Outcome :=
  productWord t (.mmaq seq) ty tile [a, a + 1, b, b + 1] [] [] z k g sc (fun _ s => .hold 14 false s)
    (fun leave _ w s => match s.mTake leave tile.toNat with
      | .hold code pb s =>
        .hold code pb { s with quartet := s.quartet ++ [⟨s.ctx.core, s.ctx.inst, s.ctx.asid, t, ty, tile, z, k.toNat, g, seq, w.regs, w.sc⟩] }
      | r => r) s

/-- The head of a core's queue. -/
def State.quartetHead (s : State) (core : Nat) : Option QuartetWord := s.quartet.find? (·.core == core)
/-- A word leaves its queue. -/
def State.quartetDrop (s : State) (w : QuartetWord) : State := { s with quartet := s.quartet.filter (·.inst != w.inst) }

/-- A queued word as a product. -/
def QuartetWord.product (w : QuartetWord) : Product := ⟨.mmaq w.seq, w.ty, w.tile.toNat, w.z, w.k, w.g, w.regs, w.sc⟩

/-- A trap of the M stream of a context that waits in a queue; the word is then executed again under R113. -/
def State.quartetTrap (s : State) (w : QuartetWord) (tr : Trap) : State :=
  let s := s.quartetDrop w
  let s := match s.findCtx w.inst with
    | none => s
    | some c => s.endGrant (dieOfCore c.core) (c.leaveHeld .M)
  s.onCtx w.inst fun c =>
    let c := ({ c.leaveTaken .M with held := [] } : Ctx).halted .M
    if c.regs.trapped then c else c.takeTrap (some .M) 2 tr s.pkg.time

/-- The first of SEQ, type, K, GRAN, ASID in which two words differ (R232, R243). -/
def QuartetWord.differs (a b : QuartetWord) : Option Nat :=
  if a.seq ≠ b.seq then some 0 else if a.ty ≠ b.ty then some 1 else if a.k ≠ b.k then some 2 else if a.g ≠ b.g then some 3
  else if a.asid ≠ b.asid then some 4 else none

/-- One member's tile after the joint product, and its flags (R231): A-lines and B-lines come from the four members' contexts. -/
def joinTile (m : Memory) (l : List (QuartetWord × Ctx)) (q : Nat) (w : QuartetWord) (c : Ctx) : Tile × Flags :=
  let side := fun (first : Nat) (f : Product → Ctx → MLines) (i sl n : Nat) =>
    match l[(first + i) / 32]? with
    | some x => f x.1.product x.2 ((first + i) % 32) sl n
    | none => ⟨[], [], false⟩
  let a := side (64 * (q / 2)) fun p c => p.linesA m c .zero
  let b := side (64 * (q % 2)) fun p c => p.linesB m c .zero 0
  let rows := fun (_ : Nat) => true
  let t := c.getA w.tile.toNat
  applyAll w.ty rows w.k a b (if w.z then t.zeroRows rows else t)

/-- A context's MMAQ completes with its pushes, as they were checked when it issued. -/
def Ctx.joined (c : Ctx) (w : QuartetWord) (r : Tile × Flags) (time : Dword) : Ctx :=
  let (push, late) : Tok × Option Trap := c.pushesOf .M w.t
  let c := ((c.setA w.tile.toNat r.1).raise r.2).complete .M (c.popsLeft .M w.t) push false 2
  let c := { c.leaveTaken .M with held := [] }
  match late with
  | none => c
  | some tr => if c.regs.trapped then c else c.takeTrap (some .M) 0 tr time

/-- QUARTET_JOIN (R231, R232): the heads of a quartet's four queues run their joint product, or trap QUARTET_MISMATCH. A tile that an
earlier array word still holds is waited for (R217). -/
def execQuartetJoin (q : Nat) (s : State) : Outcome :=
  let heads := (upTo 4).filterMap fun i => (s.quartetHead (memberCore q i)).bind fun w => (s.findCtx w.inst).map fun c => (w, c)
  .next (if heads.any fun x => x.2.tileBusy [x.1.tile.toNat] then s else match heads with
    | [x0, x1, x2, x3] =>
      match [x1, x2, x3].filterMap (fun y => x0.1.differs y.1) with
      | [] =>
        let tiles := heads.zipIdx.map fun (x : (QuartetWord × Ctx) × Nat) => (x.1, joinTile s.mem heads x.2 x.1.1 x.1.2)
        tiles.foldl (fun (s : State) (x : (QuartetWord × Ctx) × Tile × Flags) =>
          let s := (s.quartetDrop x.1.1).endGrant (dieOfCore x.1.2.core) (x.1.2.leaveHeld .M)
          s.onCtx x.1.1.inst fun c => c.joined x.1.1 x.2 s.pkg.time) s
      | ds =>
        let f := ds.foldl min 4
        heads.foldl (fun (s : State) (x : QuartetWord × Ctx) => s.quartetTrap x.1 (Trap.withDetail 0x42 (15 + x.1.seq.toNat * 16 + f * 8192))) s
    | _ => s)

/-- QUARTET_TIMEOUT (R232, R243): the oldest word of a core's queue has waited 65,536 cycles without joining (DESIGN CHOICE, log 7). -/
def execQuartetTimeout (core : Nat) (s : State) : Outcome :=
  .next (match s.quartetHead core with
    | none => s
    | some w =>
      let present := (upTo 4).map fun i => if (s.quartetHead (memberCore (quartetOf core) i)).isSome then 2 ^ i else 0
      s.quartetTrap w (Trap.withDetail 0x41 (present.sum + w.seq.toNat * 16)))

/-! MMAR (R233) -/

/-- The pieces of a line's slice, each within a sector: address and length. -/
def linePieces (a : Dword) : Nat → List (Dword × Nat)
  | 0 => []
  | n + 1 =>
    -- the first piece ends at the sector's end
    let first := min (n + 1) (32 - a.toNat % 32)
    (a, first) :: ((upTo (ceilDiv (n + 1 - first) 32)).map fun i =>
      (a + BitVec.ofNat 64 (first + 32 * i), min 32 (n + 1 - first - 32 * i)))

/-- Requests the parts of a line from an address on, in order: own-package parts are read at once, those of another package asked for; the
first that faults ends the request. -/
def State.askParts (s : State) (line : Nat) : List (Dword × Nat) → State × List MPart × Option Trap
  | [] => (s, [], none)
  | (a, n) :: rest =>
    match s.access a .load 1 with
    | (s, .error tr) => (s, [], some tr)
    | (s, .ok g) =>
      let (s, part) : State × MPart :=
        if s.remote g then
          let sec : Global := ⟨BitVec.ofNat 56 (g.va.toNat / 32 * 32), ⟨g.phys.pa / 32 * 32, g.phys.slot⟩⟩
          (s.request sec (.read 32) (.mmar s.ctx.inst), ⟨line, some s.net.nextId, g.phys.pa % 32, n, none⟩)
        else
          let r := s.mem.dieRead g.phys.slot g.phys.off n
          ({ s with mem := r.2.2 }, ⟨line, none, 0, n, some (r.1, r.2.1)⟩)
      let r := s.askParts line rest
      (r.1, part :: r.2.1, r.2.2)

/-- Requests a slice, line by line (R233): it is translated and checked as it is requested. -/
def State.askSlice (s : State) (w : Product) (sl : Nat) : List Nat → State × MSlice
  | [] => (s, ⟨[], none⟩)
  | l :: ls =>
    let n := sliceLen w.k sl
    let a := w.mmarA.1 + BitVec.ofNat 64 (l * w.mmarA.2 + sl * w.ty.lineBytes 64)
    match s.askParts l (linePieces a (w.ty.lineBytes n)) with
    | (s, parts, some tr) => (s, ⟨parts, some tr⟩)
    | (s, parts, none) =>
      let r := s.askSlice w sl ls
      (r.1, ⟨parts ++ r.2.parts, r.2.fault⟩)

/-- Requests the next slice that has not been requested, at most `ahead` slices beyond the one being consumed. -/
def State.askAhead (s : State) (w : Product) (ahead : Nat) : State :=
  let sl := s.ctx.prog.mslice + s.ctx.slices.length
  if s.ctx.slices.length ≤ ahead ∧ sl < sliceCount w.k ∧ s.ctx.slices.all (fun x => x.fault.isNone) then
    let r := s.askSlice w sl (upTo 64)
    { r.1 with ctx := { r.1.ctx with slices := r.1.ctx.slices ++ [r.2] } }
  else s

/-- The codes and poison of a line of a slice that has arrived. -/
def MSlice.line (x : MSlice) (ty : MTy) (n l : Nat) : List Nat × Bool :=
  let ps := x.parts.filter (·.line == l)
  (ty.codes n (ps.flatMap fun p => (p.got.map (·.1)).getD []), ps.any fun p => p.got.any (·.2))

/-- An MMAR applies the slice it is at to its tile (R228). -/
def State.applyMmar (s : State) (w : Product) (x : MSlice) : State :=
  let c := s.ctx
  let sl := c.prog.mslice
  let n := sliceLen w.k sl
  let side : MSide := fun l _ n => x.line w.ty n l
  let a := mkLine w.ty side fun l k => scaleVal s.mem c.scrBaseOf (w.scale .zero) (fun x => x.aBytes w.k l) k
  let b := w.linesB s.mem c .zero 0
  let r := applySlice w.ty (fun _ => true) (fun l => a l sl n) (fun l => b l sl n) (c.getA w.tile)
  { s with ctx := { (c.setA w.tile r.1) with
      prog := { c.prog with mslice := sl + 1, mflags := c.prog.mflags ||| r.2 }, slices := c.slices.drop 1 } }

/-- An MMAR that has issued (R233): Z first, then slice by slice; a fault is taken when the array reaches its slice, with the flags of the
slices below it raised (DEDUCED, log 25). It waits for an earlier array word on its tile (R217). A slow turn requests one slice ahead, within
the depth that it has seen at issue (R234). -/
def workMmar (w : Product) (s : State) : Res :=
  let z := fun (s : State) => if s.ctx.prog.miter = 0 then
      { s with ctx := { (if w.z then s.ctx.setA w.tile ((s.ctx.getA w.tile).zeroRows fun _ => true) else s.ctx) with prog := { s.ctx.prog with miter := 1 } } }
    else s
  if s.ctx.slow then match s.ctx.seen .M 0x008 (BitVec.ofNat 64 s.ctx.regs.mpref) with
    | .ok d => .hold 14 false (s.askAhead w d.toNat)
    | .error _ => .hold 14 false s
  else if s.ctx.tileBusy [w.tile] then .hold 14 false s
  else
    let s := z s
    let s := if s.ctx.slices.isEmpty then s.askAhead w 0 else s
    match s.ctx.slices with
    | [] => .hold 14 false s
    | x :: _ =>
      match x.fault with
      | some tr =>
        let s1 := s.leaveDone .M
        let sl := s.ctx.prog.mslice
        .trap (if tr.cause = causeFret then tr else { tr with detail := tr.detail + BitVec.ofNat 64 (sl * 2 ^ 32) })
          { s1 with ctx := { (s1.ctx.raise s1.ctx.prog.mflags) with held := [], slices := [], prog := { s1.ctx.prog with mflags := 0 } } }
      | none =>
        if x.parts.any fun p => p.got.isNone then .hold 14 false s
        else
          let s := s.applyMmar w x
          if s.ctx.prog.mslice < sliceCount w.k then .hold 14 false s else .done false { s with ctx := s.ctx.raise s.ctx.prog.mflags }.mDone

/-- MMAR (R233): it issues where it sees M_PREFETCH (R234). -/
def execMmar (t : Tok) (ty : MTy) (tile : TileNo) (a b : SReg) (z : Bool) (k : KLen) (g : Gran) (sc : SReg) (s : State) : Outcome :=
  productWord t .mmar ty tile [a, a + 1, b, b + 1] [] [] z k g sc workMmar (fun leave _ _ s =>
    match s.ctx.seen .M 0x008 (BitVec.ofNat 64 s.ctx.regs.mpref) with
    | .error code => .wait code s
    | .ok _ => s.mTake leave tile.toNat) s

/-! The nest (R236, R237) -/

/-- A level of the shadow table. -/
def nestLevel (v : Vector NestLevel 6) (l : Nat) : NestLevel := if h : l < 6 then v[l] else NestLevel.zero

/-- MNCFG (R236). -/
def execMncfg (t : Tok) (l : BitVec 3) (a b : SReg) (count : BitVec 16) (acc : Byte) (s : State) : Outcome :=
  mWord t 2 [] none false [a, b] (fun _ vs s =>
    let x := vs.getD 0 0
    let y := vs.getD 1 0
    let lev : NestLevel := ⟨x.extractLsb' 0 32, x.extractLsb' 32 32, y.extractLsb' 0 32, y.extractLsb' 32 32, count, acc⟩
    .done false { s with ctx := { s.ctx with shadow := if h : l.toNat < 6 then s.ctx.shadow.set l.toNat lev else s.ctx.shadow } }) s

/-- The index of a level at an iteration: level 0 varies fastest. -/
def nestIndex (counts : List Nat) (it l : Nat) : Nat := it / (counts.take l).prod % counts.getD l 1

/-- The shift of iteration `it` of a nest of n levels (R237). -/
def nestShift (v : Vector NestLevel 6) (n it : Nat) : Shift :=
  let counts := (upTo n).map fun l => (nestLevel v l).count.toNat
  let sum := fun (f : NestLevel → Int) => ((upTo n).map fun l => (nestIndex counts it l : Int) * f (nestLevel v l)).sum
  ⟨sum fun x => x.a.toInt, sum fun x => x.sa.toInt, sum fun x => x.b.toInt, sum fun x => x.sb.toInt, sum fun x => x.step.toInt⟩

/-- The iterations of a nest. -/
def nestTotal (v : Vector NestLevel 6) (n : Nat) : Nat := ((upTo n).map fun l => (nestLevel v l).count.toNat).prod

/-- The first failing check of the first iteration that fails (R237), from iteration `it` on. -/
def State.nestChecks (s : State) (w : Product) (v : Vector NestLevel 6) (n : Nat) : Nat → Nat → Option Trap
  | 0, _ => none
  | fuel + 1, it => match s.productChecks w (nestShift v n it) with
    | some t => some t
    | none => s.nestChecks w v n fuel (it + 1)

/-- The tiles that the iterations of a nest name. -/
def nestTiles (w : Product) (v : Vector NestLevel 6) (n total : Nat) : List Nat :=
  (upTo 96).filter fun x => (upTo total).any fun it => w.tileAt (nestShift v n it) == x

/-- A nest whose template is an MMAS. The active levels are the shadow's as MNEST issues (DEDUCED, log 25). -/
def nestWord (t : Tok) (n : Nat) (ty : MTy) (tile : TileNo) (a b : SReg) (z : Bool) (k : KLen) (g : Gran) (sc : SReg) (s : State) : Outcome :=
  mWord t 3 [] (some tile.toNat) true [] (fun push _ s =>
    let v := s.ctx.shadow
    let total := nestTotal v n
    if total = 0 then .done false { s with ctx := { s.ctx with active := v } }
    else s.cleanAll ([a, a + 1, b, b + 1] ++ (if g = .none then [] else [sc])) fun vs =>
      let w : Product := ⟨.mmas, ty, tile.toNat, z, k.toNat, g, vs.take 4, if g = .none then 0 else vs.getD 4 0⟩
      match s.nestChecks w v n total 0 with
      | some tr => .trap tr s
      | none =>
        match s.mIssue true ⟨s.ctx.streams.m.pos, w, [64], v, n, total, 0, push, nestTiles w v n total, 0⟩ with
        | .done d s => .done d { s with ctx := { s.ctx with active := v } }
        | r => r) s

/-- MNEST (R237): its template is the word after it (DEDUCED, log 25). -/
def execMnest (t : Tok) (n : BitVec 3) (s : State) : Outcome :=
  if s.agent ≠ .stream .M then .fault .notOwner
  else match s.codeAt (s.ctx.streams.m.pc + 4) with
    | (s, .error _) => .next { s with ctx := s.ctx.stalled .M 8 }
    | (s, .ok (w, lit)) =>
      let h := Header.unpack w
      let family := Engine.ofCode h.eng == .M && h.op.extractLsb' 4 3 == 1 && isWide w
      let stop := fun (size : Nat) (tr : Trap) => ctxWord .M t size (fun _ s => .trap tr s) s
      if !family then stop 1 (wordTrap causeIllegal (Instr.firstWord (.mnest t n)))
      else match decodeWord w lit with
        | .ok (.mmas t2 ty tile a b z k g sc) =>
          if t2 = Tok.none then nestWord t n.toNat ty tile a b z k g sc s else stop 3 (wordTrap causeReserved w)
        | _ => stop 3 (wordTrap causeReserved w)

/-! Array words that have issued (R217) -/

/-- An array word under way is over: its pushes are applied and its grant ends. -/
def State.jobDone (s : State) (k : Nat) (j : MJob) : State :=
  let s := s.endGrant (dieOfCore s.ctx.core) j.leave
  { s with ctx := { s.ctx with tok := pushAll s.ctx.tok .M j.push, jobs := s.ctx.jobs.eraseIdx k } }

/-- The array runs one iteration of its k-th word, where no earlier one holds a tile of it (R82, R217). -/
def State.runJob (s : State) (k : Nat) : State :=
  match s.ctx.jobs[k]? with
  | none => s
  | some j =>
    if (s.ctx.jobs.take k).any fun i => i.tiles.any j.tiles.contains then s
    else
      let s := s.runProduct j.product j.counts (nestShift j.levels j.n j.it)
      let j := { j with it := j.it + 1 }
      if j.it < j.total then { s with ctx := { s.ctx with jobs := s.ctx.jobs.set k j } } else s.jobDone k j

/-- A turn of the array of a context (R107: also of one that has trapped). -/
def State.turnArray (s : State) (inst k : Nat) : State :=
  match s.focus inst with
  | none => s
  | some t => if t.ctx.place = .resident then { t.runJob k with agent := s.agent } else s

/-! Moving tiles (R238 to R242) -/

/-- A word that moves a tile waits for array words that hold it, and for those that read a vector register it writes (R217). -/
def State.afterJobs (s : State) (tiles : List Nat) (regs : List VReg) (k : Unit → Res) : Res :=
  if s.ctx.tileBusy tiles || s.ctx.jobReadsV regs then .hold 14 false s else k ()

/-- Takes a hold for an instant (R218): the word traps where COPYA holds one of its tiles. -/
def State.owning (s : State) (tiles : List Nat) (k : Unit → Res) : Res :=
  match s.ctx.ownCheck tiles with
  | some tr => .trap tr s
  | none => s.afterJobs tiles [] k

/-- MZERO (R238). -/
def execMzero (t : Tok) (tile : TileNo) (nm1 : BitVec 5) (s : State) : Outcome :=
  let tiles := (upTo (nm1.toNat + 1)).map (tile.toNat + ·)
  mWord t 1 [] (some (tile.toNat + nm1.toNat)) false [] (fun _ _ s =>
    s.owning tiles fun _ => .done false { s with ctx := tiles.foldl (fun c x => c.setA x ⟨0, 0⟩) s.ctx }) s

/-- A conversion descriptor (R239). -/
structure ConvDesc where
  fmt : NFmt
  rm : RMode
  sinv : Bool
  row0 : Nat
deriving DecidableEq, Repr

/-- The descriptor in sB: none where a field is bad (R239). -/
def convDesc (v : Dword) : Option ConvDesc :=
  match NFmt.ofCode (v.extractLsb' 8 5), RMode.ofCode (v.extractLsb' 13 3) with
  | some f, some rm =>
    let row0 := natField v.toNat 0 6
    let ok := match f with
      | .int8 | .int16 | .int32 | .bf16 | .fp16 | .fp32 | .fp8e4 | .fp8e5 => true
      | _ => false
    if natField v.toNat 17 47 ≠ 0 ∨ natField v.toNat 6 2 ≠ 0 ∨ !ok ∨ rm = .sr ∨ row0 % f.tileRows ≠ 0 then none
    else some ⟨f, rm, v.getLsbD 16, row0⟩
  | _, _ => none

/-- A tile element converted to a target (R239): fp32 and int32 copy the code. -/
def convTile (d : ConvDesc) (code : Nat) : Nat × Flags :=
  match d.fmt with
  | .fp32 | .int32 => (code, 0)
  | f => match f.kind with
    | .float _ => convert .fp32 f d.rm d.sinv 0 code
    | .int _ _ => convert .int32 f d.rm d.sinv 0 code

/-- A row converted: its codes, and its flags where it is clean. -/
def Tile.convRow (t : Tile) (d : ConvDesc) (i : Nat) : List Nat × Flags :=
  let l := (t.row i).1.map (convTile d)
  (l.map (·.1), if (t.row i).2 then 0 else Flags.all (l.map (·.2)))

/-- MTOV (R239). -/
def execMtov (t : Tok) (tile : TileNo) (d : VReg) (b : SReg) (s : State) : Outcome :=
  mWord t 1 [d] (some tile.toNat) false [b] (fun _ vs s =>
    match convDesc (vs.getD 0 0) with
    | none => .trap (wordTrap causeReserved (Instr.firstWord (.mtov t tile d b))) s
    | some x => s.afterJobs [tile.toNat] [d] fun _ =>
      let a := s.ctx.getA tile.toNat
      let rows := (upTo x.fmt.tileRows).map fun j => (a.convRow x (x.row0 + j), a.p.getLsbD (x.row0 + j))
      let l : VWrites := rows.flatMap fun (r : (List Nat × Flags) × Bool) => r.1.1.map fun c => some ⟨c, r.2⟩
      .done false { s with ctx := (s.ctx.setV d ((s.ctx.getV d).write x.fmt.regBits l)).raise (Flags.all (rows.map fun r => r.1.2)) }) s

/-- A vector element widened for a tile (R240). -/
def widenTile (f : NFmt) (code : Nat) : Nat × Flags :=
  match f.kind with
  | .float g => ((widen32 g code).1, Val.sigFlags [g.val code])
  | .int n sg => (intCode 32 (intVal n sg code), 0)

/-- MFROMV (R240). -/
def execMfromv (t : Tok) (tile : TileNo) (a : VReg) (b : SReg) (ad : Bool) (s : State) : Outcome :=
  mWord t 1 [a] (some tile.toNat) false [b] (fun _ vs s =>
    let bad := Res.trap (wordTrap causeReserved (Instr.firstWord (.mfromv t tile a b ad))) s
    match convDesc (vs.getD 0 0) with
    | none => bad
    | some x =>
      if x.rm ≠ .rne ∨ x.sinv ∨ x.fmt = .fp8e4 ∨ x.fmt = .fp8e5 then bad
      else if s.ctx.vOwes [a] then .wait 7 s
      else s.owning [tile.toNat] fun _ =>
        let old := s.ctx.getA tile.toNat
        let src := s.ctx.getV a
        let w := x.fmt.regBits
        let rows := (upTo 64).map fun i =>
          if x.row0 ≤ i ∧ i < x.row0 + x.fmt.tileRows then
            let els := (upTo 64).map fun c => src.elem w (64 * (i - x.row0) + c)
            let p := els.any (·.p) || (ad && (old.row i).2)
            let new := List.zipWith (fun (e : VElem) (o : Nat) =>
              let v := widenTile x.fmt e.code
              if !ad then v
              else if x.fmt.isInt then ((o + v.1) % 2 ^ 32, 0)
              else
                let r := fpAdd .fp32 o v.1
                (r.1, v.2 ||| r.2)) els (old.row i).1
            ((new.map (·.1), p), if p then (0 : Flags) else Flags.all (new.map (·.2)))
          else (old.row i, 0)
        .done false { s with ctx := (s.ctx.setA tile.toNat (Tile.ofRows (rows.map (·.1)))).raise (Flags.all (rows.map (·.2))) }) s

/-- The chunks of row i of a tile in scratchpad at n bytes an element (R241, R242). -/
def rowChunks (o : MOperand) (n i : Nat) : List (Nat × Nat) := { o with tp := 0 }.chunks i 0 (64 * n)

/-- The checks of a tile's place in scratchpad, TP ignored: form, alignment, bounds. -/
def State.placeChecks (s : State) (x y : Dword) (k : AKind) (n : Nat) : Except Trap MOperand :=
  match pairOf x y 0 with
  | none => .error (scrTrap causeAccess k 2 (natField x.toNat 0 32))
  | some o =>
    if o.base % 64 ≠ 0 then .error (scrTrap causeAlign k 0 o.base)
    else match boundFail s.ctx.scrBytes ((upTo 64).flatMap (rowChunks o n)) with
      | some a => .error (scrTrap causeBound k 0 a)
      | none => .ok o

/-- The scratchpad chunks that an iteration of an array word reads (R217, R221, R224). -/
def MJob.reads (j : MJob) (it : Nat) : List (Nat × Nat) :=
  let h := nestShift j.levels j.n it
  let w := j.product
  let groups := (groupRows j.counts).filter fun x => x.2.1 != 0
  let rows := upTo ((groups.map fun x => x.2.1).sum)
  let cols := upTo w.fam.lines
  (if w.scratchA then ((w.pairA h).map fun o => w.operandChunks o rows).getD [] else []) ++
  (if w.scratchB then groups.flatMap fun x => ((w.groupB h x.1).map fun o => w.operandChunks o cols).getD [] else []) ++
  ((w.scale h).map fun x => rows.map (x.aBytes w.k) ++ groups.flatMap fun y => cols.map (x.bBytes w.k y.1)).getD []

/-- An array word under way still reads a byte of these chunks of scratchpad. -/
def Ctx.jobsRead (c : Ctx) (l : List (Nat × Nat)) : Bool :=
  let meets := fun (x : Nat × Nat) => l.any fun y => decide (x.1 < y.1 + y.2) && decide (y.1 < x.1 + x.2)
  c.jobs.any fun j => (upTo (j.total - j.it)).any fun i => (j.reads (j.it + i)).any meets

/-- A word that stores to chunks of scratchpad waits for array words that still read one of their bytes (R217). -/
def State.afterReaders (s : State) (l : List (Nat × Nat)) (k : Unit → Res) : Res := if s.ctx.jobsRead l then .hold 14 false s else k ()

/-- MSTORE (R241). -/
def execMstore (t : Tok) (tile : TileNo) (a b : SReg) (s : State) : Outcome :=
  mWord t 1 [] (some tile.toNat) true [a, a + 1, b] (fun _ vs s =>
    match convDesc (vs.getD 2 0) with
    | none => .trap (wordTrap causeReserved (Instr.firstWord (.mstore t tile a b))) s
    | some d =>
      if d.row0 ≠ 0 then .trap (wordTrap causeReserved (Instr.firstWord (.mstore t tile a b))) s
      else
        let n := d.fmt.regBits / 8
        match s.placeChecks (vs.getD 0 0) (vs.getD 1 0) .store n with
        | .error tr => .trap tr s
        | .ok o => s.afterJobs [tile.toNat] [] fun _ => s.afterReaders ((upTo 64).flatMap (rowChunks o n)) fun _ =>
          let x := s.ctx.getA tile.toNat
          let m := (upTo 64).foldl (fun (m : Memory) i =>
            let bytes := (x.convRow d i).1.flatMap (natBytes n)
            (rowChunks o n i).zipIdx.foldl (fun (m : Memory) (c : (Nat × Nat) × Nat) =>
              m.scrWrite s.ctx.core (s.ctx.scrBase + c.1.1) ((bytes.drop (32 * c.2)).take c.1.2) (x.p.getLsbD i)) m) s.mem
          .done false { s with mem := m, ctx := s.ctx.raise (Flags.all ((upTo 64).map fun i => (x.convRow d i).2)) }) s

/-- MLOADACC (R242). -/
def execMloadacc (t : Tok) (tile : TileNo) (a : SReg) (s : State) : Outcome :=
  mWord t 1 [] (some tile.toNat) true [a, a + 1] (fun _ vs s =>
    match s.placeChecks (vs.getD 0 0) (vs.getD 1 0) .load 4 with
    | .error tr => .trap tr s
    | .ok o => s.owning [tile.toNat] fun _ =>
      let rows := (upTo 64).map fun i =>
        let r := s.mem.chunkBytes s.ctx.scrBaseOf (rowChunks o 4 i)
        let x := leNat r.1
        ((upTo 64).map fun c => natField x (32 * c) 32, r.2)
      .done false { s with ctx := s.ctx.setA tile.toNat (Tile.ofRows rows) }) s

end Sys2Proof.Machine
end

