-- ==== Sys2Proof/Machine/Placement.lean ====
section
/-!
DEFINITION. A task's way through the package: tracking and dependencies (R20, R360), placement (R21), pre-emption (R364 to R367),
task start (R22), retirement (R23), and the return of parked and checkpointed contexts (R105, R367).
-/

namespace Sys2Proof.Machine

/-! Tracking and dependencies (R20, R360) -/

/-- LAUNCH_TRACK (R20): the first waiting launch reaches the scheduler once fewer than 8,192 tasks are tracked. -/
def execLaunchTrack (s : State) : Outcome :=
  .next (match s.har.tasks.find? fun t => t.phase == .untracked with
    | none => s
    | some t => if s.har.tracked < 8192 then s.reachScheduler t else s)

/-- Two footprints conflict (R20, R360). -/
def Task.conflicts (t u : Task) : Bool :=
  let meet := fun (l m : List (Nat × Nat)) => l.any fun r => m.any fun q => rangesMeet r q
  meet t.writes u.writes || meet t.writes u.reads || meet t.reads u.writes

/-- SCHEDULER_ADMIT (R20, R360). -/
def execSchedulerAdmit (i : Nat) (s : State) : Outcome :=
  .next (match s.har.tasks.find? fun t => t.inst == i && t.phase == .scheduled with
    | none => s
    | some t =>
      let held := s.har.tasks.any fun u => u.asid == t.asid && decide (u.inst < t.inst) && u.phase.tracked && t.conflicts u
      if held && !launchNodep t.launch then s else s.onTask i fun t => { t with phase := .admitted })

/-! The preferred die (R21) -/

/-- The 4 KiB granules of a range. -/
def granules (r : Nat × Nat) : List Nat := (upTo (r.2 / 4096)).map fun k => (r.1 + 4096 * k) % 2 ^ 56

/-- A granule lies in a range modulo 2^56. -/
def inRange (r : Nat × Nat) (g : Nat) : Bool := decide ((g + 2 ^ 56 - r.1) % 2 ^ 56 < r.2)

/-- The granules of a footprint, each once. -/
def footGranules : List (Nat × Nat) → List Nat
  | [] => []
  | r :: rs => (granules r).filter (fun g => !rs.any fun q => inRange q g) ++ footGranules rs

/-- The stack of a granule whose page translates to a frame of the own package (DEDUCED, log 29). -/
def State.granuleStack (s : State) (asid : Asid) (g : Nat) : Option Nat :=
  match walk s.mem (s.mem.asidRoot s.pkg asid) (BitVec.ofNat 56 g) with
  | .leaf p _ span _ =>
    let pa := pteAddr s.mem.own p / span * span + g % span
    if natField pa 44 12 = s.mem.own.toNat then some (paStack pa) else none
  | _ => none

/-- The stack that holds the most of a list of granules, the lower-numbered of equals; none where none counts. -/
def topStack (l : List Nat) : Option Nat :=
  ((upTo 12).foldl (fun (best : Option (Nat × Nat)) k =>
    let n := (l.filter (· == k)).length
    match best with
    | none => if n = 0 then none else some (k, n)
    | some b => if b.2 < n then some (k, n) else some b) none).map (·.1)

/-- The preferred dies of a task (R21) (DEDUCED, log 29). -/
def State.preferred (s : State) (t : Task) : List Nat :=
  let top := fun (l : List (Nat × Nat)) => topStack ((footGranules l).filterMap (s.granuleStack t.asid))
  match top t.writes with
  | some k => [dieOfStack k]
  | none => match top t.reads with
    | some k => [dieOfStack k]
    | none => [0, 1, 2, 3]

/-! Eligible cores (R21) -/

/-- What a task demands of a core: vector registers, tiles, scratchpad bytes. -/
def State.demandOf (s : State) (t : Task) : Nat × Nat × Nat :=
  match s.typeEntry (launchType t.launch) with
  | none => (0, 0, 0)
  | some e => (typeDemand e, typeTiles e, typeScr e)

/-- A parked context whose wait is over comes before any new placement on its core (R105). -/
def State.parkedFirst (s : State) (core : Nat) : Bool :=
  s.ctxs.any fun c => c.core == core && match c.place with
    | .parked _ fired => fired
    | _ => false

/-- The eligible cores of some dies. -/
def State.eligible (s : State) (dies : List Nat) (d : Nat × Nat × Nat) : List Nat :=
  (upTo 512).filter fun core => dies.contains (core / 128) && !(roomIn (s.uses core) d.1 d.2.1 d.2.2).isEmpty && !s.parkedFirst core

/-- The core that the engine chooses: the fewest contexts, then the lowest number. -/
def State.bestCore (s : State) (l : List Nat) : Option Nat :=
  (l.foldl (fun (best : Option (Nat × Nat)) core =>
    let n := ((s.uses core).filter (·.holdsSlot)).length
    match best with
    | none => some (core, n)
    | some b => if n < b.2 then some (core, n) else some b) none).map (·.1)

/-- A task that waits for a core. -/
def Task.waiting (t : Task) : Bool := t.phase == .admitted || t.phase == .killed

/-- Task t is served before task u: killed ones first (R367), then in ascending instance number (R21). -/
def Task.before (t u : Task) : Bool :=
  (t.phase == .killed && u.phase != .killed) || ((t.phase == .killed) == (u.phase == .killed) && decide (t.inst < u.inst))

/-- A checkpointed context, or a waiting task that is served before, could now take a core of these dies (DEDUCED, log 29). -/
def State.othersFirst (s : State) (t : Task) (dies : List Nat) : Bool :=
  let could := fun (u : Task) =>
    let ds := (s.preferred u).filter dies.contains
    !(s.eligible ds (s.demandOf u)).isEmpty
  s.har.tasks.any fun u => u.inst != t.inst && (s.har.ckptOrder.contains u.inst || (u.waiting && u.before t)) && could u

/-! Pre-emption (R364 to R367) -/

/-- The candidate: the lowest Tr, then core, then slot. -/
def State.candidate (s : State) (dies : List Nat) (d : Nat × Nat × Nat) : Option Ctx :=
  let ok := fun (c : Ctx) => c.place == .resident && dies.contains (c.core / 128) && !c.regs.trapped && !c.regs.frozen && !c.regs.hold &&
    !c.regs.drain && !s.quartet.any (fun q => q.inst == c.inst) &&
    !(roomIn ((s.uses c.core).filter fun u => u.inst != c.inst) d.1 d.2.1 d.2.2).isEmpty
  let key := fun (c : Ctx) => (c.regs.ptok.toNat * 512 + c.core) * 4 + c.slot
  (s.ctxs.filter ok).foldl (fun (best : Option Ctx) c => match best with
    | none => some c
    | some b => if key c < key b then some c else some b) none

/-- A policy of R367. -/
inductive Policy where
  | drain | checkpoint | kill
deriving DecidableEq, Repr

/-- The policy for a context (R366). -/
def State.policy (s : State) (c : Ctx) : Policy :=
  let bytes := 16384 + 20480 + c.scrBytes + 16384 * c.tiles
  let cost := 2000 + ceilDiv bytes 128
  let e := c.regs.remain.toNat
  if e ≤ s.har.drainLimit.toNat then .drain
  else if 4 * cost ≤ e then .checkpoint
  else if (s.typeEntry c.ttype.toNat).any typeRestart then .kill
  else .checkpoint

/-- Free places of the checkpoint pool for an image: at its start or behind another image, on 4 KiB boundaries (R368, R415)
(DESIGN CHOICE, log 11). -/
def State.poolPlaces (s : State) (n : Nat) : List Nat :=
  let ends := 0 :: s.pkg.pool.map fun i => roundUp 4096 (i.at_ + i.len)
  (ends.filter fun a => decide (a + n ≤ s.pkg.hdr.ckpLen) &&
    s.pkg.pool.all fun i => decide (a + n ≤ i.at_) || decide (i.at_ + i.len ≤ a)).eraseDups

/-- A context is gone: its place on the core is free. -/
def State.removeCtx (s : State) (inst : Nat) : State :=
  let s := s.dropLeaves inst
  if s.ctx.inst = inst then { s with ctx := Ctx.absent } else { s with others := s.others.filter (·.inst != inst) }

/-- Drops every registration of a context (R278). -/
def State.dropRegs (s : State) (c : Ctx) : State := c.phasers.foldl (fun s r => s.dropReg false c.inst c.asid r) s

/-- RRED words whose pieces the reduction unit holds go on without their context (R318). -/
def State.orphan (s : State) (c : Ctx) (release : Bool) : State :=
  let l := (c.xfers.filter fun x => x.kind == .rred).map fun x =>
    (c.asid, if release then x else { x with name := none, rel := none })
  let busy := fun (x : Asid × Xfer) => s.har.rred.any fun p => p.ref == x.2.ref
  let s := (l.filter fun x => !busy x).foldl (fun (s : State) x => { s with mem := s.mem.rredOut s.pkg x.1 false }) s
  { s with har := { s.har with orphans := s.har.orphans ++ l.filter busy } }

/-- Another context number in a transfer's reference. -/
def movedRef (r : XferRef) (old new : Nat) : XferRef := if r.c = old then { r with c := new } else r

/-- Nothing that another package, a drive or a reduction unit still answers reaches the context that its instance number names next (R257):
requests lose their origin, commands and operations of its transfers go, and its reduction pieces go on under a number of no context. -/
def State.cutOff (s : State) (inst : Nat) : State :=
  let new := 2 ^ 64 + s.net.nextId
  let mine := fun (k : RmaOpKind) => match k with
    | .netrd r | .netwr r => r.c == inst
    | _ => false
  let s := (s.net.ops.filter fun o => mine o.kind).foldl (fun (s : State) o => s.dropPackets o.id) s
  { s with
    net := { s.net with
      nextId := s.net.nextId + 1
      wires := s.net.wires.map fun w => match w.origin with
        | .rred _ | .probe _ _ => w
        | o => if o.inst = inst then { w with origin := .nobody } else w
      nvme := s.net.nvme.filter fun c => c.ref.c != inst
      ops := s.net.ops.filter fun o => !mine o.kind }
    har := { s.har with
      rred := s.har.rred.map fun p => { p with ref := movedRef p.ref inst new }
      orphans := s.har.orphans.map fun x => (x.1, { x.2 with ref := movedRef x.2.ref inst new }) } }

/-- Kill (R257, R367): the context and its allocations are discarded, and its task is placed again. -/
def State.kill (s : State) (c : Ctx) : State :=
  let s := (((s.dropRegs c).orphan c false).cutOff c.inst).removeCtx c.inst
  s.onTask c.inst fun t => { t with phase := .killed }

/-- Begins the policy on a candidate. -/
def State.preempt (s : State) (t : Task) (c : Ctx) : State :=
  let mark := fun (s : State) => s.onTask t.inst fun t => { t with victim := some c.inst }
  let places := s.poolPlaces c.imageLen
  match s.policy c with
  | .drain => mark (s.onCtx c.inst fun c => { c with regs := { c.regs with drain := true } })
  | .kill => s.kill c
  | .checkpoint =>
    if places.isEmpty then (if (s.typeEntry c.ttype.toNat).any typeRestart then s.kill c else s)
    else
      let (a, s) : Nat × State := s.pick places
      let s : State := { s with pkg := { s.pkg with pool := s.pkg.pool ++ [⟨c.inst, a, c.imageLen⟩] } }
      mark (s.onCtx c.inst fun c => { c with regs := { c.regs with hold := true } })

/-- The pool image of a context. -/
def State.poolImage (s : State) (inst : Nat) : Option PoolImage := s.pkg.pool.find? (·.inst == inst)

/-- Saves a held context to the checkpoint pool once it is quiet (R367). -/
def State.checkpoint (s : State) (c : Ctx) (im : PoolImage) : State :=
  let l := s.imageBytes c
  let s : State := { s with mem := s.mem.hbmWriteP (s.mem.key 0) (hdrOff s.pkg.hdr.ckpBase + im.at_) l }
  let s := s.unload c.inst .checkpointed
  { s with har := { s.har with ckptOrder := s.har.ckptOrder ++ [c.inst] } }

/-- A pre-emption under way for a task goes on; none where there is none. -/
def State.preemptGoesOn (s : State) (t : Task) : Option State :=
  match t.victim.bind s.findCtx with
  | none => none
  | some c =>
    if c.place ≠ .resident then none
    else match s.poolImage c.inst with
      | some im => some (if s.quiet c then s.checkpoint c im else s)
      | none => if c.regs.drain then some s else none

/-- Places a waiting task on a core. -/
def State.placeOn (s : State) (t : Task) (core : Nat) (d : Nat × Nat × Nat) : State :=
  let (base, s) : Nat × State := s.pick (roomIn (s.uses core) d.1 d.2.1 d.2.2)
  s.onTask t.inst fun t => { t with phase := .placed core base, victim := none }

/-- PLACEMENT (R21, R364). -/
def execPlacement (i : Nat) (s : State) : Outcome :=
  .next (match s.har.tasks.find? fun t => t.inst == i && t.waiting with
    | none => s
    | some t =>
      let d := s.demandOf t
      let dies := s.preferred t
      if s.othersFirst t dies then s
      else match s.bestCore (s.eligible dies d) with
        | some core => s.placeOn t core d
        | none => match s.preemptGoesOn t with
          | some s => s
          | none => match s.candidate dies d with
            | none => s
            | some c =>
              if c.regs.ptok.toNat + s.har.preemptMargin.toNat ≤ (launchPtok t.launch).toNat then s.preempt t c else s)

/-! Task start (R22, R35) -/

/-- LFSR_SEED at task start (R76). -/
def startSeed (inst : Nat) : Word := if inst % 2 ^ 32 = 0 then 1 else BitVec.ofNat 32 inst

/-- The registers of a context at task start (R41). -/
def CtxRegs.start (e : BitVec 512) (l : BitVec 128) (inst : Nat) (root : BitVec 43) : CtxRegs :=
  { CtxRegs.zero with
    slip := typeField e 12 16 + 1
    tokCeil := BitVec.ofNat 32 (typeField e 16 32)
    tokInit := BitVec.ofNat 32 (typeField e 20 32)
    domain := 4
    remain := BitVec.ofNat 48 (typeField e 24 48)
    lfsr := startSeed inst
    mpref := 4
    ptok := launchPtok l
    prio := typePrio e
    root := root }

/-- The scalar registers at task start (R22, R35). -/
def startFile (l : BitVec 128) (inst : Nat) (code : Dword) : ScalarFile :=
  let (x, y, z) := launchXYZ l
  let put := fun (f : ScalarFile) (r : SReg) (v : Dword) => f.setS r ⟨v, false⟩
  put (put (put (put (put (ScalarFile.start code) 1 (BitVec.ofNat 64 x)) 2 (BitVec.ofNat 64 y)) 3 (BitVec.ofNat 64 z)) 4 (launchArg l)) 5
    (BitVec.ofNat 64 inst)

/-- A context at task start. -/
def Ctx.start (e : BitVec 512) (l : BitVec 128) (inst : Nat) (asid : Asid) (root : BitVec 43) (core slot base : Nat) : Ctx :=
  let code := typeCode e
  { Ctx.absent with
    inst := inst
    place := .resident
    core := core
    slot := slot
    asid := asid
    ttype := BitVec.ofNat 12 (launchType l)
    launch := l
    code := code
    demand := typeDemand e
    tiles := typeTiles e
    scrBase := base
    scrBytes := typeScr e
    sf := startFile l inst code
    streams := ⟨.start code, .start code, .start code, .start code, .start code, .start code⟩
    tok := BitVec.ofNat 32 (typeField e 20 32)
    regs := CtxRegs.start e l inst root }

/-- CONTEXT_START (R20, R22): the context takes the lowest free slot; its core's clean L1 lines go (R285). -/
def execContextStart (i : Nat) (s : State) : Outcome :=
  .next (match s.har.tasks.find? fun t => t.inst == i with
    | none => s
    | some t => match t.phase, s.typeEntry (launchType t.launch) with
      | .placed core base, some e =>
        let slot := (s.freeSlots core).headD 0
        let c := Ctx.start e t.launch i t.asid (s.mem.asidRoot s.pkg t.asid) core slot base
        let s := s.onTask i fun t => { t with phase := .running }
        { s with others := s.others ++ [c], mem := s.mem.l1DropClean core }
      | _, _ => s)

/-! Retirement (R23) -/

/-- Every word of a task has ended and drained (R23). -/
def State.canRetire (s : State) (c : Ctx) : Bool :=
  c.place == .resident && c.activeStreams.isEmpty && !c.regs.trapped && !c.regs.frozen && !c.regs.hold &&
    c.loads.isEmpty && c.banks.isEmpty && c.jobs.isEmpty && c.late.isEmpty && c.held.isEmpty && c.xfers.all (fun x => x.kind == .rred && x.moved && x.fault.isNone) &&
    s.net.wires.all fun w => w.muted || match w.origin with
      | .store i _ | .bank i _ => i != c.inst
      | _ => true

/-- TASK_RETIRE (R23, R278): writes become visible, registrations drop, footprints are released, the completion peg counts, and
the resources return. -/
def execTaskRetire (i : Nat) (s : State) : Outcome :=
  .next (match s.findCtx i with
    | none => s
    | some c =>
      if !s.canRetire c then s
      else
        let s : State := { s with mem := s.mem.l1CleanAll c.core }
        let s := ((s.dropRegs c).orphan c true).dropTask i
        let s := match s.typeEntry c.ttype.toNat with
          | some e => s.pegDone (typeDonePeg e)
          | none => s
        s.removeCtx i)

/-! Returns (R105, R367) -/

/-- PARKED_RETURN (R105): the context whose wait ended first among those of its core takes a free slot and registers. -/
def execParkedReturn (i : Nat) (s : State) : Outcome :=
  let s := s.fireWaits
  .next (match s.findCtx i with
    | none => s
    | some c => match c.place with
      | .parked _ true =>
        let first := s.har.parkOrder.find? fun j => (s.findCtx j).any fun d => d.core == c.core
        if first = some i ∧ hasSlot (s.uses c.core) c.demand then
          let slot := (s.freeSlots c.core).headD 0
          let back := (c.loadArea (s.savedArea c))
          let s := s.onCtx i fun _ => { back with place := .resident, slot := slot }
          { s with har := { s.har with parkOrder := s.har.parkOrder.erase i } }
        else s
      | _ => s)

/-- CHECKPOINT_RETURN (R367): checkpointed contexts return in the order of their checkpoints, as cores of their preferred dies
become eligible. -/
def execCheckpointReturn (i : Nat) (s : State) : Outcome :=
  .next (match s.findCtx i, s.har.tasks.find? fun t => t.inst == i, s.poolImage i with
    | some c, some t, some im =>
      if c.place ≠ .checkpointed then s
      else
        let d := (c.demand, c.tiles, c.scrBytes)
        let dies := s.preferred t
        let ahead := (s.har.ckptOrder.takeWhile (· != i)).any fun j => match s.findCtx j, s.har.tasks.find? fun t => t.inst == j with
          | some b, some u => !(s.eligible ((s.preferred u).filter dies.contains) (b.demand, b.tiles, b.scrBytes)).isEmpty
          | _, _ => false
        if ahead then s
        else match s.bestCore (s.eligible dies d) with
          | none => s
          | some core =>
            let l := s.mem.hbmReadP (s.mem.key 0) (hdrOff s.pkg.hdr.ckpBase + im.at_) im.len
            let (base, s) : Nat × State := s.pick (roomIn (s.uses core) d.1 d.2.1 d.2.2)
            let slot := (s.freeSlots core).headD 0
            let s := s.reload c l core slot base false
            { s with
              har := { s.har with ckptOrder := s.har.ckptOrder.erase i }
              pkg := { s.pkg with pool := s.pkg.pool.filter (·.inst != i) } }
    | _, _, _ => s)

/-- ASID_FREE (R371). -/
def execAsidFree (asid : BitVec 12) (s : State) : Outcome :=
  .next (
    let free := s.mem.asidState s.pkg asid == 2 && s.har.tasks.all (fun t => t.asid != asid || !t.phase.tracked) &&
      s.mem.ctlNat s.pkg (asidAt asid + 0x20) 8 == 0 && s.har.mapped.contains asid
    if free then
      { s with
        mem := s.mem.ctlPut s.pkg (asidAt asid + 0x18) 1 0
        har := { s.har with mapped := s.har.mapped.filter (· != asid) } }
    else s)

end Sys2Proof.Machine
end

