-- ==== Sys2Proof/Machine/Handlers.lean ====
section
/-!
DEFINITION. Events of Harius: threads and their starts (R343 to R347), traps delivered (R109), ECC (R170), the phaser holder
(R275), arrivals (R351), gangs (R374), and the governors (R423 to R426).
-/

namespace Sys2Proof.Machine

/-! Traps (R103, R109, R110) -/

/-- The 256-byte trap record (R110). -/
def TrapRecord.bytes (r : TrapRecord) (written : Bool) : List Byte :=
  let t := r.trap
  let flags := t.faddr.isSome.toNat + t.elem.isSome.toNat * 2 + t.sect.isSome.toNat * 4 + written.toNat * 8
  natBytes 1 t.cause.toNat ++ natBytes 1 ((r.eng.map StreamId.code).getD 0xFF) ++ natBytes 1 flags ++ natBytes 1 0 ++
  natBytes 4 (t.elem.getD 0) ++ natBytes 8 (t.faddr.getD 0).toNat ++ natBytes 8 (t.sect.getD 0) ++ natBytes 8 r.ctxid.toNat ++
  (r.pcs.flatMap fun x => natBytes 8 x.toNat) ++ (r.poss.flatMap fun x => natBytes 8 x) ++ (r.status.flatMap fun x => natBytes 4 x.toNat) ++
  natBytes 8 t.detail.toNat ++ natBytes 8 r.time.toNat ++ natBytes 4 r.tokens.toNat ++ natBytes 2 r.fifo ++ List.replicate 82 0

/-- Writes a trap record at TRAP_REC.ADDR; none where the write fails. The copy in memory has FLAGS[3] clear: R109 sets the bit in the record
that Harius gets, once the write has succeeded (DESIGN CHOICE, log 51). -/
def State.writeRecord (s : State) (c : Ctx) (r : TrapRecord) : Option State :=
  if !c.regs.trapEn then none
  else
    let a : Dword := BitVec.ofNat 64 (c.regs.trapAddr.toNat * 256)
    match globalForm s.mem.own a with
    | none => none
    | some va =>
      let x := translate s.mem s.fresh (some c.core) c.asid c.regs.root va .store a
      match x.res with
      | .error _ => none
      | .ok p =>
        if p.pkg ≠ s.mem.own.toNat then none
        else
          let m := (upTo 4).foldl (fun (m : Memory) i => m.l1Evict c.core (p.off / 64 + i)) x.mem
          some { s with fresh := x.fresh, mem := m.dieWrite p.slot p.off (r.bytes false) false }

/-- TRAP_DELIVER (R109, R344, R346): once the context's issued words have completed (R107), the record is written if TRAP_REC says so and
becomes a TRAP event, as soon as the queue has room. -/
def execTrapDeliver (i : Nat) (s : State) : Outcome :=
  .next (match s.findCtx i with
    | none => s
    | some c => match c.undelivered, c.record with
      | true, some r =>
        if 8192 ≤ s.har.queue.length ∨ c.unsettled then s
        else
          let r := c.refill r
          let (s, ok) : State × Bool := match s.writeRecord c r with
            | some t => (t, true)
            | none => (s, false)
          let head : Dword := BitVec.ofNat 64 (leNat ((r.bytes ok).take 8))
          (s.raise 2 c.asid r.ctxid head (r.trap.faddr.getD 0) r.trap.detail).onCtx i fun c => { c with undelivered := false, record := some r }
      | _, _ => s)

/-- The stalls of R103's first condition. A wait for a scalar that S has not yet written reports 6 and counts among them: the manual names
that wait neither there nor in R111's codes, and takes no other code for it (DESIGN CHOICE, log 7). -/
def deadlockStall (k : BitVec 4) : Bool := k == 1 || k == 2 || k == 3 || k == 4 || k == 5 || k == 6 || k == 13

/-- A reply to a request of the context is outstanding. -/
def State.replyOwed (s : State) (inst : Nat) : Bool := s.net.wires.any fun w => !w.muted && w.origin.inst == inst

/-- The conditions of R103, the count of cycles apart (DESIGN CHOICE, log 7). -/
def State.deadlocked (s : State) (c : Ctx) : Bool :=
  c.place == .resident && !c.regs.trapped && !c.regs.frozen && !c.regs.hold && !c.activeStreams.isEmpty &&
    c.activeStreams.all (fun e => deadlockStall (c.stream e).stall && c.idle.contains e) &&
    c.xfers.isEmpty && c.loads.isEmpty && c.banks.isEmpty && c.jobs.isEmpty && c.leaves.all (·.granted) && !s.replyOwed c.inst

/-- STREAM_DEADLOCK (R103): no stream is the failing one. -/
def execStreamDeadlock (i : Nat) (s : State) : Outcome :=
  .next (s.onCtx i fun c => if s.deadlocked c then c.takeTrap none 0 (Trap.plain causeDeadlock) s.pkg.time else c)

/-! Threads (R343 to R347) -/

/-- The handler of an event: its own, or the entry of the event vector (R345); none where there is none. -/
def State.handlerOf (s : State) (e : Event) : Option Dword :=
  match e.entry with
  | some a => some a
  | none =>
    if 8 ≤ e.kind.toNat then none
    else
      let off := leNat (s.mem.hbmBytes (s.mem.key 0) (hdrOff s.pkg.hdr.rodataLoad + 8 * e.kind.toNat) 8)
      if off = 0 then none else some ((s.pkg.hdr.textLoad.setWidth 64) + BitVec.ofNat 64 off)

/-- s1 of a thread (R346). -/
def Event.s1 (e : Event) : Dword := BitVec.ofNat 64 (e.kind.toNat + e.asid.toNat * 65536)

/-- A context stands where an ECC error has stopped it (R170): its record names PAGE_FAULT and no engine. -/
def Ctx.eccStopped (c : Ctx) : Bool :=
  c.regs.trapped && c.record.any fun r => r.eng.isNone && r.trap.cause == causePage

/-- The contexts of a CTX_ID that an ECC error has stopped go on (R345, R170). -/
def State.eccResume (s : State) (id : Dword) : State :=
  let go := fun (c : Ctx) => if c.inst ≠ 0 ∧ c.place = .resident ∧ c.id = id ∧ c.eccStopped then c.resume else c
  { s with ctx := go s.ctx, others := s.others.map go }

/-- What an event without a handler does (R345), with its record in the package log (DEDUCED, log 30). -/
def State.defaultEffect (s : State) (e : Event) : State :=
  let cause := if e.kind = 2 then e.s3.toNat % 256 else 0
  let s : State := { s with mem := s.mem.packageLog s.pkg (logRecord 3 cause 0xFFFF e.s1.toNat s.pkg.time.toNat e.s2.toNat) }
  match e.kind.toNat, e.rred with
  | 5, some id => match s.har.rred.find? fun p => p.id == id with
    | some p => s.rredDrop p
    | none => s
  | 6, _ => if e.s3 = 0 then
      ({ s with mem := s.mem.poisonSector (natField e.s2.toNat 0 44 / 32) } : State).eccResume e.s4
    else s
  | _, _ => s

/-- A thread does not run. -/
def State.threadFree (s : State) (n : Nat) : Bool :=
  if s.thr.num = n then !s.thr.running else s.threads.all fun t => t.num != n || !t.running

/-- A thread as its event starts it (R37, R346). -/
def Thread.start (n : Nat) (e : Event) (entry : Dword) : Thread :=
  let put := fun (f : ScalarFile) (r : SReg) (v : Dword) => f.setS r ⟨v, false⟩
  let f := put (put (put (put (put (put (ScalarFile.start entry) 1 e.s1) 2 e.s2) 3 e.s3) 4 e.s4) 5 e.s5) 6 e.time
  ⟨n, true, f, entry, entry, 0, e.kind, e.asid, [], none, e.rred, e.s2, none, none, false, false⟩

/-- EVENT_DISPATCH (R344, R345): the head event starts on the lowest-numbered free thread. -/
def execEventDispatch (s : State) : Outcome :=
  .next (match s.har.queue, (upTo 512).find? s.threadFree with
    | e :: rest, some n =>
      let s : State := { s with har := { s.har with queue := rest } }
      match s.handlerOf e with
      | none => s.defaultEffect e
      | some entry =>
        let s := s.focusThread n
        { s with thr := Thread.start n e entry }
    | _, _ => s)

/-- THREAD_WATCHDOG (R347): the thread ends, logged and counted (DESIGN CHOICE, log 7); a word that it has issued completes first, and the
watchdog does not fire again meanwhile (DESIGN CHOICE, log 62). -/
def execThreadWatchdog (n : Nat) (s : State) : Outcome :=
  .next (if s.threadFree n then s
    else
      let s := s.focusThread n
      let t := s.thr
      if t.ending then s
      else
        let s := (if t.waits then { s with thr := { t with ending := true } } else s.endThread none).countErr 38
        { s with mem := s.mem.packageLog s.pkg (logRecord 2 0 n t.pc.toNat s.pkg.time.toNat t.s2.toNat) })

/-- RRED_RETRY (R318, R346): the piece is tried again once its handler has ended. -/
def execRredRetry (id : Nat) (s : State) : Outcome :=
  .next (
    let busy := (s.thr :: s.threads).any (fun t => t.running && t.rred == some id) || s.har.queue.any fun e => e.rred == some id
    match s.har.rred.find? fun p => p.id == id && p.faults == 1 && !p.sent with
    | some p => if busy then s else s.rredTry p
    | none => s)

/-! ECC (R170) -/

/-- The leaves of a page table below a table, with their page sizes. -/
def leavesFrom (m : Memory) : List Nat → Nat → List (Dword × Nat)
  | [], _ => []
  | lvl :: rest, tbl => (upTo 1024).flatMap fun i =>
    let p : Dword := BitVec.ofNat 64 (leNat (m.hbmBytes (m.key 0) (tbl + 8 * i) 8))
    if !pteV p then []
    else if pteLeaf p then match leafSpan lvl (pteSize p) with
      | some span => [(p, span)]
      | none => []
    else
      let n := pteAddr m.own p
      if natField n 44 12 = m.own.toNat ∧ paOk (natField n 0 44) then leavesFrom m rest (natField n 0 44) else []

/-- The frame of a physical offset is mapped by a leaf with SRC = 1 and D = 0, in an address space that is live or being removed, whose tasks
still run (R371) (DEDUCED, log 30). -/
def State.sourced (s : State) (a : Nat) : Bool :=
  ((upTo 4096).filter fun i => [1, 2].contains (s.mem.asidState s.pkg (BitVec.ofNat 12 i))).any fun i =>
    (leavesFrom s.mem [4, 3, 2, 1] (natField ((s.mem.asidRoot s.pkg (BitVec.ofNat 12 i)).toNat * 8192) 0 44)).any fun l =>
      pteSrc l.1 && !pteD l.1 && natField (pteAddr s.mem.own l.1) 0 44 / l.2 == a / l.2 &&
        natField (pteAddr s.mem.own l.1) 44 12 == s.mem.own.toNat

/-- The row of R170's table for an error in a sector (DEDUCED, log 30). -/
def State.eccRow (s : State) (a : Nat) (consumer : Option Nat) : Nat :=
  match (s.mem.promos (paBank a)).find? fun p => p.row == paRow a with
  | some p => if p.dirty then 3 else 2
  | none => if consumer.isNone then 4 else if s.sourced a then 0 else 1

/-- A context stops as for a page fault before it has consumed the data (R170); the ECC event reports it, and its words are executed again
when it is resumed (DEDUCED, log 30). -/
def Ctx.eccStop (time : Dword) (c : Ctx) : Ctx :=
  if c.place = .resident ∧ !c.regs.trapped then { c.takeTrap none 0 (Trap.plain causePage) time with undelivered := false } else c

/-- ECC_ERROR (R170): counted by stack and row, with the frame that the manager retires in the rows of a frame, reported to the memory manager; the bank drops a promotion, data that has no clean source is
lost and poisoned, and the consumer of data that has one stops (DEDUCED, log 30). -/
def execEccError (sector : Nat) (consumer : Option Nat) (s : State) : Outcome :=
  .next (
    let a := sector * 32
    if !paOk a then s
    else
      let row := s.eccRow a consumer
      let lost := row == 1 || row == 3 || (row == 4 && !s.sourced a)
      let id : Dword := ((consumer.bind s.findCtx).map fun c => c.id).getD (BitVec.allOnes 64)
      let asid : Asid := ((consumer.bind s.findCtx).map fun c => c.asid).getD 0
      let s := (s.countErr (12 + paStack a)).countErr (24 + row)
      let s := if row = 0 ∨ row = 1 ∨ row = 4 then s.countErr 29 else s
      let s : State := if row = 2 ∨ row = 3 then { s with mem := s.mem.demote a } else s
      let s : State := if lost then { s with mem := s.mem.poisonSector sector } else s
      let s := if row = 0 then s.onCtx (consumer.getD 0) (Ctx.eccStop s.pkg.time) else s
      s.raise 6 asid (BitVec.ofNat 64 (s.mem.own.toNat * 2 ^ 44 + a)) (BitVec.ofNat 64 row) id 0)

/-! The phaser holder (R273, R275) -/

/-- The answer of a holder as a reply; none while it is held. A cause comes with what `HolderAns.fault` says more. -/
def answerReply : HolderAns → Option Reply
  | .held => none
  | .fault c more => some (.phaser c (BitVec.ofNat 64 more))
  | .done ph => some (.phaser 0 ph)

/-- Sends the holder's answer to a party of another package, or hands it to one of this package. -/
def State.answerParty (s : State) (g : Party) (r : Reply) : State :=
  if g.pkg ≠ s.mem.own then { s with out := s.out ++ [.reply g.pkg r] }
  else if g.thread then s.onThread g.id fun t => { t with phAnswer := some r }
  else s.onCtx g.id fun c => { c with phAnswer := some r }

/-- Replaces the phasers. -/
def State.setPhasers (s : State) (l : List Phaser) : State := { s with har := { s.har with phasers := l } }

/-- A party of another package waits at a phaser. -/
def State.noteHeld (s : State) (n : PhaserName) (g : Party) (sig : Bool) : State :=
  s.setPhasers (s.har.phasers.map fun p => if p.name = n then
    (if sig then { p with heldSignals := p.heldSignals ++ [g] } else { p with heldWaits := p.heldWaits ++ [g] }) else p)

/-- Tries the held signals and waits of a phaser once. -/
def State.serveOne (s : State) (p : Phaser) : State :=
  let s := p.heldSignals.foldl (fun (s : State) g =>
    let r := holdSignal s.har.phasers p.name p.asid g
    match answerReply r.2 with
    | none => s
    | some a =>
      let l := r.1.map fun q => if q.name = p.name then { q with heldSignals := q.heldSignals.erase g } else q
      (s.setPhasers l).answerParty g a) s
  p.heldWaits.foldl (fun (s : State) g =>
    let r := holdWait true s.har.phasers p.name p.asid g
    match answerReply r.2 with
    | none => s
    | some a =>
      let l := r.1.map fun q => if q.name = p.name then { q with heldWaits := q.heldWaits.erase g } else q
      (s.setPhasers l).answerParty g a) s

/-- Serves what phasers hold for parties of other packages, as long as something may move (DEDUCED, log 22). -/
def State.serveHeld (s : State) : State :=
  let n := (s.har.phasers.map fun p => p.heldSignals.length + p.heldWaits.length).sum
  (upTo n).foldl (fun (s : State) _ => s.har.phasers.foldl State.serveOne s) s

/-- A message of another package's party reaches the holder (R273, R275 to R277, R299). -/
def State.phaserArrives (s : State) (e : PhaserMsg) : State :=
  let n : PhaserName := ⟨e.scope, e.at_, e.num⟩
  let act := fun (r : List Phaser × HolderAns) (sig : Bool) => match answerReply r.2 with
    | some a => (s.setPhasers r.1).answerParty e.party a
    | none => s.noteHeld n e.party sig
  match e.ev with
  | .register mode => act (holdRegister s.har.phasers n e.asid e.party mode) false
  | .drop => act (holdDrop s.har.phasers n e.asid e.party) false
  | .signal => act (holdSignal s.har.phasers n e.asid e.party) true
  | .next => act (holdNext s.har.phasers n e.asid e.party) true
  | .expect b => act (holdExpect s.har.phasers n e.asid e.party b) false
  | .wait => act (holdWait false s.har.phasers n e.asid e.party) false
  | .arrive k => s.arriveBytes n k
  | .query =>
    if (findPhaser s.har.phasers n).any fun q => q.asid != e.asid then s.answerParty e.party (.phaser causePhAsid 0)
    else s.answerParty e.party (.data (holdQuery s.har.phasers n e.party) false)
  | .overrun => s.phaserErr e.party.thread e.party.id e.asid 4 n

/-- PHASER_EVENT (R275). -/
def execPhaserEvent (e : PhaserMsg) (s : State) : Outcome := .next (s.phaserArrives e).serveHeld

/-! Arrivals and copies (R351, R355) -/

/-- MESSAGE_ARRIVAL (R19, R351, R395). -/
def execMessageArrival (m : Message) (s : State) : Outcome := .next (s.messageIn m)

/-- PEG_COPY_COMPLETE (R355). -/
def execPegCopyComplete (id : Nat) (s : State) : Outcome :=
  .next (match s.har.copies.find? fun c => c.id == id with
    | none => s
    | some c => s.copyDone c)

/-! Gangs (R374, R379) -/

/-- GANG_MEMBER_LAUNCH (R357, R374). -/
def execGangMemberLaunch (src : BitVec 10) (gang : Nat) (l : BitVec 128) (asid : BitVec 12) (s : State) : Outcome :=
  .next (s.gangLocal l asid src gang)

/-- Where the acknowledgement bitmap of a broken gang lies: any aligned place in the reserved end of the control area (DESIGN CHOICE, log 32). -/
def bitmapAt (k : Nat) : Nat := 0x43000 + 128 * (k % ((ctlSize - 0x43000) / 128))

/-- A gang breaks (R374): missing packages become silent, and the break is logged and raised (DESIGN CHOICE, log 32). -/
def State.breakGang (s : State) (g : Gang) : State :=
  let missing := g.members.filter fun p => !g.acked.contains p
  let s : State := { s with har := { s.har with gangs := s.har.gangs.filter (·.id != g.id) } }
  let s := missing.foldl (fun (s : State) p => s.markSilent p 4) s
  let s : State := { s with mem := s.mem.packageLog s.pkg (logRecord 4 0 0xFFFF g.id s.pkg.time.toNat g.id) }
  let off := bitmapAt (Config.choice s.fresh)
  let bits := bitsOf 1024 fun i => g.acked.contains (BitVec.ofNat 10 i)
  let at_ : Dword := BitVec.ofNat 64 (s.mem.own.toNat * 2 ^ 44 + (s.pkg.ctl.getD 0) + off)
  let s : State := { s with fresh := s.fresh + 1, mem := s.mem.ctlPut s.pkg off 128 bits }
  let low := missing.foldl (fun (m : Nat) p => min m p.toNat) 1024
  s.raise 4 g.asid (BitVec.ofNat 64 g.id) (BitVec.ofNat 64 missing.length) (BitVec.ofNat 64 low) at_

/-- An acknowledgement arrives (R374): the last completes the gang; a late one is logged (DEDUCED, log 28). -/
def State.ackGang (s : State) (gang : Nat) (pkg : Pkg) : State :=
  match s.har.gangs.find? fun g => g.id == gang with
  | none => { s with mem := s.mem.packageLog s.pkg (logRecord 5 0 0xFFFF gang s.pkg.time.toNat 0) }
  | some g =>
    if g.deadline.toNat < s.pkg.time.toNat then
      let s := s.breakGang g
      { s with mem := s.mem.packageLog s.pkg (logRecord 5 0 0xFFFF gang s.pkg.time.toNat 0) }
    else if !g.members.contains pkg then s
    else
      let acked := if g.acked.contains pkg then g.acked else pkg :: g.acked
      if g.members.all acked.contains then
        ({ s with har := { s.har with gangs := s.har.gangs.filter (·.id != gang) } }).pegDone g.donePeg
      else { s with har := { s.har with gangs := s.har.gangs.map fun x => if x.id = gang then { x with acked := acked } else x } }

/-- GANG_ACK (R374). -/
def execGangAck (gang : Nat) (pkg : BitVec 10) (s : State) : Outcome := .next (s.ackGang gang pkg)

/-- GANG_WINDOW_EXPIRE (R374): the clock has reached the gang's deadline. -/
def execGangWindowExpire (gang : Nat) (s : State) : Outcome :=
  .next (match s.har.gangs.find? fun g => g.id == gang with
    | none => s
    | some g => if g.deadline.toNat ≤ s.pkg.time.toNat then s.breakGang g else s)

/-! Power and heat (R423 to R426) -/

/-- LEAVE_GRANT (R424). -/
def execLeaveGrant (die : BitVec 2) (s : State) : Outcome := .next (s.evaluateLeave s.cap die.toNat)

/-- GOVERNOR_SAMPLE (R423): the base is the die's sensors less the increments in force. PKGW follows the sensors too: a free
value (DESIGN CHOICE, log 6). -/
def execGovernorSample (die : BitVec 2) (base : Nat) (s : State) : Outcome :=
  .next { s with
    fresh := s.fresh + 1
    mem := s.mem.ctlPut s.pkg (ctlPower + 8) 4 (Config.choice s.fresh)
    pkg := s.pkg.onGov die.toNat fun g => { g with base := base } }

/-- THR and TMAX of the power block (R418) (DEDUCED, log 39). -/
def State.thermalBlock (s : State) : State :=
  let bit := fun (f : Governor → Bool) => bitsOf 4 fun i => f (s.pkg.gov i)
  let thr := bit (fun g => g.hot) + 16 * bit (fun g => g.halfClock)
  { s with mem := (s.mem.ctlPut s.pkg (ctlPower + 12) 4 ((upTo 4).foldl (fun m i => max m (s.pkg.gov i).temp) 0)).ctlPut s.pkg (ctlPower + 16) 4 thr }

/-- THERMAL_SAMPLE (R426): temperatures are in tenths of a degree. The record of a shutdown has no stated contents: free (DESIGN CHOICE, log 6)
(DEDUCED, log 39). -/
def execThermalSample (die : BitVec 2) (temp : Nat) (s : State) : Outcome :=
  .next (
    let was := (s.pkg.gov die.toNat).hot
    let s : State := { s with pkg := s.pkg.onGov die.toNat fun g =>
      { g with temp := temp, hot := decide (1000 < temp), halfClock := if 1100 < temp then true else if temp ≤ 1050 then false else g.halfClock } }
    let s := if decide (1000 < temp) && !was then s.countErr 43 else s
    let s := s.thermalBlock
    if 1200 < temp then
      { s with
        fresh := s.fresh + 1
        pkg := { s.pkg with stopped := true }
        mem := s.mem.packageLog s.pkg (natBytes 32 (Config.choice s.fresh)) }
    else s)

/-- THERMAL_CAP_STEP (R426): 5 % down while hot, to no less than half, or up again. -/
def execThermalCapStep (die : BitVec 2) (s : State) : Outcome :=
  .next { s with pkg := s.pkg.onGov die.toNat fun g =>
    { g with dropPct := if g.hot then min 50 (g.dropPct + 5) else g.dropPct - 5 } }

end Sys2Proof.Machine
end

