-- ==== Sys2Proof/Machine/Remote.lean ====
section
/-!
DEFINITION. The scale-up fabric: requests at the target's ingress (R308 to R310, R312, R317, R172), replies at the issuer (R311),
mute replies and silent peers (R323 to R327), links (R329), and collective chunks (R334 to R341).
-/

namespace Sys2Proof.Machine

/-! The target's ingress (R310) -/

/-- An address that the ingress accepts: the own package's, no promote-slot row, under a loaded key (R152, R155, R158). -/
def State.ingressOk (s : State) (pa : BitVec 56) (key : BitVec 7) : Bool :=
  let off := natField pa.toNat 0 44
  natField pa.toNat 44 12 == s.mem.own.toNat && paOk off && !s.mem.isSlotRow off && (s.mem.keyOf key.toNat).isSome

/-- Reads at the ingress. -/
def State.inRead (s : State) (off key n : Nat) : List (Byte × Bool) := s.mem.hbmReadP (s.mem.key key) off n
/-- Adds 1 to a flag at its site (R312). -/
def State.inFlag (s : State) (off key : Nat) : State :=
  let old := s.inRead off key 8
  s.inWrite off key (natBytes 8 (valueOf old + 1)) (anyPoison old)

/-- Performs a request whose address is good, and its reply (R308, R310, R312, R317) (DEDUCED, log 43). -/
def State.perform (s : State) (r : RemoteReq) : State × Reply :=
  let off := natField r.pa.toNat 0 44
  let k := r.key.toNat
  match r.kind with
  | .read n =>
    let l := s.inRead off k n
    (s, .data (l.map (·.1)) (anyPoison l))
  | .write d p => (s.inWrite off k d p, .accept)
  | .masked l p => (l.foldl (fun (s : State) x => s.inWrite (off + x.1) k x.2 p) s, .accept)
  | .atom op opd cmp p cp =>
    let l := s.inRead off k 8
    let old : Dword := BitVec.ofNat 64 (valueOf l)
    let new := amoNew op old opd cmp
    let s := s.lease (off / 64)
    (if new.2 then s.inWrite off k (natBytes 8 new.1.toNat) (amoPoison op (anyPoison l) p cp) else s, .old old (anyPoison l))
  | .vatom op opd p =>
    let n := vatomSize op
    let l := s.inRead off k n
    let s := s.lease (off / 64)
    (s.inWrite off k (natBytes n (vatomNew op (valueOf l) opd.toNat)) (anyPoison l || p), .old (BitVec.ofNat 64 (valueOf l)) (anyPoison l))
  | .promote => ({ s with mem := s.mem.promote off }, .accept)
  | .demote => ({ s with mem := s.mem.demote off }, .accept)
  | .flagged d p flag fk =>
    if !s.ingressOk flag fk then (s, .reject)
    else ((s.inWrite off k d p).inFlag (natField flag.toNat 0 44) fk.toNat, .accept)
  | .reduce ty op d p =>
    let old := s.inRead off k d.length
    (s.inWrite off k (redBytes ty op (old.map (·.1)) d) (anyPoison old || p), .accept)
  | .increment => (s.inFlag off k, .accept)
  | .probe => (s, .accept)

/-- A request for a PROMOTE that its bank accepts only when it has adopted the new split (R168). -/
def State.promoteWaits (s : State) (r : RemoteReq) : Bool := r.kind == .promote && (s.mem.dieOf (paStack (natField r.pa.toNat 0 44))).busy

/-- REMOTE_REQUEST (R310): performed or rejected, and answered. A probe names no address (R341). -/
def execRemoteRequest (r : RemoteReq) (s : State) : Outcome :=
  let ok := r.kind == .probe || s.ingressOk r.pa r.key
  if ok && s.promoteWaits r then .next { s with mem := s.mem.promoteFor (some r.src) none (natField r.pa.toNat 0 44) } else
  let (t, a) := if ok then s.perform r else (s, .reject)
  .next { t with out := t.out ++ [.reply r.src a] }

/-! Replies at the issuer (R311) -/

/-- A read or atomic of S takes its value (R127, R311). -/
def Ctx.landLoad (c : Ctx) (w : Wire) (r : Reply) : Ctx :=
  match c.loads.find? fun l => l.req == w.id with
  | none => c
  | some l =>
    let v : SVal := match r, l.mode with
      | .data d p, some m => ⟨loadValue m (leNat (d.drop (w.addr.toNat % 32))), p⟩
      | .old x p, _ => ⟨x, p⟩
      | _, _ => ⟨0, true⟩
    { c with
      sf := c.sf.setS l.reg v
      loads := c.loads.filter fun k => k.req != w.id
      tok := if l.push then pushAll c.tok .S ⟨false, true, false, false⟩ else c.tok }

/-- What a reply brings for a piece that starts at an offset in its sector: zeros and poison where it failed (R311). -/
def replyBytes (r : Reply) (off : Nat) : List Byte × Bool :=
  match r with
  | .data d p => (d.drop off, p)
  | .old v p => (natBytes 8 v.toNat, p)
  | _ => ([], true)

/-- Where a piece starts in its sector. -/
def VPlace.sectorOff : VPlace → Nat
  | .glob g => g.phys.pa % 32
  | .scr p => p.off % 32

/-- V takes a sector, or an element's old value, that it waits for (R311). -/
def Ctx.landV (c : Ctx) (id : Nat) (r : Reply) : Ctx :=
  let take := fun (x : VPiece) => if x.req = some id then { x with got := some (replyBytes r x.place.sectorOff) } else x
  { c with vplan := c.vplan.map fun p => { p with pieces := p.pieces.map take } }

/-- An MMAR takes a sector that it waits for (R233, R311). -/
def Ctx.landM (c : Ctx) (id : Nat) (r : Reply) : Ctx :=
  let take := fun (x : MPart) =>
    let y := replyBytes r x.off
    if x.req = some id then { x with got := some ((y.1 ++ List.replicate x.len 0).take x.len, y.2) } else x
  { c with slices := c.slices.map fun s => { s with parts := s.parts.map take } }

/-- A reply that says the request failed: the cause of its entry (R321). -/
def failCause : Reply → Option Nat
  | .reject => some 1
  | .mute _ => some 2
  | _ => none

/-- The entry of a failed piece; of two, the one at the lower address. -/
def firstFailed (old : Option Dword) (new : Dword) : Option Dword :=
  match old with
  | none => some new
  | some e => if natField new.toNat 0 56 < natField e.toNat 0 56 then some new else some e

/-- Changes a transfer of a context, wherever the context is. -/
def State.onXfer (s : State) (r : XferRef) (f : Xfer → Xfer) : State :=
  s.onCtx r.c fun c => { c with xfers := c.xfers.map fun x => if x.ref = r then f x else x }

/-- A transfer that has been answered completes, where its context runs transfers. -/
def State.settle (s : State) (r : XferRef) : State :=
  match s.focus r.c with
  | none => s
  | some t => match t.ctx.xfer r with
    | none => s
    | some x => if t.ctx.runsXfers && x.fault.isNone then t.finishIf x false else s

/-- The release of a word whose context has retired (R318): a flag that no longer translates in the word's address space is left out
(DEDUCED, log 63). -/
def State.orphanRelease (s : State) (asid : Asid) (x : Xfer) : State :=
  match x.rel.filter relFlag with
  | none => s.release 0 x none
  | some r => match globalForm s.mem.own (relAddr r) with
    | none => s
    | some va =>
      let t := translate s.mem s.fresh none asid (s.mem.asidRoot s.pkg asid) va .store (relAddr r)
      let s : State := { s with mem := t.mem, fresh := t.fresh }
      match t.res with
      | .ok p => if p.pkg = s.mem.own.toNat then s.release 0 x (some p) else s
      | .error _ => s

/-- The words whose context has retired and whose pieces are all done complete (R318): release, RREDOUT. -/
def State.sweepOrphans (s : State) : State :=
  let busy := fun (x : Asid × Xfer) => s.har.rred.any fun p => p.ref == x.2.ref
  let done := s.har.orphans.filter fun x => !busy x
  let s : State := { s with har := { s.har with orphans := s.har.orphans.filter busy } }
  done.foldl (fun (s : State) x =>
    let s := s.orphanRelease x.1 x.2
    { s with mem := s.mem.rredOut s.pkg x.1 false }) s

/-- The part of an RLOADB that a reply brings (R267, R311). -/
def State.landPart (s : State) (w : Wire) (ref : XferRef) (part : Nat) (r : Reply) : State :=
  match s.focus ref.c with
  | none => s
  | some s => match s.ctx.xfer ref with
    | none => s
    | some x =>
      let n := match w.kind with
        | some (.read n) => n
        | _ => 0
      let l := match r with
        | .data d p => ((d ++ List.replicate n 0).take n).map fun b => (b, p)
        | _ => List.replicate n (0, true)
      let y := s.pushBack (x.landPart part l)
      y.1.setXfer y.2

/-- A reply reaches what it was asked for (R308, R311). -/
def State.takeReply (s : State) (w : Wire) (r : Reply) : State :=
  let entry := (failCause r).map fun c => errEntry c w.addr.toNat
  match w.origin with
  | .sload i _ => s.onCtx i fun c => c.landLoad w r
  | .vload i | .vatom i _ => s.onCtx i fun c => c.landV w.id r
  | .mmar i => s.onCtx i fun c => c.landM w.id r
  | .store i pos => match entry with
    | none => s
    | some e => match s.findCtx i with
      | none => s
      | some c =>
        if c.failedWords.contains pos then s
        else (s.pushErr i e false).onCtx i fun c => { c with failedWords := pos :: c.failedWords }
  | .bank i _ =>
    let s := s.onCtx i fun c => c.bankDone fun b => b.req == some w.id
    match r with
    | .reject => { s with har := { s.har with bankRejects := s.har.bankRejects + 1 } }
    | _ => s
  | .rloadb ref part => s.landPart w ref part r
  | .copyf ref k =>
    (s.onXfer ref fun x => { x with
      waiting := x.waiting.erase k
      failed := match entry with
        | none => x.failed
        | some e => firstFailed x.failed e }).settle ref
  | .flagInc ref =>
    (s.onXfer ref fun x => { x with
      waiting := []
      failed := match entry with
        | none => x.failed
        | some e => some e }).settle ref
  | .rred id => match s.har.rred.find? fun p => p.id == id with
    | none => s
    | some p =>
      let s := s.rredRemove id
      let s := match entry with
        | none => s
        | some e => s.onXfer p.ref fun x => { x with failed := firstFailed x.failed e }
      (s.settle p.ref).sweepOrphans
  | .probe _ _ | .nobody => s
  | .phaser who n th asid =>
    if who = 0 then match r with
      | .mute _ => s.phaserErr th 0 asid 3 n
      | _ => s
    else if th then s.onThread (who - 1) fun t => { t with phAnswer := some r }
    else s.onCtx who fun c => { c with phAnswer := some r }

/-- A request of this package that waits for a reply. -/
def State.wire (s : State) (id : Nat) : Option Wire := s.net.wires.find? fun w => w.id == id

/-- A request is answered; one that was muted stays listed, so that its late reply is known (R327). -/
def State.answerWire (s : State) (w : Wire) (r : Reply) : State :=
  let wires := match r with
    | .mute _ => s.net.wires.map fun x => if x.id = w.id then { x with muted := true } else x
    | _ => s.net.wires.filter fun x => x.id != w.id
  ({ s with net := { s.net with wires := wires } }).takeReply w r

/-- A mute reply (R326): counted; reasons 0 and 1 mark the peer silent, `why` naming the maker; a probe's is always 2 (DEDUCED, log 43). -/
def State.muted (s : State) (w : Wire) (reason : BitVec 2) (why : Nat) : State :=
  let s := s.countMute w.pkg
  let s := if reason = 0 ∨ reason = 1 then
      s.markSilent w.pkg (match w.origin with
        | .probe _ _ => 2
        | _ => why)
    else s
  s.answerWire w (.mute reason)

/-- The SEND node of a chunk completes with its answer (R338). -/
def State.chunkDone (s : State) (c : SentChunk) : State :=
  ({ s with net := { s.net with chunksOut := s.net.chunksOut.filter (·.id != c.id) } }).nodeDone c.coll c.node c.gen

/-- A message or chunk waits for its answer no more: it is kept, so that a late answer is known (R327). -/
def State.pastPost (s : State) (id : Nat) (peer : Pkg) (muted : Bool) : State :=
  { s with net := { s.net with
    chunksOut := s.net.chunksOut.filter (·.id != id)
    sent := s.net.sent.filter fun m => !(m.id == id && m.fabric)
    pastPosts := (id, peer, muted) :: s.net.pastPosts.filter (·.1 != id) } }

/-- A message or chunk that another package has not answered yet, or that waits no more and has had no mute reply: its peer. -/
def State.posted (s : State) (id : Nat) : Option Pkg :=
  match s.net.chunksOut.find? fun c => c.id == id with
  | some c => some c.dest
  | none => match s.net.sent.find? fun m => m.id == id && m.fabric with
    | some m => some m.dest
    | none => (s.net.pastPosts.find? fun p => p.1 == id && !p.2.2).map (·.2.1)

/-- A mute reply to a message or to a chunk (R326, R400): it is counted, and marks the peer as one to a request does; the message is
not delivered and adds nothing. The chunk's node completes with the marking (R341) (DEDUCED, log 46). -/
def State.mutePosted (s : State) (id : Nat) (reason : BitVec 2) (why : Nat) : State :=
  match s.posted id with
  | some peer =>
    let s := s.countMute peer
    (if reason = 0 ∨ reason = 1 then s.markSilent peer why else s).pastPost id peer true
  | none => s

/-- An answer to a message or chunk that waits for it no more: late, and counted, where a mute reply has come before (R327). -/
def State.latePost (s : State) (id : Nat) : State :=
  match s.net.pastPosts.find? fun p => p.1 == id with
  | none => s
  | some p =>
    let s : State := { s with net := { s.net with pastPosts := s.net.pastPosts.filter (·.1 != id) } }
    if p.2.2 then s.countLate p.2.1 else s

/-- REMOTE_REPLY (R311, R326, R327, R338): a late reply, of whatever kind, is discarded and counted; the answer to a chunk completes its node
(DEDUCED, log 43). -/
def execRemoteReply (id : Nat) (r : Reply) (s : State) : Outcome :=
  .next (match s.wire id with
    | some w =>
      if w.muted then
        (match r with
        | .mute _ => s.countLate w.pkg
        | _ => ({ s with net := { s.net with wires := s.net.wires.filter fun x => x.id != id } }).countLate w.pkg)
      else match r with
        | .mute reason => s.muted w reason reason.toNat
        | _ => s.answerWire w r
    | none => match r with
      | .mute reason => if (s.posted id).isSome then s.mutePosted id reason reason.toNat else s.latePost id
      | _ => match s.net.chunksOut.find? fun c => c.id == id with
        | none => s.latePost id
        | some c => s.chunkDone c)

/-- SWITCH_MUTE (R323) (DEDUCED, log 43). -/
def execSwitchMute (id : Nat) (s : State) : Outcome :=
  .next (match s.wire id with
    | some w => if w.muted then s else s.muted w 0 0
    | none => s.mutePosted id 0 0)

/-- HARIUS_BACKSTOP (R325). -/
def execHariusBackstop (id : Nat) (s : State) : Outcome :=
  .next (match s.wire id with
    | some w => if w.muted then s else s.muted w 0 2
    | none => s.mutePosted id 0 2)

/-- LINK_DOWN (R323): the switch mutes what it holds toward the peer. -/
def execLinkDown (peer : BitVec 10) (s : State) : Outcome :=
  let s1 := (s.net.wires.filter fun w => w.pkg == peer && !w.muted).foldl (fun (s : State) w => s.muted w 1 1) s
  let posted := (s.net.chunksOut.filter fun c => c.dest == peer).map (·.id) ++ (s.net.sent.filter fun m => m.fabric && m.dest == peer).map (·.id)
  .next (posted.foldl (fun (s : State) id => s.mutePosted id 1 1) s1)

/-! Links (R329, R412) -/

/-- The state of a link. -/
def PkgSt.link (p : PkgSt) (i : Nat) : LinkState := (p.links.toList)[i]?.getD .failed
/-- Changes a link. -/
def PkgSt.setLink (p : PkgSt) (i : Nat) (l : LinkState) : PkgSt := if h : i < 18 then { p with links := p.links.set i l } else p

/-- What is outstanding on a link gets mute replies of reason 2 (R325, R329), which Harius makes. -/
def State.muteLink (s : State) (link : Nat) : State :=
  let s1 := (s.net.wires.filter fun w => w.link == some link && !w.muted).foldl (fun (s : State) w => s.muted w 2 2) s
  let posted := (s.net.chunksOut.filter fun c => c.link == some link).map (·.id) ++ (s.net.sent.filter fun m => m.link == some link).map (·.id)
  posted.foldl (fun (s : State) id => s.mutePosted id 2 2) s1

/-- A link that carried traffic drops at this end and trains again (R329). While another link carries traffic the switch answers for what was
outstanding on it; where none does, Harius answers (R325) (DEDUCED, log 70). -/
def State.linkDrop (s : State) (link : Nat) : State :=
  if s.pkg.link link = .up then
    let s : State := { s with pkg := s.pkg.setLink link (.down 0) }
    if s.pkg.linked then s else s.muteLink link
  else s

/-- The digest that the package sends at a training attempt (R329). -/
def linkDigest (p : LinkPhy) (attempt : Nat) : Dword :=
  BitVec.ofNat 64 (p.lanes.toNat + p.speed.toNat * 2 ^ 8 + p.map.toNat * 2 ^ 16 + attempt % 256 * 2 ^ 48)

/-- LINK_TRAINED (R323, R329, R412): lanes, speed and map as this end has trained them, and the digest of the far end. Digests that agree
bring the link up, with SWITCH_TIMEOUT written to its port; the first to agree while the boot trains the links gives the own number, and one
that reports another is failed (DESIGN CHOICE, log 12). A link that carried traffic has dropped before it trains again; what is outstanding
on one that fails gets mute replies. -/
def execLinkTrained (link : Nat) (phy : LinkPhy) (far : Dword) (pkg : BitVec 10) (s : State) : Outcome :=
  let fail := fun (s : State) => (({ s with pkg := s.pkg.setLink link .failed } : State).muteLink link).countErr 33
  let s := s.linkDrop link
  .next (match s.pkg.link link with
    | .down n =>
      let own := linkDigest phy (n + 1)
      let s : State := { s with out := s.out ++ [.linkDigest link own] }
      if own ≠ far then (if 4 ≤ n + 1 then fail s else { s with pkg := s.pkg.setLink link (.down (n + 1)) })
      else if s.pkg.ownSet && pkg != s.mem.own then fail s
      else
        { s with
          mem := { s.mem with own := pkg }
          pkg := { s.pkg.setLink link .up with ownSet := true }
          out := s.out ++ [.switchTimeout s.net.switchTimeout] }
    | _ => s)

/-! Collectives (R334 to R341) -/

/-- COLLECTIVE_CHUNK (R338, R339). -/
def execCollectiveChunk (k : Chunk) (s : State) : Outcome :=
  let r := s.chunkArrives k false
  .next (r.1.answerChunk k r.2)

/-- CHUNK_RETRY (R339): the chunk is sent again. -/
def execChunkRetry (id : Nat) (s : State) : Outcome :=
  .next (match s.net.chunksOut.find? fun c => c.id == id with
    | none => s
    | some c =>
      if c.dest = s.mem.own then { s with agenda := s.agenda ++ [.deliver (.chunk c.chunk)] }
      else { s with out := s.out ++ [.chunk c.dest c.chunk] })

/-- BASE_DIE_STEP (R335, R423, R424): the head command of a stack is performed once its die's governor has granted it leave. -/
def execBaseDieStep (stack : Nat) (s : State) : Outcome :=
  .next (match s.har.steps.find? fun b => b.stack == stack with
    | none => s
    | some b => if b.granted then s.runStep b else s)

/-- COLL_PROBE (R341): a node that still waits has its peer probed. -/
def execCollProbe (coll node : Nat) (s : State) : Outcome :=
  .next (match s.har.graph coll with
    | none => s
    | some g => match g.node node with
      | none => s
      | some n =>
        if (n.kind ≠ 2 ∧ n.kind ≠ 3) ∨ g.done.contains node ∨ g.probe = 0 ∨ n.peer = s.mem.own then s
        else
          let s := s.request ⟨0, ⟨n.peer.toNat * 2 ^ 44, 0⟩⟩ .probe (.probe coll node)
          s.onGraph coll fun g => { g with since := s.pkg.time })

/-! What the package owes itself -/

/-- A delivery (R326, R338, R374, R400) (DESIGN CHOICE, log 44). -/
def State.deliver (s : State) (d : Delivery) : State :=
  match d with
  | .message m => s.arrive m
  | .messageAck id => match s.net.sent.find? fun m => m.id == id with
    | none => s.latePost id
    | some m => ({ s with net := { s.net with sent := s.net.sent.filter (·.id != id) } }).pegDone m.donePeg
  | .chunk k =>
    let r := s.chunkArrives k false
    r.1.answerChunk k r.2
  | .gangMember g l asid => s.gangLocal l asid s.mem.own g
  | .gangAck g => s.ackGang g s.mem.own
  | .nodeDone coll node gen => s.nodeDone coll node gen
  | .mute id reason => match s.wire id with
    | some w => if w.muted then s else s.muted w reason 0
    | none => s

end Sys2Proof.Machine
end

