-- ==== Sys2Proof/Machine/Registry.lean ====
section
/-!
DEFINITION. Registrations (R391, R393, R402): memory regions, endpoints, storage objects and NVMe/TCP connections.
-/

namespace Sys2Proof.Machine

/-- The address space that an N word names is not live (R375). -/
def State.notLive (s : State) (asid : Dword) : Bool := s.mem.asidState s.pkg (asid.setWidth 12) != 1

/-- The end of a thread whose registration is refused (R391). -/
def regTrap (why : Nat) (a : Dword) : Trap := memTrap causeAccess .load false why a

/-! NREG (R391) -/

/-- Registers a memory region: a free index, with the generation it has reached, or a free one if nothing has used it (DEDUCED, log 34). -/
def State.regRegion (s : State) (d : SReg) (at_ : Dword) (asid : Asid) (x : Nat) (bad : Unit → Res) : Res :=
  let len := natField x 64 64
  if len = 0 ∨ 2 ^ 40 < len ∨ natField x 131 61 ≠ 0 ∨ natField x 192 64 ≠ 0 then bad ()
  else match globalForm s.mem.own (BitVec.ofNat 64 (natField x 0 64)) with
    | none => .trap (regTrap 1 at_) s
    | some va =>
      if natField va.toNat 44 12 ≠ s.mem.own.toNat ∨ 2 ^ 44 < natField va.toNat 0 44 + len then .trap (regTrap 1 at_) s
      else
        let free := (upTo 65536).filter fun i => s.net.regions.all fun r => r.index != i || !r.held
        if free.isEmpty then .trap (regTrap 0 at_) s
        else
          let (i, s) : Nat × State := s.pick free
          let (gen, s) : Half × State := match s.net.regions.find? fun r => r.index == i with
            | some r => (r.gen, s)
            | none => (BitVec.ofNat 16 (Config.choice s.fresh), { s with fresh := s.fresh + 1 })
          let r : Region := ⟨i, gen, asid, va, len, BitVec.ofNat 3 (natField x 128 3), true, none⟩
          let s : State := { s with net := { s.net with regions := r :: s.net.regions.filter fun q => q.index != i } }
          .done false (s.writeS d ⟨r.key.setWidth 64, false⟩)

/-- The fields of an endpoint record keep their limits. -/
def endpointOk (x : Nat) : Bool :=
  natField x 152 8 == 0 && natField x 172 4 == 0 && natField x 186 5 == 0 && decide (natField x 192 8 ≤ 7) &&
    decide (natField x 200 8 ≤ 1) && natField x 208 304 == 0

/-- Registers an endpoint at the lowest free index of the address space (DEDUCED, log 34). -/
def State.regEndpoint (s : State) (d : SReg) (at_ : Dword) (asid : Asid) (x : Nat) (bad : Unit → Res) : Res :=
  if !endpointOk x then bad ()
  else if 262144 ≤ s.net.endpoints.length then .trap (regTrap 0 at_) s
  else match (upTo 65536).find? fun i => s.net.endpoints.all fun e => e.asid != asid || e.index != i with
    | none => .trap (regTrap 0 at_) s
    | some i =>
      let s : State := { s with net := { s.net with endpoints := ⟨i, asid, BitVec.ofNat 512 x, true⟩ :: s.net.endpoints } }
      .done false (s.writeS d ⟨BitVec.ofNat 64 i, false⟩)

/-- Registers a storage object, whose namespace must have blocks of 512 or 4,096 bytes (DEDUCED, log 34). -/
def State.regObject (s : State) (d : SReg) (at_ : Dword) (asid : Asid) (x : Nat) (bad : Unit → Res) : Res :=
  let obj := natField x 0 16
  let path := natField x 16 16
  let block := Config.blockSize path (natField x 32 32)
  if (15 < path ∧ path / 256 ≠ 1) ∨ natField x 194 62 ≠ 0 then bad ()
  else if s.net.objects.any fun o => o.asid == asid && o.obj == obj then .trap (regTrap 8 at_) s
  else if block ≠ 512 ∧ block ≠ 4096 then .trap (regTrap 8 at_) s
  else
    let o : StoreObj := ⟨obj, asid, path, BitVec.ofNat 32 (natField x 32 32), BitVec.ofNat 64 (natField x 64 64), BitVec.ofNat 64 (natField x 128 64),
      BitVec.ofNat 2 (natField x 192 2), block == 4096, true⟩
    let s : State := { s with net := { s.net with objects := o :: s.net.objects } }
    .done false (s.writeS d ⟨BitVec.ofNat 64 obj, false⟩)

/-- Registers an NVMe/TCP connection, which is established later. -/
def State.regConn (s : State) (d : SReg) (at_ : Dword) (asid : Asid) (x : Nat) (bad : Unit → Res) : Res :=
  let free := (upTo 256).filter fun i => s.net.conns.all fun c => c.index != i
  if natField x 144 112 ≠ 0 then bad ()
  else if free.isEmpty then .trap (regTrap 0 at_) s
  else
    let (i, s) : Nat × State := s.pick free
    let s : State := { s with net := { s.net with conns := ⟨i, asid, BitVec.ofNat 2048 x, false, false, true⟩ :: s.net.conns } }
    .done false (s.writeS d ⟨BitVec.ofNat 64 i, false⟩)

/-- The bytes of a registration record. -/
def regBytes : RegKind → Nat
  | .region => 32
  | .endpoint => 64
  | .object => 32
  | .connection => 256

/-- NREG (R391) (DEDUCED, log 34). -/
def execNreg (d a b : SReg) (k : RegKind) (s : State) : Outcome :=
  nWord (.nreg d a b k) [a, b] (fun s vs =>
    let at_ := vs.getD 0 0
    let asid := vs.getD 1 0
    if !fits asid 12 then badField (.nreg d a b k) s
    else s.nRecord at_ (regBytes k) 1 fun s _ x =>
      if s.notLive asid then .trap (whyTrap 13) s
      else
        let bad := fun (_ : Unit) => badField (.nreg d a b k) s
        match k with
        | .region => s.regRegion d at_ (asid.setWidth 12) x bad
        | .endpoint => s.regEndpoint d at_ (asid.setWidth 12) x bad
        | .object => s.regObject d at_ (asid.setWidth 12) x bad
        | .connection => s.regConn d at_ (asid.setWidth 12) x bad) s

/-! NREVOKE (R393, R402) -/

/-- Marks a registration revoked, if the operand names a live one of the address space: the index it stands under. -/
def State.revoke (s : State) (k : RegKind) (v : Dword) (asid : Asid) (id : Nat) : Except Nat (Nat × Net) :=
  let n := s.net
  match k with
  | .region => match n.regions.find? fun r => r.live && r.asid == asid && r.key.setWidth 64 == v with
    | none => .error 13
    | some r => .ok (r.index, { n with regions := n.regions.map fun q => if q.index = r.index then { q with live := false, revokeId := some id } else q })
  | .endpoint => match n.endpoints.find? fun e => e.live && e.asid == asid && e.index == v.toNat with
    | none => .error 9
    | some e => .ok (e.index, { n with endpoints := n.endpoints.map fun q => if q = e then { q with live := false } else q })
  | .object => match n.objects.find? fun o => o.live && o.asid == asid && o.obj == v.toNat with
    | none => .error 8
    | some o => .ok (o.obj, { n with objects := n.objects.map fun q => if q = o then { q with live := false } else q })
  | .connection => match n.conns.find? fun c => c.live && c.asid == asid && c.index == v.toNat with
    | none => .error 9
    | some c => .ok (c.index, { n with conns := n.conns.map fun q => if q = c then { q with live := false } else q })

/-- NREVOKE (R402): the word queues the revocation; REVOKE_COMPLETE ends it. -/
def execNrevoke (a b : SReg) (k : RegKind) (s : State) : Outcome :=
  nWord (.nrevoke a b k) [a, b] (fun s vs =>
    let v := vs.getD 0 0
    let y := vs.getD 1 0
    let peg := natField y.toNat 16 16
    if natField y.toNat 12 4 ≠ 0 ∨ natField y.toNat 32 32 ≠ 0 ∨ !pegIndexOk peg then badField (.nrevoke a b k) s
    else
      let asid : Asid := y.setWidth 12
      if s.notLive (asid.setWidth 64) then .trap (whyTrap 13) s
      else
        let id := s.net.nextId
        match s.revoke k v asid id with
        | .error why => .trap (whyTrap why) s
        | .ok (i, n) => .done false { s with net := { n with nextId := id + 1, revokes := n.revokes ++ [⟨id, k, asid, i, BitVec.ofNat 16 peg⟩] } }) s

/-- A storage transfer of an address space still runs on an object that a test picks (R402): Harius has found the object, and the transfer has
not completed. -/
def State.storing (s : State) (f : Asid → StoreObj → Bool) : Bool := s.ctxs.any fun c => c.xfers.any fun x => x.obj.any (f c.asid)

/-- Operations that were queued or admitted under a registration still run (R393, R402). -/
def State.revokeBusy (s : State) (r : Revocation) : Bool :=
  match r.kind with
  | .region => s.net.inflows.any fun f => match f.work with
    | .rma g _ => g.index == r.index
    | _ => false
  | .endpoint => s.net.ops.any (fun o => o.asid == r.asid && o.endpoint == r.index) ||
      s.net.sent.any (fun m => !m.fabric && m.endpoint == r.index && m.waits.any fun w => w.asid == r.asid) ||
      s.net.transports.any fun t => t.asid == r.asid && t.peer == .to r.index && !t.packets.isEmpty
  | .object => s.net.nvme.any (fun c => c.asid == r.asid && c.obj == r.index) || s.storing fun a o => a == r.asid && o.obj == r.index
  | .connection => s.net.nvme.any (fun c => s.net.objects.any fun o => o.asid == c.asid && o.obj == c.obj && o.onConn r.index) ||
      s.storing fun _ o => o.onConn r.index

/-- The registrations once a revocation has completed: a region's index becomes free with its generation increased. -/
def Net.free (n : Net) (r : Revocation) : Net :=
  let n : Net := { n with revokes := n.revokes.filter fun q => q.id != r.id }
  match r.kind with
  | .region => { n with regions := n.regions.map fun q => if q.index = r.index then { q with revokeId := none, gen := q.gen + 1 } else q }
  | .endpoint => { n with endpoints := n.endpoints.filter fun e => !(e.asid == r.asid && e.index == r.index) }
  | .object => { n with objects := n.objects.filter fun o => !(o.asid == r.asid && o.obj == r.index) }
  | .connection => { n with conns := n.conns.filter fun c => c.index != r.index }

/-- REVOKE_COMPLETE (R393, R402): DONEPEG is added, then the index becomes free. -/
def execRevokeComplete (id : Nat) (s : State) : Outcome :=
  .next (match s.net.revokes.find? fun r => r.id == id with
    | none => s
    | some r =>
      if s.revokeBusy r then s
      else
        let s := s.pegDone r.donePeg
        { s with net := s.net.free r })

end Sys2Proof.Machine
end

