-- ==== Sys2Proof/Machine/Network.lean ====
section
/-!
DEFINITION. Messages (R390, R395, R400, R401), RMA operations at both ends (R392 to R394, R397 to R399, R269), and the transport
events of the sender (R387 to R389).
-/

namespace Sys2Proof.Machine

/-! Messages -/

/-- The end of a thread whose word met a bad record (R375, R397). -/
def badTrap (b : Bad) : Trap := ⟨b.cause, b.detail, some b.addr, none, none⟩

/-- NSEND (R400). -/
def execNsend (a b : SReg) (s : State) : Outcome :=
  nWord (.nsend a b) [a, b] (fun s vs =>
    let asid := vs.getD 1 0
    if !fits asid 12 then badField (.nsend a b) s
    else s.nRecord (vs.getD 0 0) 32 16 fun s _ x =>
      match sendRec x with
      | none => badField (.nsend a b) s
      | some r =>
        if s.notLive asid then .trap (whyTrap 13) s
        else match s.sendMessage r (asid.setWidth 12) with
          | .error e => .trap (badTrap e) s
          | .ok s => .done false s) s

/-- How many receive buffers may be held (R395). -/
def postMax : Nat := 4096

/-- NPOST (R395, R401). -/
def execNpost (a b : SReg) (s : State) : Outcome :=
  nWord (.npost a b) [a, b] (fun s vs =>
    let asid := vs.getD 1 0
    if !fits asid 12 then badField (.npost a b) s
    else s.nRecord (vs.getD 0 0) 32 32 fun s p x =>
      if !pegIndexOk (natField x 160 16) || natField x 176 16 != 0 then badField (.npost a b) s
      else if s.notLive asid then .trap (whyTrap 13) s
      else if postMax ≤ s.net.posts.length then .trap (whyTrap 0) s
      else
        let e : PostBuf := ⟨asid.setWidth 12, BitVec.ofNat 256 x, p.off, p.slot⟩
        .done false { s with net := { s.net with posts := s.net.posts ++ [e] } }) s

/-- MESSAGE_ACK (R400). -/
def execMessageAck (id : Nat) (s : State) : Outcome := .next ((s.dropPackets id).deliver (.messageAck id))

/-! RMA operations of this package (R397 to R399, R269) -/

/-- Fields of an RMA descriptor: RADDR, LADDR, LEN. -/
def rmaRaddr (d : Nat) : Dword := BitVec.ofNat 64 (natField d 64 64)
/-- LADDR. -/
def rmaLaddr (d : Nat) : Dword := BitVec.ofNat 64 (natField d 128 64)
/-- LEN. -/
def rmaLen (d : Nat) : Nat := natField d 192 32

/-- The fields of an RMA descriptor keep their limits. -/
def rmaFieldsOk (atomic : Bool) (d : Nat) : Bool :=
  decide (natField d 16 8 ≤ 7) && decide (natField d 24 8 ≤ 1) && pegIndexOk (natField d 224 16) && natField d 248 8 == 0 &&
    (!atomic || rmaLen d == 0)

/-- An operation writes STATUS and adds to DONEPEG (R397); one of a transfer has neither. -/
def State.rmaStatus (s : State) (o : RmaOp) (v : Nat) : State :=
  match o.kind with
  | .netrd _ | .netwr _ => s
  | _ => (s.lateWrite o.descKey (o.descAt + 0x1E) (natBytes 1 v) false).pegDone (BitVec.ofNat 16 (natField o.desc.toNat 224 16))

/-- Queues an operation; its packets leave in turns of their own, after the word (R397). -/
def State.rmaQueue (s : State) (o : RmaOp) : State :=
  { s with net := { s.net with nextId := o.id + 1, ops := s.net.ops ++ [o] } }

/-- What an operation reads to send with it: a write its payload, an atomic its operand and its compare value. -/
def RmaOpKind.reads (k : RmaOpKind) (len : Nat) : Nat :=
  match k with
  | .write => len
  | .add | .cas => 16
  | _ => 0

/-- The local bytes that an operation names. -/
def RmaOpKind.local_ (k : RmaOpKind) (len : Nat) : Nat :=
  match k with
  | .add | .cas => 24
  | _ => len

/-- An atomic. -/
def RmaOpKind.atomic : RmaOpKind → Bool
  | .add | .cas => true
  | _ => false

/-- NRMAW, NRMAR and NATOM (R397 to R399): the descriptor's checks, the endpoint, the local range. An unregistered endpoint leaves
STATUS 4 (DEDUCED, log 35). -/
def rmaWord (i : Instr) (a b : SReg) (kind : RmaOpKind) (s : State) : Outcome :=
  nWord i [a, b] (fun s vs =>
    let at_ := vs.getD 0 0
    let asid := vs.getD 1 0
    if !fits asid 12 then badField i s
    else s.nRecord at_ 32 32 fun s p d =>
      if !rmaFieldsOk kind.atomic d then badField i s
      else if s.notLive asid then .trap (whyTrap 13) s
      else
        let ep := natField d 0 16
        let n := kind.local_ (rmaLen d)
        let packets := max 1 (ceilDiv (kind.reads (rmaLen d)) packetMax)
        let o : RmaOp := ⟨s.net.nextId, kind, asid.setWidth 12, ep, BitVec.ofNat 256 d, p.off, p.slot, some s.thr.num, s.thr.asid, s.thr.pc, 0,
          packets, 0, [], Landing.start, none⟩
        if (s.endpoint (asid.setWidth 12) ep).isNone then .trap (memTrap causeAccess .load false 9 at_) (s.rmaStatus o 4)
        else if kind.atomic ∧ (rmaRaddr d).toNat % 8 ≠ 0 then .trap (memTrap causeAlign .load false 0 (rmaRaddr d)) s
        else
          if n = 0 then .done false (s.rmaQueue o)
          else match s.physRange (rmaLaddr d) n with
            | .error w => .trap (memTrap causeAccess .load false w (rmaLaddr d)) s
            | .ok q =>
              if kind.atomic ∧ (rmaLaddr d).toNat % 8 ≠ 0 then .trap (memTrap causeAlign .load false 0 (rmaLaddr d)) s
              else .done false (s.rmaQueue { o with localKey := q.slot })) s

/-- NRMAW (R398). -/
def execNrmaw (a b : SReg) (s : State) : Outcome := rmaWord (.nrmaw a b) a b .write s
/-- NRMAR (R398). -/
def execNrmar (a b : SReg) (s : State) : Outcome := rmaWord (.nrmar a b) a b .read s
/-- NATOM (R399). -/
def execNatom (a b : SReg) (cas : Bool) (s : State) : Outcome := rmaWord (.natom a b cas) a b (if cas then .cas else .add) s

/-! How an operation leaves (R387, R397 to R399) -/

/-- MODE and TC of an operation. -/
def RmaOp.class_ (o : RmaOp) : Bool × Nat := (natField o.desc.toNat 24 8 == 1, natField o.desc.toNat 16 8)

/-- MODE and TC of a message: those of its endpoint's entry (R400). -/
def State.messageClass (s : State) (asid : Asid) (ep : Nat) : Bool × Nat :=
  let raw := ((s.net.endpoints.find? fun e => e.asid == asid && e.index == ep).map (·.raw)).getD 0
  (natField raw.toNat (8 * 0x19) 8 == 1, natField raw.toNat (8 * 0x18) 8)

/-- An operation or message queued before `id` in its ROD context has packets that have not left (R387). -/
def State.sendsBefore (s : State) (id : Nat) (asid : Asid) (ep : Nat) (cls : Bool × Nat) : Bool :=
  cls.1 && (s.net.ops.any (fun q => decide (q.id < id) && q.asid == asid && q.endpoint == ep && q.class_ == cls && decide (q.sent < q.packets)) ||
    s.net.sent.any fun m => decide (m.id < id) && m.endpoint == ep && m.waits.any fun w => w.asid == asid && s.messageClass asid ep == cls)

/-- The bytes of an operation's next packet, as they are read for sending. -/
def State.rmaPayload (s : State) (o : RmaOp) : List (Byte × Bool) :=
  let d := o.desc.toNat
  let from_ := o.sent * packetMax
  match o.kind with
  | .netwr _ => cleanBytes ((o.data.drop from_).take packetMax)
  | k =>
    let n := min packetMax (k.reads (rmaLen d) - from_)
    if n = 0 then []
    else match s.physRange (rmaLaddr d + BitVec.ofNat 64 from_) n with
      | .ok p => s.physRead p n
      | .error _ => [(0, true)]

/-- Poison found when a payload is read for sending (R397): STATUS is 3, packets that have left stay sent, and the fret is logged, with the thread
that issued the operation, which it ends, or with 0xFFFF where that has ended (DEDUCED, log 35). -/
def State.rmaFret (s : State) (o : RmaOp) : State :=
  let s := (({ s with net := { s.net with ops := s.net.ops.filter fun q => q.id != o.id } } : State).dropPackets o.id).rmaStatus o 3
  let tr := fretTrap 2 0 7 none
  match o.thread with
  | some n => ({ s.focusThread n with agent := .thread } : State).endThread (some tr)
  | none =>
    let m := s.mem.packageLog s.pkg (logRecord 1 causeFret.toNat 0xFFFF o.pc.toNat s.pkg.time.toNat tr.detail.toNat)
    { s with mem := m.errorLog s.pkg o.event (errorRecord (errEntry 0x20 tr.detail.toNat) 0 s.pkg.time) }

/-- The next packet of an operation leaves, once its turn and an open port come (R384, R387). -/
def State.sendOp (s : State) (o : RmaOp) : State :=
  let c := o.class_
  if o.packets ≤ o.sent || !s.net.carries c.2 || s.sendsBefore o.id o.asid o.endpoint c then s
  else
    let l := s.rmaPayload o
    if anyPoison l then s.rmaFret o
    else
      let r := s.transmit o.asid o.endpoint c.1 c.2 o.id 1
      let data := l.map fun y => y.1
      { r.1 with
        net := { r.1.net with ops := r.1.net.ops.map fun q => if q.id = o.id then { q with sent := q.sent + 1 } else q }
        out := r.1.out ++ [.rma o.id o.desc r.2.1 r.2.2 (if o.kind = .add then data.take 8 else data)] }

/-- A message that waits in the packet buffer leaves for its endpoint (R387, R400). -/
def State.sendWaiting (s : State) (q : SentMsg) (m : Message) : State :=
  let c := s.messageClass m.asid q.endpoint
  if !s.net.carries c.2 || s.sendsBefore q.id m.asid q.endpoint c then s
  else
    let r := s.transmit m.asid q.endpoint c.1 c.2 q.id (ceilDiv (m.payload.length + 16) packetMax)
    { r.1 with
      net := { r.1.net with sent := r.1.net.sent.map fun x => if x.id = q.id then { x with waits := none } else x }
      out := r.1.out ++ [.message q.endpoint false m (some r.2)] }

/-- A packet of an operation, or a message, leaves. -/
def State.turnSend (s : State) (id : Nat) : State :=
  match s.net.ops.find? fun o => o.id == id with
  | some o => s.sendOp o
  | none => match s.net.sent.find? fun q => q.id == id with
    | some q => match q.waits with
      | some m => s.sendWaiting q m
      | none => s
    | none => s

/-! How an operation ends -/

/-- Bytes from outside cut or padded to a length, with their sector poison. -/
def sizedBytes (n : Nat) (data : List Byte) (poison : List Bool) : List (Byte × Bool) := withSectorPoison (padTo n data) poison

/-- Bytes reach a transfer that waits for them; its pieces land in turns of their own (R252). -/
def State.arriveIn (s : State) (ref : XferRef) (off : Nat) (l : List (Byte × Bool)) : State :=
  (s.onXfer ref fun x => x.arrive off l).settle ref

/-- The FREEZE event (R394). -/
def State.raiseFreeze (s : State) (asid : Asid) (who : Dword) (key : Word) (raddr : Dword) (reason : BitVec 4) (pid : Asid) : State :=
  s.raise 7 asid who (key.setWidth 64) raddr (reason.setWidth 64 ||| (pid.setWidth 64 <<< 16))

/-- The violation of an operation, at the initiator (R269, R394): the issuing context freezes and its transfer stops. -/
def State.rmaViolation (s : State) (o : RmaOp) (reason : BitVec 4) : State :=
  let d := o.desc.toNat
  let key : Word := BitVec.ofNat 32 (natField d 32 32)
  match o.kind with
  | .netrd ref | .netwr ref => match s.findCtx ref.c with
    | none => s.raiseFreeze o.asid (BitVec.allOnes 64) key (rmaRaddr d) reason o.asid
    | some c =>
      let s := (s.onXfer ref fun x => { x with waiting := [0], land := { x.land with got := [] } }).onCtx ref.c (·.freeze true)
      s.raiseFreeze o.asid c.id key (rmaRaddr d) reason o.asid
  | _ => (s.rmaStatus o 2).raiseFreeze o.asid (BitVec.allOnes 64) key (rmaRaddr d) reason o.asid

/-- Changes an operation. -/
def State.onOp (s : State) (id : Nat) (f : RmaOp → RmaOp) : State :=
  { s with net := { s.net with ops := s.net.ops.map fun o => if o.id = id then f o else o } }

/-- An operation leaves the list, with its packets. -/
def State.dropOp (s : State) (o : RmaOp) : State :=
  ({ s with net := { s.net with ops := s.net.ops.filter fun q => q.id != o.id } }).dropPackets o.id

/-- A read whose end is known takes its STATUS once every piece has landed (R398). -/
def State.readDone (s : State) (o : RmaOp) : State :=
  match o.ended with
  | some v => if o.land.done (rmaLaddr o.desc.toNat).toNat (rmaLen o.desc.toNat) then (s.dropOp o).rmaStatus o v else s
  | none => s

/-- Bytes arrive for a read, perhaps with its end. -/
def State.readArrive (s : State) (o : RmaOp) (off : Nat) (l : List (Byte × Bool)) (ended : Option Nat) : State :=
  let o := { o with land := o.land.arrive (rmaLaddr o.desc.toNat).toNat off l, ended := ended }
  ((if ended.isSome then s.dropPackets o.id else s).onOp o.id fun _ => o).readDone o

/-- Piece k of a read lands at LADDR (R398). -/
def State.landOp (s : State) (o : RmaOp) (k : Nat) : State :=
  let a := rmaLaddr o.desc.toNat
  let n := rmaLen o.desc.toNat
  match o.land.piece a.toNat n k with
  | none => s
  | some l =>
    let off := (runAt a.toNat n k).1
    let s := match s.physRange (a + BitVec.ofNat 64 off) l.length with
      | .ok p => s.landBytes (.hbm ⟨p.pa, o.localKey⟩) 0 l
      | .error _ => s
    let o := { o with land := o.land.wrote a.toNat n k }
    (s.onOp o.id fun _ => o).readDone o

/-- A piece of an arrival, or of a read of this package, lands (R387). -/
def State.turnInflow (s : State) (id k : Nat) : State :=
  match s.net.inflows.find? fun f => f.id == id with
  | some f => (s.landInflow f k).pumpAll
  | none => match s.net.ops.find? fun o => o.id == id with
    | some o => s.landOp o k
    | none => s

/-- The result of an atomic at LADDR + 16 (R399): its sector takes the poison of the target's, whatever it had. -/
def State.atomResult (s : State) (o : RmaOp) (l : List (Byte × Bool)) : State :=
  match s.physRange (rmaLaddr o.desc.toNat + 16) 8 with
  | .error _ => s
  | .ok p =>
    let sec : Phys := ⟨p.pa - p.off % 32, o.localKey⟩
    let old := (s.physRead sec 32).map fun y => y.1
    let new := old.take (p.off % 32) ++ l.map (fun y => y.1) ++ old.drop (p.off % 32 + 8)
    s.landBytes (.hbm sec) 0 (new.map fun b => (b, anyPoison l))

/-- The transport gives up on an operation (R398, R399, R269): what a read has not written is written poisoned (DEDUCED, log 35). -/
def State.rmaGaveUp (s : State) (o : RmaOp) : State :=
  let d := o.desc.toNat
  match o.kind with
  | .write => (s.dropOp o).rmaStatus o 1
  | .read =>
    let (s, l) := s.freePoison (rmaLen d)
    s.readArrive o 0 l (some 1)
  | .add | .cas => ((s.dropOp o).atomResult o (List.replicate 8 (0, true))).rmaStatus o 1
  | .netrd ref =>
    let (s, l) := (s.dropOp o).freePoison (rmaLen d)
    s.arriveIn ref 0 l
  | .netwr ref =>
    let (k, s) : Nat × State := (s.dropOp o).choose (max 1 o.packets)
    let e := errEntry 7 (o.endpoint * 2 ^ 40 + ((rmaRaddr d).toNat + k * packetMax) % 2 ^ 40)
    (s.onXfer ref fun x => { x with failed := some e, elem := x.len }).settle ref

/-- An operation is done at the target (R398, R399, R269). -/
def State.rmaDone (s : State) (o : RmaOp) (data : List Byte) (poison : List Bool) : State :=
  let d := o.desc.toNat
  match o.kind with
  | .write => (s.dropOp o).rmaStatus o 0
  | .read => s.readArrive o 0 (sizedBytes (rmaLen d) data poison) (some 0)
  | .add | .cas => ((s.dropOp o).atomResult o (sizedBytes 8 data poison)).rmaStatus o 0
  | .netrd ref => (s.dropOp o).arriveIn ref 0 (sizedBytes (rmaLen d) data poison)
  | .netwr ref => (s.dropOp o).settle ref

/-- Some bytes of a read arrive. -/
def State.rmaPart (s : State) (o : RmaOp) (off : Nat) (data : List Byte) (poison : List Bool) : State :=
  let l := (withSectorPoison data poison).take (rmaLen o.desc.toNat - off)
  match o.kind with
  | .read => s.readArrive o off l none
  | .netrd ref => s.arriveIn ref off l
  | _ => s

/-- What reaches this package of an operation whose packets have all left and that has not ended; a give-up or a violation needs only one
that has left (R388, R394). -/
def State.rmaEnd (s : State) (o : RmaOp) (r : RmaEnd) : State :=
  if o.ended.isSome then s
  else match r with
    | .part off data poison => if o.sent < o.packets then s else s.rmaPart o off data poison
    | .done data poison => if o.sent < o.packets then s else s.rmaDone o data poison
    | .gaveUp => if o.sent = 0 then s else s.rmaGaveUp o
    | .violation reason => if o.sent = 0 then s else (s.dropOp o).rmaViolation o reason

/-- RMA_COMPLETE (R397). -/
def execRmaComplete (id : Nat) (r : RmaEnd) (s : State) : Outcome :=
  .next (match s.net.ops.find? fun o => o.id == id with
    | none => s
    | some o => s.rmaEnd o r)

/-! RMA operations of others (R392 to R394) -/

/-- RMA_REQUEST (R387 to R389, R392 to R394). -/
def execRmaRequest (r : RmaReq) (s : State) : Outcome := .next (s.atPort (.rma r))

/-! The sender's transport (R387 to R389) -/

/-- An operation or message ends as the transport says; a message ends without its DONEPEG (R400). -/
def State.endPacketOp (s : State) (op : Nat) (r : RmaEnd) : State :=
  match s.net.ops.find? fun o => o.id == op with
  | some o => s.rmaEnd o r
  | none => ({ s with net := { s.net with sent := s.net.sent.filter fun m => m.id != op } }).dropPackets op

/-- PACKET_NAK (R388, R389, R394). -/
def execPacketNak (tc psn : Nat) (why : NakKind) (s : State) : Outcome :=
  .next (match s.net.transports.find? fun t => t.id == tc with
    | none => s
    | some t => match why with
      | .sequence e => if t.ordered then s.resend t fun n => decide (e ≤ n) else s
      | .single | .contextMiss => s.resend t fun n => if t.ordered then decide (psn ≤ n) else n == psn
      | .violation reason => match t.packets.find? fun p => p.psn == psn with
        | none => s
        | some p => s.endPacketOp p.op (.violation reason))

/-- RETRANSMIT_TIMEOUT (R388): the eighth in a row on one packet gives its operation up. -/
def execRetransmitTimeout (tc psn : Nat) (s : State) : Outcome :=
  .next (match s.net.transports.find? fun t => t.id == tc with
    | none => s
    | some t => match t.packets.find? fun p => p.psn == psn with
      | none => s
      | some p =>
        if 7 ≤ p.timeouts then s.endPacketOp p.op .gaveUp
        else
          let t : Transport := { t with packets := t.packets.map fun q => if q.psn = psn then { q with timeouts := q.timeouts + 1 } else q }
          (s.onTransport tc fun _ => t).resend t fun n => if t.ordered then decide (psn ≤ n) else n == psn)

/-- CONTEXT_FETCH (R389). -/
def execContextFetch (tc : Nat) (s : State) : Outcome :=
  .next (match s.net.transports.find? fun t => t.id == tc with
    | none => s
    | some t => if t.resident then s else s.fetched t)

end Sys2Proof.Machine
end

