-- ==== Sys2Proof/Machine/Services.lean ====
section
/-!
DEFINITION. Collective graphs' words (R403, R404), hashing, signing and random numbers (R405 to R407), storage paths (R396), ports and
the clock (R385, R386).
-/

namespace Sys2Proof.Machine

/-! Graphs (R336, R337, R403, R404) -/

/-- A node's fields keep their limits (R337). -/
def nodeOk (x : Nat) : Bool :=
  let kind := natField x 0 8
  let optype := natField x 16 8
  let len := natField x 128 32
  decide (1 ≤ kind) && decide (kind ≤ 3) && natField x 10 6 == 0 && natField x 24 8 == 0 && natField x 42 6 == 0 &&
    (if kind = 2 then natField optype 4 4 == 0 && natField optype 0 2 != 3 else optype == 0) &&
    (kind == 1 || (natField x 48 16 == 0 && natField x 160 16 == 0)) &&
    natField x 64 64 % 32 == 0 && decide (32 ≤ len) && decide (len ≤ 4096) && len % 32 == 0 &&
    decide (natField x 160 16 < 16384) && natField x 176 16 == 0 && pegIndexOk (natField x 224 16) && natField x 240 16 == 0

/-- A node's range under a base stays in one 64 KiB frame (R337). -/
def frameHolds (base : Dword) (n : Node) : Bool :=
  let lo := (base + n.off).toNat % 65536
  decide (lo + n.len ≤ 65536)

/-- The bases that nodes name meet R151, and no node's range leaves its frame. -/
def State.basesOk (s : State) (bases : List Dword) (nodes : List Node) (check : Nat → Bool) : Bool :=
  nodes.all fun n => !check n.bsel || ((match physForm s.mem (bases.getD n.bsel 0) with
    | .ok _ => true
    | .error _ => false) && frameHolds (bases.getD n.bsel 0) n)

/-- The peg of a SEND node as NCOLL arms it (R403). -/
def sendPeg (p : Peg) (coll i : Nat) (n : Node) : Peg :=
  { count := 0
    thresh := BitVec.ofNat 64 n.trigThr
    action := (p.action &&& ~~~(0x1F : Dword)) ||| 0x14
    operand := BitVec.ofNat 64 (2 ^ 63 + coll * 2 ^ 32 + i) }

/-- Loads a checked graph: G is 1, and each SEND node's peg is armed (R403) (DEDUCED, log 36). -/
def State.loadGraph (s : State) (g : Graph) : State :=
  let sends := (g.nodes.map nodeOf).zipIdx.filter fun n => n.1.kind == 1
  let s : State := { s with har := { s.har with graphs := g :: s.har.graphs } }
  let s : State := sends.foldl (fun (s : State) n => { s with har := s.har.setPeg n.1.trigPeg (sendPeg (s.har.peg n.1.trigPeg) g.coll n.2 n.1) }) s
  sends.foldl (fun (s : State) n => s.pegEval n.1.trigPeg) s

/-- Unloads a graph (R403): its pegs send nothing any more. -/
def State.unloadGraph (s : State) (g : Graph) : State :=
  let s := s.abandonNodes g
  let s : State := { s with har := { s.har with graphs := s.har.graphs.filter fun q => q.coll != g.coll } }
  ((g.nodes.map nodeOf).filter fun n => n.kind == 1).foldl (fun (s : State) n =>
    let p := s.har.peg n.trigPeg
    { s with har := s.har.setPeg n.trigPeg { p with action := p.action &&& ~~~(0x1F : Dword), operand := 0 } }) s

/-- The header of a graph record keeps its limits (R336). -/
def graphHeadOk (x : Nat) : Bool :=
  decide (natField x 0 8 ≤ 63) && natField x 8 8 == 0 && decide (1 ≤ natField x 16 16) && decide (natField x 16 16 ≤ 4096) &&
    natField x 48 16 == 0 && natField x 320 192 == 0

/-- NCOLL (R403) (DEDUCED, log 36). -/
def execNcoll (a : SReg) (unload : Bool) (s : State) : Outcome :=
  nWord (.ncoll a unload) [a] (fun s vs =>
    let v := vs.getD 0 0
    if unload then
      if !fits v 6 then badField (.ncoll a unload) s
      else match s.har.graph v.toNat with
        | none => .trap (whyTrap 13) s
        | some g => .done false (s.unloadGraph g)
    else s.nRecord v 64 64 fun s _ x =>
      if !graphHeadOk x then badField (.ncoll a unload) s
      else
        let n := natField x 16 16
        s.nRecord (v + 64) (32 * n) 32 fun s _ y =>
          let raw := (upTo n).map fun i => natField y (256 * i) 256
          let nodes : List (BitVec 256) := raw.map fun r => BitVec.ofNat 256 r
          let ns := nodes.map nodeOf
          let bases : List Dword := (upTo 4).map fun i => BitVec.ofNat 64 (natField x (64 + 64 * i) 64)
          if !raw.all nodeOk || !distinct ((ns.filter fun k => k.kind == 1).map fun k => k.trigPeg) || !s.basesOk bases ns (fun _ => true) then
            badField (.ncoll a unload) s
          else
            let coll := natField x 0 8
            if (s.har.graph coll).isSome then .trap (whyTrap 13) s
            else .done false (s.loadGraph ⟨coll, natField x 32 16, bases, nodes, 1, [], [], [], s.pkg.time⟩)) s

/-- NREARM (R404): replaced bases that a node names are checked before anything changes (DEDUCED, log 36). -/
def execNrearm (a b : SReg) (s : State) : Outcome :=
  nWord (.nrearm a b) [a, b] (fun s vs =>
    let v := (vs.getD 0 0).toNat
    let mask := natField v 8 4
    if natField v 6 2 ≠ 0 ∨ natField v 12 52 ≠ 0 then badField (.nrearm a b) s
    else match s.har.graph (natField v 0 6) with
      | none => .trap (whyTrap 13) s
      | some g =>
        if mask = 0 then .done false (s.replay g g.bases)
        else s.nRecord (vs.getD 1 0) 32 32 fun s _ x =>
          let bases : List Dword := (upTo 4).map fun i => if mask.testBit i then BitVec.ofNat 64 (natField x (64 * i) 64) else g.bases.getD i 0
          if !s.basesOk bases (g.nodes.map nodeOf) (fun i => mask.testBit i) then badField (.nrearm a b) s
          else .done false (s.replay g bases)) s

/-! Hashing, signing, random numbers (R405 to R407) -/

/-- NHASH (R405); poison is not written to the host mailbox (R332). -/
def execNhash (a b : SReg) (s : State) : Outcome :=
  nWord (.nhash a b) [a, b] (fun s vs =>
    s.nBytes (vs.getD 0 0) 32 32 .store fun s p st =>
      s.nBytes (vs.getD 1 0) 64 64 .load fun s _ bl =>
        let words : List Word := (upTo 8).map fun i => BitVec.ofNat 32 (natField (valueOf st) (32 * i) 32)
        let out := (shaCompress words (bl.map fun y => y.1)).flatMap fun w => natBytes 4 w.toNat
        let poison := anyPoison st || anyPoison bl
        if poison && s.inCtl p 32 ctlMailbox 1024 then .trap (fretTrap 2 0 7 (some (vs.getD 0 0))) s
        else .done false (s.threadStore p (out.map fun y => (y, poison)))) s

/-- Signatures that may be queued (R406). -/
def signMax : Nat := 16

/-- NSIGN (R406). -/
def execNsign (d a b : SReg) (s : State) : Outcome :=
  nWord (.nsign d a b) [a, b, d] (fun s vs =>
    let peg := vs.getD 2 0
    if !fits peg 16 || !pegIndexOk peg.toNat then badField (.nsign d a b) s
    else s.nBytes (vs.getD 1 0) 384 64 .store fun s q _ =>
      s.nRecord (vs.getD 0 0) 32 32 fun s _ x =>
        if signMax ≤ s.net.signs.length then .trap (whyTrap 0) s
        else .done false { s with net := { s.net with signs := s.net.signs ++ [⟨BitVec.ofNat 256 x, q.off, q.slot, peg.setWidth 16, none⟩] } }) s

/-- SIGNATURE_COMPLETE (R406, R428): the oldest request's signature is written, then DONEPEG; one for SPDM leaves with its answer. -/
def execSignatureComplete (s : State) : Outcome :=
  .next (match s.net.signs with
    | [] => s
    | r :: rest =>
      let sig := padTo 384 (Config.signature r.digest)
      let s : State := { s with net := { s.net with signs := rest } }
      match r.reply with
      | some (code, l) => { s with out := s.out ++ [.spdm code (l ++ sig)] }
      | none => (s.lateWrite r.dstKey r.dst sig false).pegDone r.donePeg)

/-- NRAND (R407). -/
def execNrand (d : SReg) (s : State) : Outcome :=
  nWord (.nrand d) [] (fun s _ =>
    if s.net.entropyFailing then .done false (s.writeS d ⟨0, true⟩)
    else .done false (({ s with fresh := s.fresh + 1 }).writeS d ⟨Config.randomValue s.fresh, false⟩)) s

/-- HEALTH_TEST_FAILURE (R407): counted when it starts. -/
def execHealthTestFailure (failing : Bool) (s : State) : Outcome :=
  .next (
    let s := if failing && !s.net.entropyFailing then s.countErr 41 else s
    { s with net := { s.net with entropyFailing := failing } })

/-! Storage (R396, R268, R422) -/

/-- A storage path: usable, not yet established, or failed. -/
inductive PathState where
  | up | waiting | dead
deriving DecidableEq, Repr

/-- The state of a path (R391, R422). -/
def Net.pathState (n : Net) (path : Nat) : PathState :=
  if path < 16 then (if n.drives.contains path && !n.deadDrives.contains path then .up else .dead)
  else match n.conns.find? fun c => c.index == path - 256 with
    | none => .dead
    | some c => if c.failed then .dead else if c.up then .up else .waiting

/-- A command leaves the list. -/
def State.dropCmd (s : State) (c : NvmeCmd) : State := { s with net := { s.net with nvme := s.net.nvme.filter fun q => q.id != c.id } }

/-- A command is sent again (DEDUCED, log 37). -/
def State.againCmd (c : NvmeCmd) (s : State) : State :=
  { s with
    net := { s.net with nvme := c :: s.net.nvme.filter fun q => q.id != c.id }
    out := s.out ++ [.nvme c.id c.isWrite c.path c.nsid c.lba c.len c.fua c.data] }

/-- A command has failed for good (R268, R321): counted; a read's blocks are written poisoned, a write's first failed block
enters the error queue. -/
def State.failCmd (s : State) (c : NvmeCmd) : State :=
  let s := (s.dropCmd c).countErr 37
  if c.isWrite then
    (s.onXfer c.ref fun x => { x with failed := firstFailed x.failed (errEntry 6 (c.obj * 2 ^ 40 + (natField x.dst.toNat 0 48 + c.off) / 512 % 2 ^ 40)) }).settle c.ref
  else
    let (s, l) := s.freePoison c.len
    s.arriveIn c.ref c.off l

/-- NVME_COMPLETION (R396, R268): done, sent again up to three times, or failed. Nothing completes before its connection is
established (DEDUCED, log 37). -/
def execNvmeCompletion (id : Nat) (ok : Bool) (data : List Byte) (s : State) : Outcome :=
  .next (match s.net.nvme.find? fun c => c.id == id with
    | none => s
    | some c => match s.net.pathState c.path with
      | .waiting => s
      | .dead => s.failCmd c
      | .up =>
        if !ok then (if c.retries < 3 then s.againCmd { c with retries := c.retries + 1 } else s.failCmd c)
        else if c.isWrite then (s.dropCmd c).settle c.ref
        else (s.dropCmd c).arriveIn c.ref c.off (sizedBytes c.len data []))

/-- Every outstanding command of a failed path fails (DEDUCED, log 37). -/
def State.failPath (s : State) (path : Nat) : State :=
  (s.net.nvme.filter fun c => c.path == path).foldl State.failCmd s

/-- DRIVE_FAILURE (R422) (DEDUCED, log 37). -/
def execDriveFailure (drive : Nat) (s : State) : Outcome :=
  .next (if 16 ≤ drive ∨ s.net.deadDrives.contains drive then s
    else ({ s with net := { s.net with deadDrives := drive :: s.net.deadDrives } }).failPath drive)

/-- Changes a connection. -/
def State.onConn (s : State) (i : Nat) (f : Conn → Conn) : State :=
  { s with net := { s.net with conns := s.net.conns.map fun c => if c.index = i then f c else c } }

/-- CONNECTION_ESTABLISHED (R391). -/
def execConnectionEstablished (conn : Nat) (s : State) : Outcome :=
  .next (s.onConn conn fun c => if c.failed then c else { c with up := true })

/-- CONNECTION_FAILURE (R391): every command on its objects becomes a failed command. -/
def execConnectionFailure (conn : Nat) (s : State) : Outcome :=
  .next ((s.onConn conn fun c => { c with up := false, failed := true }).failPath (256 + conn))

/-! Ports and the clock (R384 to R386) -/

/-- PORT_UP (R385). -/
def execPortUp (port : Nat) (s : State) : Outcome :=
  .next (if 8 ≤ port then s
    else (({ s with net := { s.net with portsUp := insertNat port s.net.portsUp } } : State).portApply port))

/-- PFC_PAUSE (R384): a pause on a lossy priority is ignored; one that is lifted lets waiting packets leave. -/
def execPfcPause (port prio : Nat) (on : Bool) (s : State) : Outcome :=
  .next (if !s.net.lossless port prio then s
    else
      let rest := s.net.paused.filter fun p => p != (port, prio)
      ({ s with net := { s.net with paused := if on then (port, prio) :: rest else rest } } : State).flushDue)

/-- A port carries PTP of a domain (R385): it runs, CTL.PTP is 1 and PTPDOM names the domain. -/
def Net.carriesPtp (n : Net) (port : Nat) (domain : Byte) : Bool :=
  n.portRuns port && (n.port port).getLsbD 1 && (n.port port).extractLsb' 16 8 == domain

/-- PTP_SYNC (R386): the first lock steps the clock forward; later ones only change its rate, which the turns of time show. -/
def execPtpSync (t : PtpTime) (s : State) : Outcome :=
  .next (if s.pkg.ptpLocked || !s.net.carriesPtp t.port t.domain then s
    else { s with pkg := { s.pkg with ptpLocked := true, time := if s.pkg.time.toNat < t.ns.toNat then t.ns else s.pkg.time } })

end Sys2Proof.Machine
end

