-- ==== Sys2Proof/Machine/Boot.lean ====
section
/-!
DEFINITION. Package reset and the boot ROM (R409 to R414), the host link and the management port (R420, R421, R431), attestation
(R428 to R430), and the forwarded writes as events of their own (R328, R385, R413, R416, R417).
-/

namespace Sys2Proof.Machine

/-! Package reset (R412, R414) -/

/-- The key that slot 0 takes next: each boot draws a new one (R412, R414). -/
def Memory.nextBootKey (m : Memory) : Nat :=
  match m.keyOf 0 with
  | none => bootKeyId 0
  | some k => k + 2

/-- Package reset and steps 1 and 2 of R412: all that ran is lost; HBM keeps its bytes under their old keys; the links train next. -/
def State.packageReset (s : State) : State :=
  let r := State.reset
  { r with
    mem := { r.mem with
      hbm := s.mem.hbm, hbmPoison := s.mem.hbmPoison, keyed := s.mem.keyed, scr := s.mem.scr, scrPoison := s.mem.scrPoison
      keys := [(0, s.mem.nextBootKey)] }
    net := { r.net with nextId := s.net.nextId }
    pkg := (r.pkg.extend 0 (bytesOf Config.romDigest 0 32)).extend 6 (bytesOf Config.fuseDigest 0 32)
    agent := s.agent
    out := s.out
    agenda := []
    fresh := s.fresh }

/-- Drives that the root complex finds (R422): it bifurcates into 1, 2, 4, 8 or 16 ports, as the fuses set, and a port may hold a drive. -/
def foundDrives : List Nat := (upTo (2 ^ (Config.bifurcation % 5))).filter Config.driveFitted

/-- Step 4 of R412: link training is over, so that the own number is final (0 where no link has agreed), the drives are found, and the
package waits for an image. -/
def State.bootWaits (s : State) : State :=
  if s.pkg.bootState = 0 ∧ (s.mem.keyOf 0).isSome then
    { s with
      pkg := { s.pkg with bootState := 1, ownSet := true }
      net := { s.net with drives := foundDrives } }
  else s

/-- PACKAGE_RESET (R412). -/
def execPackageReset (s : State) : Outcome := .next s.packageReset

/-- RELOAD (R414, R420): a value other than 0x5A5A is ignored. -/
def execReload (v : Dword) (s : State) : Outcome := .next (if v = 0x5A5A then s.packageReset else s)

/-! The staging area (R420, R431) -/

/-- The staging area: stack 0, rows 8,192 to 8,447. -/
def stageBase : Nat := 0x200000000
/-- Its length. -/
def stageSize : Nat := 0x10000000

/-- Writes into the staging area, while the package waits for an image. -/
def State.stageWrite (s : State) (off : Nat) (data : List Byte) : State :=
  if s.pkg.bootState = 1 ∧ off + data.length ≤ stageSize then { s with mem := s.mem.dieWrite 0 (stageBase + off) data false } else s

/-- STAGING_WRITE (R420). -/
def execStagingWrite (off : Nat) (data : List Byte) (s : State) : Outcome := .next (s.stageWrite off data)

/-- Bytes of the staging area. -/
def State.staged (s : State) (off n : Nat) : List Byte := s.mem.hbmBytes (s.mem.key 0) (stageBase + off) n

/-! The image (R409 to R411) -/

/-- A field of the header: byte offset and length. -/
def headField (h : Nat) (off n : Nat) : Nat := natField h (8 * off) (8 * n)

/-- The lengths of the six sections, in image order. -/
def sectionLens (h : Nat) : List Nat :=
  [headField h 0x20 4, headField h 0x24 4, headField h 0x28 4, 72 * headField h 0x2C 2, 40 * headField h 0x30 4, 40 * headField h 0x34 4]

/-- The sections as (start, length) in the image, each at the next 64-byte boundary. -/
def placeSections : Nat → List Nat → List (Nat × Nat)
  | _, [] => []
  | pos, n :: ns => (ceilDiv pos 64 * 64, n) :: placeSections (ceilDiv pos 64 * 64 + n) ns

/-- The six sections of an image. -/
def sections (h : Nat) : List (Nat × Nat) := placeSections 1024 (sectionLens h)

/-- The offset in the own package that a header address names (R152, R442). -/
def headAddr (own : Pkg) (a : Nat) : Option Nat :=
  if natField a 56 8 = 0 ∧ (natField a 44 12 = 0xFFF ∨ natField a 44 12 = own.toNat) ∧ natField a 40 4 = 0 then some (natField a 0 44) else none

/-- A range lies in one stack below 12, in rows 4,096 and higher. -/
def highRows (r : Nat × Nat) : Bool :=
  r.2 == 0 || (paOk r.1 && decide (4096 ≤ paRow r.1) && r.1 / 2 ^ 36 == (r.1 + r.2 - 1) / 2 ^ 36)

/-- Two ranges overlap. -/
def overlap (r q : Nat × Nat) : Bool := decide (0 < r.2) && decide (0 < q.2) && decide (r.1 < q.1 + q.2) && decide (q.1 < r.1 + r.2)

/-- No two of a list of ranges overlap. -/
def apart : List (Nat × Nat) → Bool
  | [] => true
  | r :: rs => rs.all (fun q => !overlap r q) && apart rs

/-- The offsets of .text, .rodata, .data, the control area, the log and the pool, where every header address is good (DEDUCED, log 38). -/
def headAddrs (own : Pkg) (h : Nat) : Option (List Nat) :=
  let l := [0x08, 0x10, 0x18, 0x38, 0x40, 0x50].map fun o => headAddr own (headField h o 8)
  if l.any Option.isNone then none else some (l.map fun x => x.getD 0)

/-- Code 3 of R411: the layout (DEDUCED, log 38). -/
def layoutOk (own : Pkg) (h len : Nat) : Bool :=
  match headAddrs own h with
  | some [t, r, d, c, lo, k] =>
    let log := headField h 0x48 4
    let pool := headField h 0x58 8
    let loads := [(t, headField h 0x20 4), (r, headField h 0x24 4), (d, headField h 0x28 4)]
    let others := [(c, ctlSize), (lo, 32 * log), (k, pool), (stageBase, stageSize)]
    let last := (sections h).getLastD (1024, 0)
    decide (len ≤ stageSize) && decide (last.1 + last.2 ≤ len) &&
      decide (headField h 0x2C 2 ≤ 4096) && decide (headField h 0x30 4 ≤ 65536) && decide (headField h 0x34 4 ≤ 16384) &&
      decide (1 ≤ log) && decide (log ≤ 2 ^ 24) &&
      loads.all (fun x => x.1 % 65536 == 0 && highRows x) && c % ctlSize == 0 && highRows (c, ctlSize) && lo % 32 == 0 &&
      k % 65536 == 0 && pool % 65536 == 0 && paOk lo && paOk k && apart loads && loads.all fun x => others.all fun y => !overlap x y
  | _ => false

/-- The records of a section: index and contents (DEDUCED, log 38). -/
def State.records (s : State) (sec : Nat × Nat) (size : Nat) : List (Nat × Nat) :=
  (upTo (sec.2 / size)).map fun i =>
    let l := s.staged (sec.1 + i * size) size
    (leNat (l.take 8), leNat (l.drop 8))

/-- The index of the first record that is bad, or whose index is out of range or repeats. -/
def firstBad (limit : Nat) (ok : Nat → Bool) : List Nat → List (Nat × Nat) → Option Nat
  | _, [] => none
  | seen, (i, x) :: rest => if limit ≤ i ∨ seen.contains i ∨ !ok x then some i else firstBad limit ok (i :: seen) rest

/-- A peg record keeps the limits of R352, its OPERAND those of R353. -/
def pegOk (x : Nat) : Bool :=
  let a : Dword := BitVec.ofNat 64 (natField x 128 64)
  let o := natField x 192 64
  actionOk a && match natField a.toNat 0 4 with
    | 0 | 6 => o == 0
    | 1 => decide (o < 2 ^ 60)
    | 5 => decide (o < 2 ^ 56)
    | _ => true

/-- x ^ (2 ^ n) modulo m, by squaring. -/
def squared (m x : Nat) : Nat → Nat
  | 0 => x % m
  | n + 1 => squared m (x * x % m) n

/-- The octets that RSASSA-PKCS1-v1_5 with SHA-256 encodes a digest into, for a key of 384 octets (RFC 8017). -/
def encodedDigest (d : List Byte) : List Byte :=
  [0x00, 0x01] ++ List.replicate 330 0xFF ++ [0x00] ++ (natBytes 19 0x3031300d060960864801650304020105000420).reverse ++ d

/-- A signature over a digest verifies under a modulus with the exponent 65,537 (R410) (DEDUCED, log 38). -/
def signatureOk (sig modulus digest : List Byte) : Bool :=
  let n := leNat modulus.reverse
  let x := leNat sig.reverse
  decide (2 ^ 3064 ≤ n) && decide (x < n) && squared n x 16 * x % n == leNat (encodedDigest digest).reverse

/-- The staged image as the boot ROM reads it: header, sections, records. -/
structure Staged where
  head : Nat
  len : Nat
  secs : List (Nat × Nat)
  types : List (Nat × Nat)
  entries : List (Nat × Nat)
  pegs : List (Nat × Nat)
deriving DecidableEq, Repr

/-- One of the six sections. -/
def Staged.sec (g : Staged) (i : Nat) : Nat × Nat := g.secs.getD i (0, 0)

/-- Reads the staged image of a given length. -/
def State.image (s : State) (len : Nat) : Staged :=
  let h := leNat (s.staged 0 1024)
  let secs := sections h
  ⟨h, len, secs, s.records (secs.getD 3 (0, 0)) 72, s.records (secs.getD 4 (0, 0)) 40, s.records (secs.getD 5 (0, 0)) 40⟩

/-- The image digest of R410: every byte but those of SIG. -/
def State.imageDigest (s : State) (len : Nat) : List Byte := sha256 (s.staged 0 (min len 0x80) ++ s.staged 0x200 (len - 0x200))

/-- R411: the code of the first failure and its index; code 0 where the image passes (DEDUCED, log 38). -/
def State.imageCheck (s : State) (g : Staged) : Nat × Nat :=
  let modulus := s.staged 0x200 384
  if headField g.head 0 4 ≠ 0x34464253 then (1, 0)
  else if headField g.head 4 4 ≠ 1 then (2, 0)
  else if !layoutOk s.mem.own g.head g.len then (3, 0)
  else if digestBits (sha256 modulus) ≠ Config.rootHash then (4, 0)
  else if !signatureOk (s.staged 0x80 384) modulus (s.imageDigest g.len) then (5, 0)
  else match firstBad 4096 (fun x => typeOk (BitVec.ofNat 512 x)) [] g.types with
    | some i => (6, i)
    | none => match firstBad 65536 entryOk [] g.entries with
      | some i => (7, i)
      | none => match firstBad 16384 pegOk [] g.pegs with
        | some i => (7, i)
        | none => (0, 0)

/-! Installing an image (R412) -/

/-- Zeroes a range of HBM: its sectors are clean and written under slot 0's key. -/
def Memory.zeroRange (m : Memory) (a n : Nat) : Memory :=
  let inside := fun (sec : Nat) => decide (a / 32 ≤ sec) && decide (sec * 32 < a + n) && decide (0 < n)
  let key := m.key 0
  let kept := m.keyed.filter fun x => !inside x.1
  { m with
    hbm := m.hbm.filter fun c => !inside (c.1 / 32)
    hbmPoison := m.hbmPoison.filter fun sec => !inside sec
    keyed := if key = bootKeyId 0 then kept else (sectorsOf a n).map (fun sec => (sec, key)) ++ kept }

/-- A header address as the machine keeps it: the own package's number put in place of 0xFFF (R442). -/
def ownAddr (own : Pkg) (off : Nat) : BitVec 56 := BitVec.ofNat 56 (own.toNat * 2 ^ 44 + off)

/-- The header fields in force. -/
def headerOf (own : Pkg) (h : Nat) (l : List Nat) : Header_ :=
  ⟨ownAddr own (l.getD 0 0), ownAddr own (l.getD 1 0), ownAddr own (l.getD 3 0), ownAddr own (l.getD 4 0), headField h 0x48 4,
    ownAddr own (l.getD 5 0), headField h 0x58 8⟩

/-- A task-type entry as installed: TEXTLOAD is added to CODE (R409). -/
def installType (hd : Header_) (x : Nat) : BitVec 512 :=
  let e : BitVec 512 := BitVec.ofNat 512 x
  let code : BitVec 56 := e.extractLsb' 0 56 + hd.textLoad
  (e >>> 56 <<< 56) ||| code.setWidth 512

/-- A peg as installed: TEXTLOAD is added to a HANDLER's OPERAND, RODATALOAD to that of a LIST, COPY or SEND (R409, R432). -/
def installPeg (hd : Header_) (x : Nat) : Peg :=
  let field := fun (i : Nat) => (BitVec.ofNat 64 (natField x (64 * i) 64) : Dword)
  let kind := natField x 128 4
  let opd := field 3
  ⟨field 0, field 1, field 2,
    if kind = 5 then opd + hd.textLoad.setWidth 64
    else if (kind = 2 ∨ kind = 3 ∨ kind = 4) ∧ !opd.getLsbD 63 then opd + hd.rodataLoad.setWidth 64
    else opd⟩

/-- Copies a section to its load address. -/
def State.copySection (s : State) (sec : Nat × Nat) (dst : Nat) : State :=
  { s with mem := s.mem.dieWrite 0 dst (s.staged sec.1 sec.2) false }

/-- Steps 7 to 9 of R412 for a checked image: sections, measurements, records, the areas of R415, START. Installing a peg is no
change of it (R354). -/
def State.install (s : State) (g : Staged) (l : List Nat) : State :=
  let hd := headerOf s.mem.own g.head l
  let bytes := fun (i : Nat) => s.staged (g.sec i).1 (g.sec i).2
  let p := ((s.pkg.extend 2 (sha256 (s.staged 0 1024))).extend 3 (sha256 (bytes 0))).extend 4 (sha256 (bytes 1 ++ bytes 2))
  let p := p.extend 5 (sha256 (bytes 3 ++ bytes 4 ++ bytes 5))
  let s := ((s.copySection (g.sec 0) (l.getD 0 0)).copySection (g.sec 1) (l.getD 1 0)).copySection (g.sec 2) (l.getD 2 0)
  let m := ((s.mem.zeroRange (l.getD 3 0) ctlSize).zeroRange (l.getD 4 0) (32 * hd.logLen)).zeroRange (l.getD 5 0) hd.ckpLen
  let s : State := { s with
    mem := { m with early := Vector.replicate 48 0 }
    pkg := { p with hdr := hd, measLocked := true, started := true, bootState := 3 }
    har := { s.har with
      types := g.types.map fun x => (x.1, installType hd x.2)
      entries := g.entries.map fun x => (x.1, BitVec.ofNat 256 x.2)
      pegs := (g.pegs.map fun x => (x.1, installPeg hd x.2)).filter fun x => x.2 != Peg.zero } }
  (s.setCap s.pkg.preCap).raise 0 0 0 0 0 0

/-- Steps 6 to 9 of R412, once the image is staged: it is checked, and runs or leaves its failure in BOOT_STATUS. -/
def State.bootImage (s : State) (len : Nat) : State :=
  let s : State := { s with pkg := s.pkg.extend 1 (sha256 (s.staged 0x200 384)) }
  let g := s.image len
  match s.imageCheck g, headAddrs s.mem.own g.head with
  | (0, _), some l => s.install g l
  | (code, i), _ => { s with pkg := { s.pkg with bootState := 4, bootCode := code, bootIndex := i % 65536 } }

/-- Staging ends: the ROM goes on to check the image of a given length (R412, R420). -/
def State.bootChecks (s : State) (len : Nat) : State :=
  if s.pkg.bootState = 1 then { s with pkg := { s.pkg with bootState := 2, bootLen := len }, agenda := s.agenda ++ [.boot] } else s

/-- The boot ROM goes on (R412): it stops waiting for links, or has checked the staged image. -/
def State.turnBoot (s : State) : State := if s.pkg.bootState = 2 then s.bootImage s.pkg.bootLen else s.bootWaits

/-- DOORBELL (R412, R420): ignored unless the package waits for an image. -/
def execDoorbell (len : Dword) (s : State) : Outcome := .next (s.bootChecks len.toNat)

/-! The management port (R431) -/

/-- An answer to a management command. -/
def State.manage (s : State) (l : List Byte) : State := { s with out := s.out ++ [.management l] }

/-- STAGE (R431): up to 4 KiB; a final one acts as DOORBELL. -/
def execStage (off : Nat) (data : List Byte) (last : Option Dword) (s : State) : Outcome :=
  .next (
    let s := if data.length ≤ 4096 then s.stageWrite off data else s
    match last with
    | some len => s.bootChecks len.toNat
    | none => s)

/-- BOOT_STATUS (R420). -/
def PkgSt.bootStatus (p : PkgSt) : Nat := p.bootState + p.bootCode * 2 ^ 8 + p.bootIndex * 2 ^ 32

/-- The power block (R418); before an image runs, CAP, DIECAP and zeros. -/
def State.powerBlock (s : State) : List Byte :=
  if s.pkg.started then s.ctlBytes ctlPower 64 else natBytes 4 s.cap ++ natBytes 4 (dieCapOf s.cap) ++ List.replicate 56 0

/-- READ_STATUS (R431). -/
def execReadStatus (s : State) : Outcome := .next (s.manage (natBytes 8 s.pkg.bootStatus ++ s.powerBlock))

/-- SET_CAP (R418, R431). -/
def execSetCap (w : Word) (s : State) : Outcome := .next (s.setCap w.toNat)

/-- READ_COUNTERS (R431) (DEDUCED, log 40). -/
def execReadCounters (lo n : Nat) (s : State) : Outcome :=
  .next (s.manage (if lo + n ≤ 256 then (upTo n).flatMap fun i => natBytes 8 (s.mem.counter s.pkg (lo + i)) else []))

/-- CLEAR_COUNTERS (R431) (DEDUCED, log 40). -/
def execClearCounters (lo n : Nat) (s : State) : Outcome :=
  .next ((upTo n).foldl (fun (s : State) i => { s with mem := s.mem.counterStore s.pkg (lo + i) 0 }) s)

/-- READ_LOG (R431): the log head, then the records that have been written (DEDUCED, log 40). -/
def execReadLog (start n : Nat) (s : State) : Outcome :=
  .next (
    let head := s.mem.ctlNat s.pkg ctlLogHead 8
    let recs := (upTo n).flatMap fun i =>
      if start + i < head ∧ 0 < s.pkg.hdr.logLen then
        s.mem.hbmBytes (s.mem.key 0) (hdrOff s.pkg.hdr.logBase + 32 * ((start + i) % s.pkg.hdr.logLen)) 32
      else []
    s.manage (natBytes 8 head ++ recs))

/-- MGMT_UNKNOWN_COMMAND (R431): an error, here an answer of the byte 0xFF, and no change (DEDUCED, log 40). -/
def execMgmtUnknownCommand (_cmd : Nat) (s : State) : Outcome := .next (s.manage [0xFF])

/-! SPDM (R428 to R430): codes and the layout of answers are those of SPDM 1.2 (PRESUMED, log 33) -/

/-- An SPDM answer. -/
def State.spdm (s : State) (code : Nat) (l : List Byte) : State := { s with out := s.out ++ [.spdm code l] }
/-- ERROR UnsupportedRequest. -/
def State.spdmUnsupported (s : State) : State := s.spdm 0x7F [0x07]
/-- An answer that waits its turn for a signature over a digest (R428). -/
def State.spdmSigned (s : State) (code : Nat) (l : List Byte) (digest : List Byte) : State :=
  { s with net := { s.net with signs := s.net.signs ++ [⟨digestBits digest, 0, 0, 0xFFFF, some (code, l)⟩] } }

/-- GET_VERSION (R429): 1.2 only (PRESUMED, log 33). -/
def execGetVersion (s : State) : Outcome := .next (s.spdm 0x04 [0x12])
/-- GET_CAPABILITIES (R429): CERT, CHAL, MEAS with signature (PRESUMED, log 33). -/
def execGetCapabilities (s : State) : Outcome := .next (s.spdm 0x61 (natBytes 4 0x16))
/-- NEGOTIATE_ALGORITHMS (R429): measurement hash SHA-256, RSASSA-3072, SHA-256 (PRESUMED, log 33). -/
def execNegotiateAlgorithms (s : State) : Outcome := .next (s.spdm 0x63 (natBytes 4 0x02 ++ natBytes 4 0x04 ++ natBytes 4 0x01))
/-- GET_DIGESTS (R428, R429): slot 0 (PRESUMED, log 33). -/
def execGetDigests (s : State) : Outcome := .next (s.spdm 0x01 (0x01 :: sha256 Config.certificateChain))
/-- GET_CERTIFICATE (R428, R429): a part of the chain of slot 0. -/
def execGetCertificate (slot off len : Nat) (s : State) : Outcome :=
  .next (if slot = 0 then s.spdm 0x02 ((Config.certificateChain.drop off).take len) else s.spdmUnsupported)

/-- 32 bytes from the random number source. -/
def State.nonce (s : State) : List Byte × State :=
  ((upTo 4).flatMap fun i => natBytes 8 (Config.randomValue (s.fresh + i)).toNat, { s with fresh := s.fresh + 4 })

/-- CHALLENGE (R428, R429). -/
def execChallenge (slot : Nat) (nonce : BitVec 256) (s : State) : Outcome :=
  .next (if slot = 0 then
      let (own, s) : List Byte × State := s.nonce
      let l := sha256 Config.certificateChain ++ own
      s.spdmSigned 0x03 l (sha256 (bytesOf nonce 0 32 ++ l))
    else s.spdmUnsupported)

/-- The measurement block of index n (R430): a 32-byte digest; its type byte is free (PRESUMED, log 33). -/
def State.measBlock (s : State) (n : Nat) : List Byte :=
  natBytes 1 n ++ [0x01] ++ natBytes 2 35 ++ natBytes 1 (Config.choice (s.fresh + n)) ++ natBytes 2 32 ++ bytesOf ((s.pkg.meas.toList).getD (n - 1) 0) 0 32

/-- GET_MEASUREMENTS (R430): the blocks and the signature are of one snapshot. -/
def execGetMeasurements (idx : Nat) (nonce : BitVec 256) (s : State) : Outcome :=
  .next (
    let blocks := if idx = 0xFF then some ((upTo 8).flatMap fun i => s.measBlock (i + 1))
      else if 1 ≤ idx ∧ idx ≤ 8 then some (s.measBlock idx) else none
    match blocks with
    | none => s.spdmUnsupported
    | some l => ({ s with fresh := s.fresh + 9 }).spdmSigned 0x60 l (sha256 (bytesOf nonce 0 32 ++ l)))

/-- SPDM_UNSUPPORTED_REQUEST (R429). -/
def execSpdmUnsupportedRequest (_code : Nat) (s : State) : Outcome := .next s.spdmUnsupported

/-! Host messages (R421) -/

/-- Host-message slots (R420). -/
def hostSlots : Nat := 64

/-- HOST_MESSAGE (R421): enqueued, or dropped and counted. -/
def execHostMessage (m : BitVec 512) (s : State) : Outcome :=
  .next (if s.pkg.started ∧ s.pkg.hostMsgs.length < hostSlots then { s with pkg := { s.pkg with hostMsgs := s.pkg.hostMsgs ++ [m] } }
    else s.countErr 44)

/-- The message of a slot: its header and the 48 bytes after it (R390, R421). -/
def hostMsg (own : Pkg) (m : BitVec 512) : Message :=
  ⟨some own, m.extractLsb' 0 32, m.extractLsb' 32 8, m.extractLsb' 48 12, m.extractLsb' 64 32, m.extractLsb' 96 32, bytesOf m 16 48, [], none⟩

/-- A doubleword of BAR 0 that the host reads (R420); what an offset without a readable register gives is left open (DESIGN CHOICE,
log 6). -/
def State.bar0Read (s : State) (off : Nat) : Dword :=
  match off with
  | 0x00 => BitVec.ofNat 64 s.pkg.bootStatus
  | 0x10 => BitVec.ofNat 64 (hostSlots - s.pkg.hostMsgs.length)
  | 0x20 => s.pkg.hrbase
  | 0x28 => s.pkg.hrlen
  | 0x30 => s.pkg.hrhead
  | 0x38 => s.pkg.hrtail
  | _ => BitVec.ofNat 64 (Config.choice s.fresh)

/-- n bytes of BAR 2 that the host reads (R420): the staging area while the package waits for an image, else all ones, as past the window's
256 MiB. -/
def State.bar2Read (s : State) (off n : Nat) : List Byte :=
  let k := if s.pkg.bootState = 1 then min n (2 ^ 28 - off) else 0
  s.staged off k ++ List.replicate (n - k) 0xFF

/-- The host reads a doubleword of BAR 0, or n bytes of BAR 2 (R420). -/
def State.hostRead (s : State) (bar2 : Bool) (off n : Nat) : State :=
  { s with fresh := s.fresh + 1, out := s.out ++ [.hostRead (if bar2 then s.bar2Read off n else natBytes 8 (s.bar0Read off).toNat)] }

/-- The oldest host message is handled as an arrival. -/
def State.takeHost (s : State) : State :=
  match s.pkg.hostMsgs with
  | [] => s
  | m :: rest => ({ s with pkg := { s.pkg with hostMsgs := rest } }).arrive (hostMsg s.mem.own m)

/-- A value of HRLEN that lets the ring run (R420): a power of two from 16 to 65,536. -/
def ringOk (v : Dword) : Bool := ((upTo 13).map fun i => 2 ^ (i + 4)).contains v.toNat

/-- HOST_RECORD_SEND (R421): the oldest waiting record leaves where the ring has room, and MSI-X vector 0 is raised. -/
def execHostRecordSend (s : State) : Outcome :=
  .next (match s.pkg.mailbox with
    | [] => s
    | r :: rest =>
      if !ringOk s.pkg.hrlen ∨ s.pkg.hrhead - s.pkg.hrtail = s.pkg.hrlen then s
      else
        let at_ := s.pkg.hrbase + BitVec.ofNat 64 (64 * (s.pkg.hrhead.toNat % s.pkg.hrlen.toNat))
        { s with
          pkg := { s.pkg with mailbox := rest, hrhead := s.pkg.hrhead + 1 }
          out := s.out ++ [.hostRecord at_ r, .msix 0] })

/-! Forwarded writes -/

/-- KEY_LOAD (R416). -/
def execKeyLoad (s : State) : Outcome := .next (if s.pkg.started then s.keyWritten else s)
/-- MEAS7_EXTEND (R413). -/
def execMeas7Extend (s : State) : Outcome := .next (if s.pkg.started then s.meas7Written else s)
/-- PEER_TABLE_WRITE (R328): the entry takes the value, its reserved bits zero, and acts. -/
def execPeerTableWrite (peer : BitVec 10) (v : Dword) (s : State) : Outcome :=
  .next (
    let new := v &&& ~~~(0xFFF0 : Dword)
    let old := s.mem.peer s.pkg peer
    ({ s with mem := s.mem.peerPut s.pkg peer new }).peerWritten peer old new)
/-- PORT_TABLE_WRITE (R385). -/
def execPortTableWrite (port : Nat) (s : State) : Outcome := .next (s.portApply port)
/-- ERROR_COUNTER_CLEAR (R417). -/
def execErrorCounterClear (i : Nat) (v : Dword) (s : State) : Outcome := .next { s with mem := s.mem.counterStore s.pkg i v }

end Sys2Proof.Machine
end

