-- ==== Sys2Proof/Machine/VectorMem.lean ====
section
/-!
DEFINITION. The V words that touch memory (R178 to R182): checks in ascending element order, resumption at the faulting element,
sector pieces, gathers, atomics, and requests to other packages (R308, R332).
-/

namespace Sys2Proof.Machine

/-- A trap at an element (R178). -/
def Trap.atElem (t : Trap) (j : Nat) : Trap := { t with elem := some j }

/-- Puts results into elements of vD. -/
def Ctx.putElems (c : Ctx) (w : Nat) (d : VReg) (l : List (Nat × VElem)) : Ctx :=
  if l.isEmpty then c
  else c.setV d ((c.getV d).write w ((upTo (4096 / w)).map fun i => (l.find? fun x => x.1 == i).map (·.2)))

/-- The word is over: its progress is dropped. -/
def Ctx.vClear (c : Ctx) : Ctx := { c with vplan := none, prog := { c.prog with velem := 0 } }

/-- The word ends at a trap of element j, from which it resumes. -/
def vFault (s : State) (tr : Trap) (j : Nat) : Res :=
  .trap (tr.atElem j) { s with ctx := { s.ctx with vplan := none, prog := { s.ctx.prog with velem := j } } }

/-- The checks of one element (R178). -/
def State.vCheck (s : State) (scr : Bool) (a : Dword) (k : AKind) (size : Nat) : State × Except Trap VPlace :=
  if scr then (s, (s.scratch a k size size).map .scr)
  else
    let r := s.access a k size
    (r.1, r.2.map .glob)

/-- The sector of another package that a place names. -/
def Global.sector (g : Global) : Global := ⟨BitVec.ofNat 56 (g.va.toNat / 32 * 32), ⟨g.phys.pa / 32 * 32, g.phys.slot⟩⟩

/-- A load of n bytes at a place of the own package (DEDUCED, log 24). -/
def State.vRead (s : State) (p : VPlace) (n : Nat) : List Byte × Bool × State :=
  match p with
  | .scr q => (s.mem.scrBytes q.core q.off n, s.mem.scrRangePoison q.core q.off n, s)
  | .glob g => s.loadBytes g n

/-- The elements from i on that lie in the sector of element i (R178, R179). -/
def inSector (n size : Nat) (a : Dword) (i : Nat) : List Nat :=
  ((upTo (32 / size)).map (i + ·)).takeWhile fun j => decide (j < n) && (a.toNat + i * size) / 32 == (a.toNat + j * size) / 32

/-- The elements of a piece that pass their checks, and the trap of the first that does not. In a sector of global memory the
first element's checks are all of theirs. FADDR is the failing element's address, which R159 says of gathers and VATOM alone (DESIGN
CHOICE, log 71). -/
def State.pieceChecks (s : State) (scr : Bool) (a : Dword) (k : AKind) (size : Nat) :
    List Nat → List (Nat × VPlace) → State × List (Nat × VPlace) × Option (Trap × Nat)
  | [], acc => (s, acc, none)
  | j :: js, acc =>
    match s.vCheck scr (a + BitVec.ofNat 64 (j * size)) k size with
    | (s, .error tr) => (s, acc, some (tr, j))
    | (s, .ok p) => s.pieceChecks scr a k size js (acc ++ [(j, p)])

/-- What a V memory word does at its places; a gather loads its elements one after another. -/
inductive VKind where
  | load (size : Nat) (d : VReg)
  | gather (size : Nat) (d : VReg)
  | store (size : Nat) (d : VReg)
  | atom (op : VAtomOp) (d : VReg)
deriving DecidableEq, Repr

/-- Bytes of an element. -/
def VKind.size : VKind → Nat
  | .load n _ | .gather n _ | .store n _ => n
  | .atom op _ => vatomSize op
/-- The access that R173 checks. -/
def VKind.access : VKind → AKind
  | .load _ _ | .gather _ _ => .load
  | .store _ _ => .store
  | .atom _ _ => .atomic
/-- The registers that the word writes. -/
def VKind.writes : VKind → List VReg
  | .load _ d | .gather _ d | .atom _ d => [d]
  | .store _ _ => []
/-- A VATOM's element waits for the answer of the one before (R178, R181). -/
def VKind.inOrder : VKind → Bool
  | .atom _ _ => true
  | .load _ _ | .gather _ _ | .store _ _ => false
/-- The word takes its pieces in ascending order: a gather or a VATOM (R180, R181); of the pieces of a contiguous word R178 states no order. -/
def VKind.ascending : VKind → Bool
  | .gather _ _ | .atom _ _ => true
  | .load _ _ | .store _ _ => false

/-- A place of another package. -/
def State.far (s : State) : VPlace → Bool
  | .glob g => s.remote g
  | .scr _ => false

/-- Poisoned data of element j may not leave the package (R332). -/
def State.kept (s : State) (k : VKind) (p : VPlace) (j : Nat) : Bool :=
  s.far p && !s.mayExport && (match k with
    | .load _ _ | .gather _ _ => false
    | .store n d => ((s.ctx.getV d).elem (8 * n) j).p
    | .atom op d => ((s.ctx.getV d).elem (8 * vatomSize op) j).p)

/-- The fret of an element that may not leave. -/
def VKind.fret : VKind → Trap
  | .load _ d | .gather _ d | .store _ d | .atom _ d => fretTrap 2 d.toNat 2 none

/-- Checks the pieces of a contiguous word from element i on (R178, R179), up to the first element that fails. -/
def State.planFrom (s : State) (k : VKind) (scr : Bool) (m : MVal) (a : Dword) : Nat → Nat → List VPiece → State × VPlan
  | 0, _, acc => (s, ⟨acc, none, k.writes⟩)
  | fuel + 1, i, acc =>
    let n := 512 / k.size
    if n ≤ i then (s, ⟨acc, none, k.writes⟩)
    else if !m.v.getLsbD i then s.planFrom k scr m a fuel (i + 1) acc
    else
      let sector := inSector n k.size a i
      let (s, ok, bad) : State × List (Nat × VPlace) × Option (Trap × Nat) := s.pieceChecks scr a k.access k.size (sector.filter m.v.getLsbD) []
      let stays := ok.takeWhile fun x => !s.kept k x.2 x.1
      let bad := match ok.drop stays.length with
        | [] => bad
        | x :: _ => some (k.fret, x.1)
      let acc := match stays with
        | [] => acc
        | (_, p) :: _ => acc ++ [⟨stays.map fun x => (x.1, (x.1 - i) * k.size), p, none, none⟩]
      match bad with
      | some b => (s, ⟨acc, some b, k.writes⟩)
      | none => s.planFrom k scr m a fuel (i + sector.length) acc

/-- Two global addresses name one package (R25, R180). -/
def State.samePackage (s : State) (a b : Dword) : Bool :=
  let f := fun (x : Dword) => let p := vaPkg x; if p = 0xFFF then s.mem.own.toNat else p
  f a == f b

/-- Adds a load's element in another package's sector to the piece that reads that sector, if there is one (R308). -/
def shareSector (l : List VPiece) (i : Nat) (g : Global) : List VPiece :=
  let x := (i, g.phys.pa % 32)
  if l.any fun p => p.place == .glob g.sector then l.map fun p => if p.place = .glob g.sector then { p with elems := p.elems ++ [x] } else p
  else l ++ [⟨[x], .glob g.sector, none, none⟩]

/-- Adds an element of an indexed word. -/
def State.addElem (s : State) (k : VKind) (l : List VPiece) (i : Nat) (p : VPlace) : List VPiece :=
  match k, p with
  | .gather _ _, .glob g => if s.remote g then shareSector l i g else l ++ [⟨[(i, 0)], p, none, none⟩]
  | _, _ => l ++ [⟨[(i, 0)], p, none, none⟩]

/-- Checks the elements of an indexed word from element i on (R180), up to the first that fails. WHY 6, for which R180 names no place among
the checks of R173, comes after them (DESIGN CHOICE, log 71). -/
def State.planIdx (s : State) (k : VKind) (scr : Bool) (b : VReg) (m : MVal) (a : Dword) : Nat → Nat → List VPiece → State × VPlan
  | 0, _, acc => (s, ⟨acc, none, k.writes⟩)
  | fuel + 1, i, acc =>
    if 512 / k.size ≤ i then (s, ⟨acc, none, k.writes⟩)
    else if !m.v.getLsbD i then s.planIdx k scr b m a fuel (i + 1) acc
    else
      let idx := (s.ctx.getV b).elem 32 i
      let x := a + BitVec.ofNat 64 (idx.code * k.size)
      let stop := fun (s : State) (tr : Trap) => (s, (⟨acc, some (tr, i), k.writes⟩ : VPlan))
      if idx.p then stop s (fretTrap 1 b.toNat 2 none)
      else match s.vCheck scr x k.access k.size with
        | (s, .error tr) => stop s tr
        | (s, .ok p) =>
          if !scr && !s.samePackage a x then stop s (memTrap causeAccess k.access false 6 x)
          else if s.kept k p i then stop s k.fret
          else s.planIdx k scr b m a fuel (i + 1) (s.addElem k acc i p)

/-- The runs of bytes of a store's elements: offsets rise, and a run ends where the next element is not its neighbour. -/
def storeRuns : List (Nat × List Byte) → List (Nat × List Byte)
  | [] => []
  | (o, l) :: rest =>
    match storeRuns rest with
    | (o2, l2) :: more => if o + l.length = o2 then (o, l ++ l2) :: more else (o, l) :: (o2, l2) :: more
    | [] => [(o, l)]

/-- A place some bytes on. -/
def Global.plus (g : Global) (n : Nat) : Global := ⟨g.va + BitVec.ofNat 56 n, { g.phys with pa := g.phys.pa + n }⟩

/-- Stores a piece: its runs in one write of its sector (R178, R179, R288). -/
def State.vStore (s : State) (p : VPlace) (l : List (Nat × List Byte)) (poison : Bool) : State :=
  match p with
  | .scr q => { s with mem := l.foldl (fun (m : Memory) x => m.scrWrite q.core (q.off + x.1) x.2 poison) s.mem }
  | .glob g =>
    if s.remote g then match l with
      | [(0, d)] => s.request g (.write d poison) (.store s.here.1 s.here.2)
      | _ => s.request g (.masked l poison) (.store s.here.1 s.here.2)
    else l.foldl (fun (s : State) x => s.storeBytes (g.plus x.1) x.2 poison) s

/-- The bytes from a piece's place to the end of its last element. -/
def VPiece.span (p : VPiece) (size : Nat) : Nat := (p.elems.map fun x => x.2 + size).foldl max 0

/-- A piece of the own package whose key slot has been unloaded or loaded anew since it was checked (R158, R416): what it reads is poison, what
it writes poisons its sectors, and the event is counted. -/
def State.vLost (s : State) (k : VKind) (g : Global) (p : VPiece) : State × VPiece :=
  let n := p.span k.size
  let s : State := { s with mem := s.mem.l1Evict s.ctx.core (g.phys.off / 64) }
  let s := if k.access = .load then s.countErr 30 else s.lateWrite g.phys.slot g.phys.off (List.replicate n 0) true
  let (s, l) := s.freePoison n
  (s, { p with got := some (l.map fun y => y.1, true) })

/-- The place of a piece has lost its key slot. -/
def State.vGone (s : State) : VPlace → Option Global
  | .glob g => if g.phys.slot = noSlot ∧ !s.remote g then some g else none
  | .scr _ => none

/-- Works on a piece whose key slot is as it was checked: a load reads it or asks for its sector, a store writes it, an atomic acts at its
site or is sent there (R179 to R181, R308) (DEDUCED, log 24). -/
def State.vDo (s : State) (k : VKind) (p : VPiece) : State × VPiece :=
  match k with
  | .load n _ | .gather n _ => match p.place with
    | .glob g =>
      if s.remote g then (s.request g.sector (.read 32) (.vload s.ctx.inst), { p with req := some s.net.nextId })
      else
        let r := s.vRead p.place (p.span n)
        (r.2.2, { p with got := some (r.1, r.2.1) })
    | .scr _ =>
      let r := s.vRead p.place (p.span n)
      (r.2.2, { p with got := some (r.1, r.2.1) })
  | .store n d =>
    let els := p.elems.map fun x => (x.2, (s.ctx.getV d).elem (8 * n) x.1)
    (s.vStore p.place (storeRuns (els.map fun x => (x.1, natBytes n x.2.code))) (els.any fun x => x.2.p), { p with got := some ([], false) })
  | .atom op d =>
    let n := vatomSize op
    let j := (p.elems.headD (0, 0)).1
    let opd := (s.ctx.getV d).elem (8 * n) j
    match p.place with
    | .scr _ => (s, { p with got := some ([], false) })
    | .glob g =>
      if s.remote g then
        (s.request g (.vatom op (BitVec.ofNat 64 opd.code) opd.p) (.vatom s.ctx.inst j), { p with req := some s.net.nextId })
      else
        let s := s.atomicSite g
        let (old, pm) := s.siteRead g n
        (s.siteWrite g n (vatomNew op old opd.code) (pm || opd.p), { p with got := some (natBytes n old, pm) })

/-- Works on a piece. -/
def State.vPiece (s : State) (k : VKind) (p : VPiece) : State × VPiece :=
  match s.vGone p.place with
  | some g => s.vLost k g p
  | none => s.vDo k p

/-- Nothing has been done about the piece yet. -/
def VPiece.untouched (p : VPiece) : Bool := p.req.isNone && p.got.isNone

/-- Works on every piece that it has not begun, a VATOM as far as the first that waits for its answer. -/
def State.vPieces (s : State) (k : VKind) : List VPiece → State × List VPiece
  | [] => (s, [])
  | p :: ps =>
    let (s, p) := if p.untouched then s.vPiece k p else (s, p)
    if k.inOrder && p.got.isNone then (s, p :: ps)
    else
      let r := s.vPieces k ps
      (r.1, p :: r.2)

/-- Works on one piece that it has not begun: a gather or a VATOM on the first, another word on any (R178). -/
def State.vSlow (s : State) (k : VKind) (l : List VPiece) : State × List VPiece :=
  let todo := (upTo l.length).filter fun i => l[i]?.any VPiece.untouched
  let i := if k.inOrder then (if l.any (fun p => p.req.isSome && p.got.isNone) then none else todo[0]?)
    else if k.ascending then todo[0]? else todo[Config.choice s.fresh % todo.length]?
  match i.bind fun i => (l[i]?).map fun p => (i, p) with
  | none => (s, l)
  | some (i, p) =>
    let r := ({ s with fresh := s.fresh + 1 } : State).vPiece k p
    (r.1, l.set i r.2)

/-- What the elements of a piece take from its bytes. -/
def VPiece.results (p : VPiece) (size : Nat) : List (Nat × VElem) :=
  match p.got with
  | none => []
  | some (bytes, poison) => p.elems.map fun x => (x.1, ⟨leNat ((bytes.drop x.2).take size), poison⟩)

/-- A V memory word with its plan: it works on its pieces, waits for replies (STALL 11), and writes its register when all have come; then it
completes, or traps at the element that failed. A slow turn does one piece. A word that will trap has not issued (R100, R178) (DEDUCED,
log 24). -/
def vGo (k : VKind) (p : VPlan) (s : State) : Res :=
  let slow := s.ctx.slow && p.pieces.any VPiece.untouched
  let (s, l) := if slow then s.vSlow k p.pieces else s.vPieces k p.pieces
  if slow || l.any (fun x => x.got.isNone) then
    let s : State := { s with ctx := { s.ctx with vplan := some { p with pieces := l } } }
    let code : BitVec 4 := if l.any (fun x => x.req.isSome && x.got.isNone) then 11 else 14
    if p.bad.isSome then .wait code s else .hold code (!k.inOrder && !k.writes.isEmpty) s
  else
    let c := if k.writes.isEmpty then s.ctx
      else (k.writes.headD 0 |> fun d => s.ctx.putElems (8 * k.size) d (l.flatMap fun x => x.results k.size))
    match p.bad with
    | some (tr, j) => vFault { s with ctx := c } tr j
    | none => vDone s c.vClear

/-- A V memory word: the plan it is under way with, or the one that its checks make now. -/
def vRun (k : VKind) (plan : State → State × VPlan) (s : State) : Res :=
  match s.ctx.vplan with
  | some p => vGo k p s
  | none =>
    let r := plan s
    vGo k r.2 r.1

/-- A contiguous word. -/
def vContigWord (t : Tok) (scr : Bool) (k : VKind) (d : VReg) (a b : SReg) (s : State) : Outcome :=
  vWord t 1 [d] (fun c s => s.ungated fun _ => s.addr2 a b fun x =>
    if c.mask.p then .trap (fretTrap 1 c.msel.toNat 3 none) s
    else vRun k (fun s => s.planFrom k scr c.mask x 512 c.prog.velem []) s) s

/-- A contiguous load word. -/
def vLoadWord (t : Tok) (scr : Bool) (d : VReg) (a b : SReg) (z : BitVec 2) (s : State) : Outcome :=
  vContigWord t scr (.load (2 ^ z.toNat) d) d a b s
/-- A contiguous store word. -/
def vStoreWord (t : Tok) (scr : Bool) (d : VReg) (a b : SReg) (z : BitVec 2) (s : State) : Outcome :=
  vContigWord t scr (.store (2 ^ z.toNat) d) d a b s

/-- An indexed word. -/
def vIndexedWord (t : Tok) (scr : Bool) (d : VReg) (a : SReg) (b : VReg) (k : VKind) (s : State) : Outcome :=
  vWord t 1 [d, b] (fun c s => s.ungated fun _ => s.clean a 1 fun x =>
    if c.mask.p then .trap (fretTrap 1 c.msel.toNat 3 none) s
    else vRun k (fun s => s.planIdx k scr b c.mask x 512 c.prog.velem []) s) s

/-- VLDS (R179). -/
def execVlds (t : Tok) (d : VReg) (a b : SReg) (z : BitVec 2) (s : State) : Outcome := vLoadWord t true d a b z s
/-- VSTS (R179). -/
def execVsts (t : Tok) (d : VReg) (a b : SReg) (z : BitVec 2) (s : State) : Outcome := vStoreWord t true d a b z s
/-- VGATH (R180). -/
def execVgath (t : Tok) (d : VReg) (a : SReg) (b : VReg) (w64 : Bool) (s : State) : Outcome :=
  vIndexedWord t true d a b (.gather (if w64 then 8 else 4) d) s
/-- VLDG (R179). -/
def execVldg (t : Tok) (d : VReg) (a b : SReg) (z : BitVec 2) (s : State) : Outcome := vLoadWord t false d a b z s
/-- VSTG (R179). -/
def execVstg (t : Tok) (d : VReg) (a b : SReg) (z : BitVec 2) (s : State) : Outcome := vStoreWord t false d a b z s
/-- VGATHG (R180). -/
def execVgathg (t : Tok) (d : VReg) (a : SReg) (b : VReg) (w64 : Bool) (s : State) : Outcome :=
  vIndexedWord t false d a b (.gather (if w64 then 8 else 4) d) s
/-- VATOM (R181). -/
def execVatom (t : Tok) (op : VAtomOp) (d : VReg) (a : SReg) (b : VReg) (s : State) : Outcome :=
  vIndexedWord t false d a b (.atom op d) s

end Sys2Proof.Machine
end

