-- ==== Sys2Proof/Machine/Dispatch.lean ====
section
/-!
DEFINITION. One arm per constructor of `Instr`: each a direct call of the meaning of its own.
-/

namespace Sys2Proof.Machine

/-- The effect of one instruction or event on the package. -/
def exec (i : Instr) (s : State) : Host.Outcome State Fault Refusal :=
  match i with
  | .add t d a b => Sys2Proof.Machine.execAdd t d a b s
  | .sub t d a b => Sys2Proof.Machine.execSub t d a b s
  | .and t d a b => Sys2Proof.Machine.execAnd t d a b s
  | .or t d a b => Sys2Proof.Machine.execOr t d a b s
  | .xor t d a b => Sys2Proof.Machine.execXor t d a b s
  | .andn t d a b => Sys2Proof.Machine.execAndn t d a b s
  | .shl t d a b => Sys2Proof.Machine.execShl t d a b s
  | .shrl t d a b => Sys2Proof.Machine.execShrl t d a b s
  | .shra t d a b => Sys2Proof.Machine.execShra t d a b s
  | .rotr t d a b => Sys2Proof.Machine.execRotr t d a b s
  | .min t d a b => Sys2Proof.Machine.execMin t d a b s
  | .max t d a b => Sys2Proof.Machine.execMax t d a b s
  | .minu t d a b => Sys2Proof.Machine.execMinu t d a b s
  | .maxu t d a b => Sys2Proof.Machine.execMaxu t d a b s
  | .clz t d a => Sys2Proof.Machine.execClz t d a s
  | .ctz t d a => Sys2Proof.Machine.execCtz t d a s
  | .popc t d a => Sys2Proof.Machine.execPopc t d a s
  | .mul t d a b => Sys2Proof.Machine.execMul t d a b s
  | .mulh t d a b => Sys2Proof.Machine.execMulh t d a b s
  | .mulhu t d a b => Sys2Proof.Machine.execMulhu t d a b s
  | .div t d a b => Sys2Proof.Machine.execDiv t d a b s
  | .divu t d a b => Sys2Proof.Machine.execDivu t d a b s
  | .rem t d a b => Sys2Proof.Machine.execRem t d a b s
  | .remu t d a b => Sys2Proof.Machine.execRemu t d a b s
  | .sel t d a b p => Sys2Proof.Machine.execSel t d a b p s
  | .addi t d imm => Sys2Proof.Machine.execAddi t d imm s
  | .andi t d imm => Sys2Proof.Machine.execAndi t d imm s
  | .ori t d imm => Sys2Proof.Machine.execOri t d imm s
  | .xori t d imm => Sys2Proof.Machine.execXori t d imm s
  | .shli t d c => Sys2Proof.Machine.execShli t d c s
  | .shrli t d c => Sys2Proof.Machine.execShrli t d c s
  | .shrai t d c => Sys2Proof.Machine.execShrai t d c s
  | .movi t d imm => Sys2Proof.Machine.execMovi t d imm s
  | .movw t d lit => Sys2Proof.Machine.execMovw t d lit s
  | .movhw t d lit => Sys2Proof.Machine.execMovhw t d lit s
  | .cmpeq t d a b => Sys2Proof.Machine.execCmpeq t d a b s
  | .cmpne t d a b => Sys2Proof.Machine.execCmpne t d a b s
  | .cmplt t d a b => Sys2Proof.Machine.execCmplt t d a b s
  | .cmple t d a b => Sys2Proof.Machine.execCmple t d a b s
  | .cmpltu t d a b => Sys2Proof.Machine.execCmpltu t d a b s
  | .cmpleu t d a b => Sys2Proof.Machine.execCmpleu t d a b s
  | .pand t d a b => Sys2Proof.Machine.execPand t d a b s
  | .por t d a b => Sys2Proof.Machine.execPor t d a b s
  | .pxor t d a b => Sys2Proof.Machine.execPxor t d a b s
  | .pandn t d a b => Sys2Proof.Machine.execPandn t d a b s
  | .fadd t d a b => Sys2Proof.Machine.execFadd t d a b s
  | .fsub t d a b => Sys2Proof.Machine.execFsub t d a b s
  | .fmul t d a b => Sys2Proof.Machine.execFmul t d a b s
  | .fdiv t d a b => Sys2Proof.Machine.execFdiv t d a b s
  | .ffma t d a b => Sys2Proof.Machine.execFfma t d a b s
  | .fmin t d a b => Sys2Proof.Machine.execFmin t d a b s
  | .fmax t d a b => Sys2Proof.Machine.execFmax t d a b s
  | .fsqrt t d a => Sys2Proof.Machine.execFsqrt t d a s
  | .fcmpeq t d a b => Sys2Proof.Machine.execFcmpeq t d a b s
  | .fcmplt t d a b => Sys2Proof.Machine.execFcmplt t d a b s
  | .fcmple t d a b => Sys2Proof.Machine.execFcmple t d a b s
  | .fcvtfi t d a i32 wrap rm => Sys2Proof.Machine.execFcvtfi t d a i32 wrap rm s
  | .fcvtif t d a w32 uns rm => Sys2Proof.Machine.execFcvtif t d a w32 uns rm s
  | .gets t d n => Sys2Proof.Machine.execGets t d n s
  | .sets t d n => Sys2Proof.Machine.execSets t d n s
  | .ldg t d a b m => Sys2Proof.Machine.execLdg t d a b m s
  | .ldgw t d a m lit => Sys2Proof.Machine.execLdgw t d a m lit s
  | .stg t d a b z => Sys2Proof.Machine.execStg t d a b z s
  | .stgw t d a z lit => Sys2Proof.Machine.execStgw t d a z lit s
  | .lds t d a b m => Sys2Proof.Machine.execLds t d a b m s
  | .sts t d a b z => Sys2Proof.Machine.execSts t d a b z s
  | .amo t d a b op => Sys2Proof.Machine.execAmo t d a b op s
  | .amos t d a b op => Sys2Proof.Machine.execAmos t d a b op s
  | .promote t a b => Sys2Proof.Machine.execPromote t a b s
  | .demote t a b => Sys2Proof.Machine.execDemote t a b s
  | .rstf t d a b z => Sys2Proof.Machine.execRstf t d a b z s
  | .copyIn t d a b rel ch => Sys2Proof.Machine.execCopyIn t d a b rel ch s
  | .copytIn t d a b rel ch => Sys2Proof.Machine.execCopytIn t d a b rel ch s
  | .copym t d a b rel ch => Sys2Proof.Machine.execCopym t d a b rel ch s
  | .copya t tile a b rel => Sys2Proof.Machine.execCopya t tile a b rel s
  | .gath t d a b rel ch => Sys2Proof.Machine.execGath t d a b rel ch s
  | .pref t a b => Sys2Proof.Machine.execPref t a b s
  | .rloadb t d a b rel ch => Sys2Proof.Machine.execRloadb t d a b rel ch s
  | .stread t d a b rel ch => Sys2Proof.Machine.execStread t d a b rel ch s
  | .netrd t d a b rel ch => Sys2Proof.Machine.execNetrd t d a b rel ch s
  | .copyOut t d a b rel ch => Sys2Proof.Machine.execCopyOut t d a b rel ch s
  | .copytOut t d a b rel ch => Sys2Proof.Machine.execCopytOut t d a b rel ch s
  | .scat t d a b rel ch => Sys2Proof.Machine.execScat t d a b rel ch s
  | .copyf t d a b ch => Sys2Proof.Machine.execCopyf t d a b ch s
  | .rred t d a b rel ch => Sys2Proof.Machine.execRred t d a b rel ch s
  | .stwrite t d a b rel ch => Sys2Proof.Machine.execStwrite t d a b rel ch s
  | .netwr t d a b rel ch => Sys2Proof.Machine.execNetwr t d a b rel ch s
  | .mma t ty tile a b z k g sc => Sys2Proof.Machine.execMma t ty tile a b z k g sc s
  | .mmas t ty tile a b z k g sc => Sys2Proof.Machine.execMmas t ty tile a b z k g sc s
  | .mmaq t ty tile a b z k g sc seq => Sys2Proof.Machine.execMmaq t ty tile a b z k g sc seq s
  | .mmar t ty tile a b z k g sc => Sys2Proof.Machine.execMmar t ty tile a b z k g sc s
  | .mgrp t ty tile a b z k g sc gm1 ct => Sys2Proof.Machine.execMgrp t ty tile a b z k g sc gm1 ct s
  | .mncfg t l a b count acc => Sys2Proof.Machine.execMncfg t l a b count acc s
  | .mnest t n => Sys2Proof.Machine.execMnest t n s
  | .mzero t tile nm1 => Sys2Proof.Machine.execMzero t tile nm1 s
  | .mtov t tile d b => Sys2Proof.Machine.execMtov t tile d b s
  | .mfromv t tile a b ad => Sys2Proof.Machine.execMfromv t tile a b ad s
  | .mstore t tile a b => Sys2Proof.Machine.execMstore t tile a b s
  | .mloadacc t tile a => Sys2Proof.Machine.execMloadacc t tile a s
  | .vadd t ty d a b => Sys2Proof.Machine.execVadd t ty d a b s
  | .vsub t ty d a b => Sys2Proof.Machine.execVsub t ty d a b s
  | .vmul t ty d a b => Sys2Proof.Machine.execVmul t ty d a b s
  | .vfma t ty d a b => Sys2Proof.Machine.execVfma t ty d a b s
  | .vdiv t ty d a b => Sys2Proof.Machine.execVdiv t ty d a b s
  | .vmin t ty d a b => Sys2Proof.Machine.execVmin t ty d a b s
  | .vmax t ty d a b => Sys2Proof.Machine.execVmax t ty d a b s
  | .vminu t ty d a b => Sys2Proof.Machine.execVminu t ty d a b s
  | .vmaxu t ty d a b => Sys2Proof.Machine.execVmaxu t ty d a b s
  | .vabs t ty d a => Sys2Proof.Machine.execVabs t ty d a s
  | .vneg t ty d a => Sys2Proof.Machine.execVneg t ty d a s
  | .vadds t ty d a b => Sys2Proof.Machine.execVadds t ty d a b s
  | .vaddsu t ty d a b => Sys2Proof.Machine.execVaddsu t ty d a b s
  | .vsubs t ty d a b => Sys2Proof.Machine.execVsubs t ty d a b s
  | .vsubsu t ty d a b => Sys2Proof.Machine.execVsubsu t ty d a b s
  | .vmulh t ty d a b => Sys2Proof.Machine.execVmulh t ty d a b s
  | .vmulhu t ty d a b => Sys2Proof.Machine.execVmulhu t ty d a b s
  | .vand t ty d a b => Sys2Proof.Machine.execVand t ty d a b s
  | .vor t ty d a b => Sys2Proof.Machine.execVor t ty d a b s
  | .vxor t ty d a b => Sys2Proof.Machine.execVxor t ty d a b s
  | .vandn t ty d a b => Sys2Proof.Machine.execVandn t ty d a b s
  | .vshl t ty d a b => Sys2Proof.Machine.execVshl t ty d a b s
  | .vshrl t ty d a b => Sys2Proof.Machine.execVshrl t ty d a b s
  | .vshra t ty d a b => Sys2Proof.Machine.execVshra t ty d a b s
  | .vcmpeq t ty d a b => Sys2Proof.Machine.execVcmpeq t ty d a b s
  | .vcmpne t ty d a b => Sys2Proof.Machine.execVcmpne t ty d a b s
  | .vcmplt t ty d a b => Sys2Proof.Machine.execVcmplt t ty d a b s
  | .vcmple t ty d a b => Sys2Proof.Machine.execVcmple t ty d a b s
  | .vcmpltu t ty d a b => Sys2Proof.Machine.execVcmpltu t ty d a b s
  | .vcmpleu t ty d a b => Sys2Proof.Machine.execVcmpleu t ty d a b s
  | .vcmpun t ty d a b => Sys2Proof.Machine.execVcmpun t ty d a b s
  | .vsel t z d a b => Sys2Proof.Machine.execVsel t z d a b s
  | .vmsel t k => Sys2Proof.Machine.execVmsel t k s
  | .vmlog t op d a b => Sys2Proof.Machine.execVmlog t op d a b s
  | .vcvt t ty d a sinv rm dir other => Sys2Proof.Machine.execVcvt t ty d a sinv rm dir other s
  | .vquant t ty d a b tensor sinv rm other => Sys2Proof.Machine.execVquant t ty d a b tensor sinv rm other s
  | .vdequant t ty d a b tensor sinv rm other => Sys2Proof.Machine.execVdequant t ty d a b tensor sinv rm other s
  | .vrcp t ty d a => Sys2Proof.Machine.execVrcp t ty d a s
  | .vrsq t ty d a => Sys2Proof.Machine.execVrsq t ty d a s
  | .vexp2 t ty d a => Sys2Proof.Machine.execVexp2 t ty d a s
  | .vlog2 t ty d a => Sys2Proof.Machine.execVlog2 t ty d a s
  | .vtanh t ty d a => Sys2Proof.Machine.execVtanh t ty d a s
  | .vsqrt t ty d a => Sys2Proof.Machine.execVsqrt t ty d a s
  | .vredadd t ty d a => Sys2Proof.Machine.execVredadd t ty d a s
  | .vredmax t ty d a => Sys2Proof.Machine.execVredmax t ty d a s
  | .vredmin t ty d a => Sys2Proof.Machine.execVredmin t ty d a s
  | .vperm t ty d a b => Sys2Proof.Machine.execVperm t ty d a b s
  | .vbcast t ty d a => Sys2Proof.Machine.execVbcast t ty d a s
  | .vins t ty d a b => Sys2Proof.Machine.execVins t ty d a b s
  | .vext t ty d a b => Sys2Proof.Machine.execVext t ty d a b s
  | .vlds t d a b z => Sys2Proof.Machine.execVlds t d a b z s
  | .vsts t d a b z => Sys2Proof.Machine.execVsts t d a b z s
  | .vgath t d a b w64 => Sys2Proof.Machine.execVgath t d a b w64 s
  | .vldg t d a b z => Sys2Proof.Machine.execVldg t d a b z s
  | .vstg t d a b z => Sys2Proof.Machine.execVstg t d a b z s
  | .vgathg t d a b w64 => Sys2Proof.Machine.execVgathg t d a b w64 s
  | .vatom t op d a b => Sys2Proof.Machine.execVatom t op d a b s
  | .phreg mode a x => Sys2Proof.Machine.execPhreg mode a x s
  | .phdrop a x => Sys2Proof.Machine.execPhdrop a x s
  | .phsig a x => Sys2Proof.Machine.execPhsig a x s
  | .phwait a x => Sys2Proof.Machine.execPhwait a x s
  | .phnext a x => Sys2Proof.Machine.execPhnext a x s
  | .phexpb a b x => Sys2Proof.Machine.execPhexpb a b x s
  | .phq a b x => Sys2Proof.Machine.execPhq a b x s
  | .bind d a b => Sys2Proof.Machine.execBind d a b s
  | .unbind a all => Sys2Proof.Machine.execUnbind a all s
  | .fence fl x => Sys2Proof.Machine.execFence fl x s
  | .waitw b w ch => Sys2Proof.Machine.execWaitw b w ch s
  | .waitf a b => Sys2Proof.Machine.execWaitf a b s
  | .waitt b => Sys2Proof.Machine.execWaitt b s
  | .yleave n => Sys2Proof.Machine.execYleave n s
  | .nsend a b => Sys2Proof.Machine.execNsend a b s
  | .npost a b => Sys2Proof.Machine.execNpost a b s
  | .nrmaw a b => Sys2Proof.Machine.execNrmaw a b s
  | .nrmar a b => Sys2Proof.Machine.execNrmar a b s
  | .natom a b cas => Sys2Proof.Machine.execNatom a b cas s
  | .narm a b => Sys2Proof.Machine.execNarm a b s
  | .ndisarm d a => Sys2Proof.Machine.execNdisarm d a s
  | .pegset a b f => Sys2Proof.Machine.execPegset a b f s
  | .pegadd d a b => Sys2Proof.Machine.execPegadd d a b s
  | .pegrd d a f => Sys2Proof.Machine.execPegrd d a f s
  | .nlaunch d a b => Sys2Proof.Machine.execNlaunch d a b s
  | .ngang d a b => Sys2Proof.Machine.execNgang d a b s
  | .nsave d a rel => Sys2Proof.Machine.execNsave d a rel s
  | .nload d a => Sys2Proof.Machine.execNload d a s
  | .nfreeze => Sys2Proof.Machine.execNfreeze s
  | .nthaw => Sys2Proof.Machine.execNthaw s
  | .nmap a b op => Sys2Proof.Machine.execNmap a b op s
  | .nreg d a b k => Sys2Proof.Machine.execNreg d a b k s
  | .nrevoke a b k => Sys2Proof.Machine.execNrevoke a b k s
  | .ncoll a unload => Sys2Proof.Machine.execNcoll a unload s
  | .nrearm a b => Sys2Proof.Machine.execNrearm a b s
  | .nhash a b => Sys2Proof.Machine.execNhash a b s
  | .nsign d a b => Sys2Proof.Machine.execNsign d a b s
  | .nrand d => Sys2Proof.Machine.execNrand d s
  | .nop => Sys2Proof.Machine.execNop s
  | .prep r lit => Sys2Proof.Machine.execPrep r lit s
  | .br r => Sys2Proof.Machine.execBr r s
  | .brT r p => Sys2Proof.Machine.execBrT r p s
  | .brF r p => Sys2Proof.Machine.execBrF r p s
  | .brDnz r x => Sys2Proof.Machine.execBrDnz r x s
  | .brl r => Sys2Proof.Machine.execBrl r s
  | .brlT r p => Sys2Proof.Machine.execBrlT r p s
  | .brlF r p => Sys2Proof.Machine.execBrlF r p s
  | .brlDnz r x => Sys2Proof.Machine.execBrlDnz r x s
  | .checkS r x => Sys2Proof.Machine.execCheckS r x s
  | .checkP r p => Sys2Proof.Machine.execCheckP r p s
  | .checkV r v => Sys2Proof.Machine.execCheckV r v s
  | .checkM r m => Sys2Proof.Machine.execCheckM r m s
  | .endTask => Sys2Proof.Machine.execEndTask s
  | .yield => Sys2Proof.Machine.execYield s
  | .trap n => Sys2Proof.Machine.execTrap n s
  | .align => Sys2Proof.Machine.execAlign s
  | .eret => Sys2Proof.Machine.execEret s
  | .streamDeadlock c => Sys2Proof.Machine.execStreamDeadlock c s
  | .trapDeliver c => Sys2Proof.Machine.execTrapDeliver c s
  | .registerWrite c n v => Sys2Proof.Machine.execRegisterWrite c n v s
  | .fsplitWrite die v => Sys2Proof.Machine.execFsplitWrite die v s
  | .fsplitAdopt die => Sys2Proof.Machine.execFsplitAdopt die s
  | .autoPromotion bank row => Sys2Proof.Machine.execAutoPromotion bank row s
  | .promoteEpoch die => Sys2Proof.Machine.execPromoteEpoch die s
  | .eccError sector consumer => Sys2Proof.Machine.execEccError sector consumer s
  | .ctxSkip c => Sys2Proof.Machine.execCtxSkip c s
  | .ctxAbandon c => Sys2Proof.Machine.execCtxAbandon c s
  | .ctxHold c on => Sys2Proof.Machine.execCtxHold c on s
  | .errqPop c => Sys2Proof.Machine.execErrqPop c s
  | .transferComplete x => Sys2Proof.Machine.execTransferComplete x s
  | .transferFault x => Sys2Proof.Machine.execTransferFault x s
  | .leaveGrant die => Sys2Proof.Machine.execLeaveGrant die s
  | .governorSample die base => Sys2Proof.Machine.execGovernorSample die base s
  | .thermalSample die temp => Sys2Proof.Machine.execThermalSample die temp s
  | .thermalCapStep die => Sys2Proof.Machine.execThermalCapStep die s
  | .quartetJoin q => Sys2Proof.Machine.execQuartetJoin q s
  | .quartetTimeout core => Sys2Proof.Machine.execQuartetTimeout core s
  | .messageArrival m => Sys2Proof.Machine.execMessageArrival m s
  | .pegCopyComplete id => Sys2Proof.Machine.execPegCopyComplete id s
  | .launchTrack => Sys2Proof.Machine.execLaunchTrack s
  | .schedulerAdmit n => Sys2Proof.Machine.execSchedulerAdmit n s
  | .placement n => Sys2Proof.Machine.execPlacement n s
  | .contextStart n => Sys2Proof.Machine.execContextStart n s
  | .taskRetire c => Sys2Proof.Machine.execTaskRetire c s
  | .parkedReturn c => Sys2Proof.Machine.execParkedReturn c s
  | .checkpointReturn n => Sys2Proof.Machine.execCheckpointReturn n s
  | .eventDispatch => Sys2Proof.Machine.execEventDispatch s
  | .threadWatchdog n => Sys2Proof.Machine.execThreadWatchdog n s
  | .remoteRequest r => Sys2Proof.Machine.execRemoteRequest r s
  | .remoteReply id r => Sys2Proof.Machine.execRemoteReply id r s
  | .switchMute id => Sys2Proof.Machine.execSwitchMute id s
  | .hariusBackstop id => Sys2Proof.Machine.execHariusBackstop id s
  | .linkDown peer => Sys2Proof.Machine.execLinkDown peer s
  | .linkTrained link phy far pkg => Sys2Proof.Machine.execLinkTrained link phy far pkg s
  | .leaseExpire line => Sys2Proof.Machine.execLeaseExpire line s
  | .rredRetry id => Sys2Proof.Machine.execRredRetry id s
  | .collectiveChunk k => Sys2Proof.Machine.execCollectiveChunk k s
  | .chunkRetry id => Sys2Proof.Machine.execChunkRetry id s
  | .baseDieStep stack => Sys2Proof.Machine.execBaseDieStep stack s
  | .collProbe g node => Sys2Proof.Machine.execCollProbe g node s
  | .gangMemberLaunch src gang rec asid => Sys2Proof.Machine.execGangMemberLaunch src gang rec asid s
  | .gangAck gang pkg => Sys2Proof.Machine.execGangAck gang pkg s
  | .gangWindowExpire gang => Sys2Proof.Machine.execGangWindowExpire gang s
  | .rmaRequest r => Sys2Proof.Machine.execRmaRequest r s
  | .rmaComplete id r => Sys2Proof.Machine.execRmaComplete id r s
  | .messageAck id => Sys2Proof.Machine.execMessageAck id s
  | .packetNak tc psn why => Sys2Proof.Machine.execPacketNak tc psn why s
  | .retransmitTimeout tc psn => Sys2Proof.Machine.execRetransmitTimeout tc psn s
  | .contextFetch tc => Sys2Proof.Machine.execContextFetch tc s
  | .revokeComplete id => Sys2Proof.Machine.execRevokeComplete id s
  | .pfcPause port prio on => Sys2Proof.Machine.execPfcPause port prio on s
  | .ptpSync t => Sys2Proof.Machine.execPtpSync t s
  | .nvmeCompletion id ok data => Sys2Proof.Machine.execNvmeCompletion id ok data s
  | .phaserEvent e => Sys2Proof.Machine.execPhaserEvent e s
  | .asidFree asid => Sys2Proof.Machine.execAsidFree asid s
  | .packageReset => Sys2Proof.Machine.execPackageReset s
  | .doorbell len => Sys2Proof.Machine.execDoorbell len s
  | .reload v => Sys2Proof.Machine.execReload v s
  | .stage off data last => Sys2Proof.Machine.execStage off data last s
  | .readStatus => Sys2Proof.Machine.execReadStatus s
  | .setCap w => Sys2Proof.Machine.execSetCap w s
  | .readCounters lo n => Sys2Proof.Machine.execReadCounters lo n s
  | .clearCounters lo n => Sys2Proof.Machine.execClearCounters lo n s
  | .readLog start n => Sys2Proof.Machine.execReadLog start n s
  | .mgmtUnknownCommand cmd => Sys2Proof.Machine.execMgmtUnknownCommand cmd s
  | .getVersion => Sys2Proof.Machine.execGetVersion s
  | .getCapabilities => Sys2Proof.Machine.execGetCapabilities s
  | .negotiateAlgorithms => Sys2Proof.Machine.execNegotiateAlgorithms s
  | .getDigests => Sys2Proof.Machine.execGetDigests s
  | .getCertificate slot off len => Sys2Proof.Machine.execGetCertificate slot off len s
  | .challenge slot nonce => Sys2Proof.Machine.execChallenge slot nonce s
  | .getMeasurements idx nonce => Sys2Proof.Machine.execGetMeasurements idx nonce s
  | .spdmUnsupportedRequest code => Sys2Proof.Machine.execSpdmUnsupportedRequest code s
  | .hostMessage m => Sys2Proof.Machine.execHostMessage m s
  | .hostRecordSend => Sys2Proof.Machine.execHostRecordSend s
  | .keyLoad => Sys2Proof.Machine.execKeyLoad s
  | .meas7Extend => Sys2Proof.Machine.execMeas7Extend s
  | .peerTableWrite peer v => Sys2Proof.Machine.execPeerTableWrite peer v s
  | .portTableWrite port => Sys2Proof.Machine.execPortTableWrite port s
  | .errorCounterClear n v => Sys2Proof.Machine.execErrorCounterClear n v s
  | .timeNsReached ns => Sys2Proof.Machine.execTimeNsReached ns s
  | .signatureComplete => Sys2Proof.Machine.execSignatureComplete s
  | .healthTestFailure failing => Sys2Proof.Machine.execHealthTestFailure failing s
  | .driveFailure drive => Sys2Proof.Machine.execDriveFailure drive s
  | .connectionEstablished conn => Sys2Proof.Machine.execConnectionEstablished conn s
  | .connectionFailure conn => Sys2Proof.Machine.execConnectionFailure conn s
  | .portUp port => Sys2Proof.Machine.execPortUp port s
  | .stagingWrite off data => Sys2Proof.Machine.execStagingWrite off data s

end Sys2Proof.Machine
end

