-- ==== Sys2Proof/Machine/Fetch.lean ====
section
/-!
DEFINITION. How a turn runs: a stream passes a word that is not its own (R91, R94, R96, R282), the checks of R32 to R34 before a word
is executed, Harius threads, and what settles after every turn.
-/

namespace Sys2Proof.Machine

/-! What a stream notes of the words it passes -/

/-- The scalar register that an S word writes (R44). -/
def scalarDest : Instr → Option SReg
  | .add _ d _ _ | .sub _ d _ _ | .and _ d _ _ | .or _ d _ _ | .xor _ d _ _ | .andn _ d _ _
  | .shl _ d _ _ | .shrl _ d _ _ | .shra _ d _ _ | .rotr _ d _ _ | .min _ d _ _ | .max _ d _ _
  | .minu _ d _ _ | .maxu _ d _ _ | .clz _ d _ | .ctz _ d _ | .popc _ d _ | .mul _ d _ _
  | .mulh _ d _ _ | .mulhu _ d _ _ | .div _ d _ _ | .divu _ d _ _ | .rem _ d _ _ | .remu _ d _ _
  | .sel _ d _ _ _ | .addi _ d _ | .andi _ d _ | .ori _ d _ | .xori _ d _ | .shli _ d _
  | .shrli _ d _ | .shrai _ d _ | .movi _ d _ | .movw _ d _ | .movhw _ d _ | .fadd _ d _ _
  | .fsub _ d _ _ | .fmul _ d _ _ | .fdiv _ d _ _ | .ffma _ d _ _ | .fmin _ d _ _ | .fmax _ d _ _
  | .fsqrt _ d _ | .fcvtfi _ d _ _ _ _ | .fcvtif _ d _ _ _ _ | .gets _ d _ | .ldg _ d _ _ _ | .ldgw _ d _ _ _
  | .lds _ d _ _ _ | .amo _ d _ _ _ | .amos _ d _ _ _ => some d
  | _ => none

/-- A mask of n registers from d on (R201). -/
def regMask (d : VReg) (n : Nat) : BitVec 40 := BitVec.ofNat 40 (((2 ^ n - 1) <<< d.toNat) % 2 ^ 32)

/-- The vector and mask registers that a V or M word writes (R120): v0 to v31 in bits 0 to 31, m0 to m7 in bits 32 to 39. -/
def vectorDests : Instr → BitVec 40
  | .mtov _ _ d _ | .vadd _ _ d _ _ | .vsub _ _ d _ _ | .vmul _ _ d _ _ | .vfma _ _ d _ _ | .vdiv _ _ d _ _
  | .vmin _ _ d _ _ | .vmax _ _ d _ _ | .vminu _ _ d _ _ | .vmaxu _ _ d _ _ | .vabs _ _ d _ | .vneg _ _ d _
  | .vadds _ _ d _ _ | .vaddsu _ _ d _ _ | .vsubs _ _ d _ _ | .vsubsu _ _ d _ _ | .vmulh _ _ d _ _ | .vmulhu _ _ d _ _
  | .vand _ _ d _ _ | .vor _ _ d _ _ | .vxor _ _ d _ _ | .vandn _ _ d _ _ | .vshl _ _ d _ _ | .vshrl _ _ d _ _
  | .vshra _ _ d _ _ | .vsel _ _ d _ _ | .vrcp _ _ d _ | .vrsq _ _ d _ | .vexp2 _ _ d _ | .vlog2 _ _ d _
  | .vtanh _ _ d _ | .vsqrt _ _ d _ | .vredadd _ _ d _ | .vredmax _ _ d _ | .vredmin _ _ d _ | .vperm _ _ d _ _
  | .vbcast _ _ d _ | .vins _ _ d _ _ | .vext _ _ d _ _ | .vlds _ d _ _ _ | .vgath _ d _ _ _ | .vldg _ d _ _ _
  | .vgathg _ d _ _ _ | .vatom _ _ d _ _ => regMask d 1
  | .vcmpeq _ _ d _ _ | .vcmpne _ _ d _ _ | .vcmplt _ _ d _ _ | .vcmple _ _ d _ _ | .vcmpltu _ _ d _ _ | .vcmpleu _ _ d _ _
  | .vcmpun _ _ d _ _ | .vmlog _ _ d _ _ => BitVec.ofNat 40 (2 ^ (32 + d.toNat))
  | .vcvt _ ty d _ _ _ dir other => regMask d (if dir then cvtGroups other ty.fmt else cvtGroups ty.fmt other).2
  | .vquant _ ty d _ b tensor _ _ other => regMask d (cvtGroups ty.fmt other).2 ||| (if tensor then 0 else regMask b 1)
  | .vdequant _ ty d _ _ _ _ _ other => regMask d (cvtGroups other ty.fmt).2
  | _ => 0

/-- A memory word (R281); those of L and W all are. -/
def memoryWord : Instr → Bool
  | .ldg .. | .ldgw .. | .stg .. | .stgw .. | .lds .. | .sts .. | .amo .. | .amos .. | .promote .. | .demote .. | .rstf .. => true
  | .vlds .. | .vsts .. | .vgath .. | .vldg .. | .vstg .. | .vgathg .. | .vatom .. => true
  | .mmas .. | .mmaq .. | .mmar .. | .mgrp .. | .mnest .. | .mstore .. | .mloadacc .. => true
  | .mma _ _ _ _ _ _ _ g _ => g != .none
  | .copyIn .. | .copytIn .. | .copym .. | .copya .. | .gath .. | .pref .. | .rloadb .. | .stread .. | .netrd .. => true
  | .copyOut .. | .copytOut .. | .scat .. | .copyf .. | .rred .. | .stwrite .. | .netwr .. => true
  | _ => false

/-- A Y word that gates (R283). -/
def gatingWord : Instr → Bool
  | .phwait .. | .phnext .. | .phq .. | .fence .. | .waitw .. | .waitf .. | .waitt .. => true
  | _ => false

/-- The stream that owns a word of an engine on a compute core (R34). -/
def ownerOf : Engine → StreamId
  | .L => .L
  | .M => .M
  | .V => .V
  | .W => .W
  | .Y => .Y
  | _ => .S

/-- A stream has not yet passed a trace position. -/
def Ctx.behind (c : Ctx) (e : StreamId) (q : Nat) : Bool := !(c.stream e).inact && decide ((c.stream e).pos ≤ q)

/-- What stream e keeps of a word of stream o that it passes at its position. -/
def Ctx.note (c : Ctx) (e o : StreamId) (i : Instr) : Ctx :=
  let q := (c.stream e).pos
  let c := match i with
    | .yleave n => c.coverSeen q n.toNat
    | _ => c
  if !c.behind o q then c
  else c.onStream e fun st =>
    { st with
      writes := match o, scalarDest i with
        | .S, some r => st.writes ++ [(q, r)]
        | _, _ => st.writes
      sets := match i with
        | .sets _ _ n => st.sets ++ [(q, n)]
        | _ => st.sets
      gates := if o = .Y ∧ gatingWord i then st.gates ++ [q] else st.gates
      mems := if e = .Y ∧ memoryWord i then st.mems ++ [(q, o)] else st.mems
      vmWrites := if e = .S ∧ vectorDests i ≠ 0 then st.vmWrites ++ [(q, o, vectorDests i)] else st.vmWrites }

/-- Drops what no stream needs any more: notes of words that their owners have passed, and entries that every stream has replayed
(R94). -/
def Ctx.prune (c : Ctx) : Ctx :=
  let keep := fun (st : Stream) =>
    { st with
      writes := st.writes.filter fun w => c.behind .S w.1
      sets := st.sets.filter fun w => c.behind .S w.1
      gates := st.gates.filter fun q => c.behind .Y q
      mems := st.mems.filter fun w => c.behind w.2 w.1
      vmWrites := st.vmWrites.filter fun w => c.behind w.2.1 w.1 }
  { streamOrder.foldl (fun (c : Ctx) e => c.onStream e keep) c with
    fifo := c.fifo.filter fun d => c.lagging.any fun q => decide (q ≤ d.pos) }

/-! The slip window (R92) -/

/-- SLIP_WINDOW's number. -/
def slipNum : SysNum := 0x001

/-- The lowest position of an active stream. -/
def Ctx.lowest (c : Ctx) : Nat := (c.activeStreams.map fun e => (c.stream e).pos).foldl min ((c.activeStreams.map fun e => (c.stream e).pos).foldl max 0)

/-- Whether stream e may pass n positions: STALL 2 beyond the window that it sees, 6 where it cannot yet see it (R40). -/
def Ctx.slipHolds (c : Ctx) (e : StreamId) (n : Nat) : Option (BitVec 4) :=
  let q := (c.stream e).pos
  if q = c.lowest ∨ c.midWord e then none
  else match c.seen e slipNum (BitVec.ofNat 64 c.regs.slip) with
    | .error code => some code
    | .ok w => if q + n - c.lowest ≤ w.toNat then none else some 2

/-! Passing -/

/-- Stream e other than S at an A-word (R91, R94, R121): NOP and PREP it passes; any other once S has, and a decision as S took
it. -/
def Ctx.passControl (c : Ctx) (e : StreamId) (op n : Nat) : Ctx :=
  let st := c.stream e
  if op = 0 ∨ op = 1 then c.onStream e (·.advance n)
  else if c.behind .S st.pos then c.stalled e (if op = 6 ∨ op = 8 then 4 else 13)
  else if op = 5 then c.passEnd e
  else match c.fifo.find? fun d => d.pos == st.pos with
    | some d => if d.taken then c.onStream e fun st => { st with pc := d.target, pos := st.pos + n, stall := 0 } else c.onStream e (·.advance n)
    | none => c.onStream e (·.advance n)

/-- Stream e passes a word of stream o (R34, R91). -/
def Ctx.passWord (c : Ctx) (e o : StreamId) (w lit : Word) (n : Nat) : Ctx :=
  let c := match decodeWord w lit with
    | .ok i => c.note e o i
    | .error _ => c
  c.onStream e (·.advance n)

/-! Executing (R32 to R34) -/

/-- The cause of a word that does not decode. -/
def rejectCause : Reject → Byte
  | .illegalInstruction => causeIllegal
  | .reservedField => causeReserved
  | .tooShort => causeIllegal

/-- The agent in focus reaches its own word, whose literal is known: the checks of R33, then its meaning. -/
def State.runWord (s : State) (w lit : Word) : Outcome :=
  match decodeWord w lit with
  | .error r => .next (s.takeTrap (wordSize w) (wordTrap (rejectCause r) w))
  | .ok i => exec i s

/-- The positions that a stream passes with a word: M takes a nest's template with its MNEST (R92, R237). -/
def passSize (e : StreamId) (w lit : Word) : Nat :=
  match e, decodeWord w lit with
  | .M, .ok (.mnest _ _) => 3
  | _, _ => wordSize w

/-- Stream e of the context in focus at the word it stands at; ERET runs on Harius alone (R50). In a slow turn the vector unit is still taken
by an earlier word, and a register word of V waits for it (R213). -/
def State.atWord (s : State) (e : StreamId) (w lit : Word) : Outcome :=
  let h := Header.unpack w
  let eng := Engine.ofCode h.eng
  let n := wordSize w
  match s.ctx.slipHolds e (passSize e w lit) with
  | some code => .next { s with ctx := s.ctx.stalled e code }
  | none =>
    if ownerOf eng = e then
      if eng = .N then .next (s.takeTrap 1 (wordTrap causeEngine w))
      else if e = .V ∧ s.ctx.slow ∧ (h.op < 0x50 ∨ 0x56 < h.op) then .next { s with ctx := s.ctx.stalled .V 14 }
      else if eng = .A ∧ h.op = 9 then .next (s.takeTrap 1 (wordTrap causeIllegal w)) else s.runWord w lit
    else if eng = .A then .next { s with ctx := s.ctx.passControl e h.op.toNat n }
    else .next { s with ctx := s.ctx.passWord e (ownerOf eng) w lit n }

/-- A stopped context's stream still completes a word that it has issued: one of M or V, or a phaser word of Y that has been sent or has its
answer (R107). -/
def Ctx.finishing (c : Ctx) (e : StreamId) : Bool :=
  c.midWord e || (e == .Y && c.phSent) || (e == .Y && c.phAnswer.isSome && (c.undelivered || !c.regs.trapped))

/-- A stream of a context may take a turn (R107, R361, R381). -/
def Ctx.runs (c : Ctx) (e : StreamId) : Bool :=
  c.place == .resident && !(c.stream e).inact && ((!c.regs.trapped && !c.regs.frozen && !c.regs.hold) || c.finishing e)

/-- The trap that follows a word of the stream once it has executed in full (R102): no later word issues before it, so until then the stream
waits, for replies with STALL 11, for the array with 14. -/
def State.takeLate (s : State) (e : StreamId) (tr : Trap) : State :=
  let c := s.ctx
  if e = .S ∧ !(c.loads.isEmpty && c.banks.isEmpty) then { s with ctx := c.stalled e 11 }
  else if e = .M ∧ !c.jobs.isEmpty then { s with ctx := c.stalled e 14 }
  else s.takeTrap 0 tr

/-- The word in whose middle the stream stands, as it was fetched. -/
def Ctx.midWords (c : Ctx) (e : StreamId) : Option (Word × Word) :=
  if c.midWord e then (c.words.find? (·.1 == e)).map (·.2) else none

/-- Keeps a word in whose middle the turn leaves the stream, so that it is fetched once. -/
def State.keepWord (s : State) (e : StreamId) (x : Word × Word) : State :=
  let rest := s.ctx.words.filter (·.1 != e)
  { s with ctx := { s.ctx with words := if s.ctx.midWord e then (e, x) :: rest else rest } }

/-- A turn of a stream: it fetches the word it stands at (R458) and passes or executes it. -/
def State.turnWord (s : State) (inst : Nat) (e : StreamId) : Outcome :=
  match s.focus inst with
  | none => .next s
  | some t =>
    if !t.ctx.runs e then .next s
    else
      let t : State := { t with agent := .stream e }
      match t.ctx.late.find? (·.1 == e) with
      | some x => .next (t.takeLate e x.2)
      | none =>
        let go := fun (t : State) (x : Word × Word) => match t.atWord e x.1 x.2 with
          | .next u => .next (u.keepWord e x)
          | r => r
        match t.ctx.midWords e with
        | some x => go t x
        | none => match t.codeAt (t.ctx.stream e).pc with
          | (t, .error tr) => .next (if e = .S then t.takeTrap 1 tr else { t with ctx := t.ctx.stalled e 8 })
          | (t, .ok x) => go t x

/-! Harius threads -/

/-- Harius executes S, N, Y and A words; these Y and A opcodes, and CHECK.v and CHECK.m, run on compute cores alone (R32, R36,
R48, R50) (DEDUCED, log 9). -/
def computeOnly (eng : Engine) (op : Nat) (o : Operands) : Bool :=
  match eng with
  | .Y => op == 3 || op == 4 || op == 5 || op == 8 || op == 9 || decide (0x10 ≤ op)
  | .A => op == 6 || op == 8 || (op == 4 && o.cond == 4 && o.imm7.getLsbD 6)
  | _ => false

/-- A thread at its word: an absent engine, an unavailable opcode, a token bit, then the checks of every word (R31 to R33)
(DEDUCED, log 9). -/
def State.threadAt (s : State) (w lit : Word) : Outcome :=
  let h := Header.unpack w
  let eng := Engine.ofCode h.eng
  let stop := fun (cause : Byte) => Host.Outcome.next (s.takeTrap (wordSize w) (wordTrap cause w))
  if eng = .L ∨ eng = .M ∨ eng = .V ∨ eng = .W then stop causeEngine
  else if computeOnly eng h.op.toNat ⟨h.ops⟩ then stop causeIllegal
  else match decodeWord w lit with
    | .error r => stop (rejectCause r)
    | .ok i => if h.tok ≠ 0 then stop causeReserved else exec i s

/-- A thread that the watchdog has ended ends once the word that it had issued has completed (R347). -/
def State.endIfDue (s : State) : State := if s.thr.ending && !s.thr.waits then s.endThread none else s

/-- A turn of a Harius thread. -/
def State.turnThread (s : State) (n : Nat) : Outcome :=
  if s.threadFree n then .next s
  else
    let s : State := { s.focusThread n with agent := .thread }
    match s.codeAt s.thr.pc with
    | (s, .error tr) => .next (s.takeTrap 1 tr)
    | (s, .ok x) => match s.threadAt x.1 x.2 with
      | .next t => .next t.endIfDue
      | r => r

/-! After every turn -/

/-- What R103 watches of a context: positions, counters, what is outstanding, and whether it is stopped. -/
structure Watched where
  pos : List Nat
  tok : Word
  counts : List Nat
  leaves : List LeaveReq
  stops : List Bool
deriving DecidableEq, Repr

/-- What R103 watches of a context. -/
def Ctx.watched (c : Ctx) : Watched :=
  ⟨streamOrder.map fun e => (c.stream e).pos, c.tok, [c.fifo.length, c.xfers.length, c.loads.length, c.banks.length, c.jobs.length, c.issued.length], c.leaves,
    [c.regs.trapped, c.regs.frozen, c.regs.hold]⟩

/-- A context after a turn: pruned, with M's wait for the array reported (R217), and with no stall counted if anything has moved since `old` (R103) (DESIGN CHOICE, log 7). -/
def Ctx.settle (old : Option Ctx) (c : Ctx) : Ctx :=
  let c := c.prune.arrayStall
  match old with
  | some b => if b.watched = c.watched then c else { c with idle := [] }
  | none => { c with idle := [] }

/-- The stream that took the turn is counted as stalled, or not (R103) (DESIGN CHOICE, log 6). -/
def Ctx.countStall (c : Ctx) (e : StreamId) : Ctx :=
  if deadlockStall (c.stream e).stall then { c with idle := if c.idle.contains e then c.idle else e :: c.idle }
  else { c with idle := c.idle.filter (· != e) }

/-- What follows every turn at once: writes of the control area, coverage that has ended, phasers' waiters, parked contexts' waits, and reductions of contexts
that have retired. -/
def State.settleAll (s old : State) (turn : Option (Nat × StreamId)) : State :=
  let s := (s.forward old).pruneCovers
  let s := (((s.serveHeld).fireWaits).sweepOrphans).pauseFrames
  let s : State := { s with ctx := s.ctx.settle (old.findCtx s.ctx.inst), others := s.others.map fun c => c.settle (old.findCtx c.inst) }
  match turn with
  | none => s
  | some (i, e) => s.onCtx i (·.countStall e)

/-- A turn in which V moves one piece of its memory word or waits for the vector unit, or M requests one slice of an MMAR ahead (R178, R213,
R233). -/
def State.turnPiece (s : State) (inst : Nat) (e : StreamId) : Outcome :=
  match (s.onCtx inst fun c => { c with slow := true }).turnWord inst e with
  | .next t => .next (t.onCtx inst fun c => { c with slow := false })
  | r => r

/-- An L1 line leaves a core's L1 (R161) (DEDUCED, log 18). -/
def State.turnEvict (s : State) (core line : Nat) : State := { s with mem := s.mem.l1Evict core line }
/-- A row is activated (R167). -/
def State.turnActivate (s : State) (bank row : Nat) : State := { s with mem := s.mem.activate bank row }
/-- Time passes; NS never falls (R386) (DESIGN CHOICE, log 6). -/
def State.turnTick (s : State) (ns : Nat) : State :=
  { s with pkg := { s.pkg with time := if s.pkg.time.toNat + ns < 2 ^ 64 then s.pkg.time + BitVec.ofNat 64 ns else s.pkg.time } }

/-- The events that are a core's or a Harius thread's own: none of them comes of a package that heat has stopped, which waits for a
reload (R426). The package's other parts (sensors, ports, links, memory, the management port) go on: the rule stops only cores and
threads (DEDUCED, log 39). -/
def needsCores : Instr → Bool
  | .streamDeadlock _ | .trapDeliver _ | .transferComplete _ | .transferFault _ | .quartetJoin _ | .quartetTimeout _ | .placement _
  | .contextStart _ | .taskRetire _ | .parkedReturn _ | .checkpointReturn _ | .eventDispatch | .threadWatchdog _ => true
  | _ => false

/-- A turn. Of a package that heat has stopped, no core and no thread moves (R426). An event is no word: those run only where a
stream or a thread stands at them (DESIGN CHOICE, log 1) (DEDUCED, log 39). -/
def State.turn (s : State) (t : Turn) : Outcome :=
  match t with
  | .word inst e => if s.pkg.stopped then .next s else s.turnWord inst e
  | .piece inst e => if s.pkg.stopped then .next s else s.turnPiece inst e
  | .array inst k => .next (if s.pkg.stopped then s else s.turnArray inst k)
  | .thread n => if s.pkg.stopped then .next s else s.turnThread n
  | .move r => .next (if s.pkg.stopped then s else s.turnMove r)
  | .land r k => .next (if s.pkg.stopped then s else s.turnLand r k)
  | .event i => if i.isWord || (s.pkg.stopped && needsCores i) then .next s else exec i s
  | .deliver d => .next (s.deliver d)
  | .inflow id k => .next (s.turnInflow id k)
  | .send id => .next (s.turnSend id)
  | .evict core line => .next (s.turnEvict core line)
  | .evictCode core line => .next (s.evictCode core line)
  | .evictTlb e => .next (s.evictTlb e)
  | .prefetch inst b => .next (if s.pkg.stopped then s else s.prefetch inst b)
  | .writeBack bank row k => .next { s with mem := s.mem.writeBack bank row k }
  | .activate bank row => .next (s.turnActivate bank row)
  | .tick ns => .next (s.turnTick ns)
  | .hostSlot => .next s.takeHost
  | .hostRead bar2 off n => .next (s.hostRead bar2 off n)
  | .boot => .next s.turnBoot
  | .linkDrop link => .next (s.linkDrop link)
  | .corrected stack => .next (if stack < 12 then s.countErr stack else s)

/-- The stream whose turn it is. -/
def Turn.stream? : Turn → Option (Nat × StreamId)
  | .word i e | .piece i e => some (i, e)
  | _ => none

/-- A turn and what follows it at once (DESIGN CHOICE, log 1). -/
def State.runTurn (s : State) (t : Turn) : Outcome :=
  match s.turn t with
  | .next u => .next (u.settleAll s t.stream?)
  | .fault f => .fault f
  | .refused r => .refused r

/-- The next turn: the oldest that the package owes itself, else any that the spec allows (R8, R98, R104) (DESIGN CHOICE, log 1). -/
def State.nextTurn (s : State) : Turn × State :=
  match s.agenda with
  | t :: rest => (t, { s with agenda := rest })
  | [] => (Config.nextTurn s.fresh, { s with fresh := s.fresh + 1 })

end Sys2Proof.Machine
end

