-- ==== Sys2Proof/Machine/Bench.lean ====
section
/-!
DEFINITION. The word bench (DESIGN CHOICE, log 8): a compute context, or a Harius thread, set up to execute one word or one wide word that is placed
in HBM by hand. It stands for a launch and for the memory manager's work.
-/

namespace Sys2Proof.Machine

/-- The physical offset of the bench's text: stack 0, row 4,096. -/
def benchText : Nat := 0x100000000
/-- The physical offset of the bench's page table of a level. -/
def benchTable (lvl : Nat) : Nat := benchText + 0x10000 + 0x2000 * (4 - lvl)

/-- The entry of a bench table: the next table, or for level 1 the text's page with every permission, A and D set. -/
def benchPte (lvl : Nat) : Nat := 0xFFF * 2 ^ 44 + (if lvl = 1 then benchText + 0x1F3 else benchTable (lvl - 1) + 1)

/-- The bench's code address: virtual on a context, physical on a thread. -/
def benchCode (own : Pkg) (thread : Bool) : Dword := BitVec.ofNat 64 (own.toNat * 2 ^ 44 + if thread then benchText else 0)

/-- Memory of the bench: slot 0 loaded, the words, and a page table that maps the first page of the own package to them
(DESIGN CHOICE, log 8). The instruction caches and TLBs hold nothing. -/
def Memory.bench (m : Memory) (a b : Word) : Memory :=
  let m : Memory := { m with code := [], tlb := [] }
  let m : Memory := if (m.keyOf 0).isSome then m else { m with keys := (0, m.nextBootKey) :: m.keys }
  let va := m.own.toNat * 2 ^ 44
  let m := [1, 2, 3, 4].foldl (fun (m : Memory) lvl =>
    m.hbmWrite (m.key 0) (benchTable lvl + 8 * natField va (10 * lvl + 6) 10) (natBytes 8 (benchPte lvl)) false) m
  m.hbmWrite (m.key 0) benchText (natBytes 8 (a.toNat + b.toNat * 2 ^ 32)) false

/-- The bench's context: core 0, slot 0, ASID 1, every register and tile, the whole scratchpad but the save area (DESIGN CHOICE, log 8). -/
def benchCtx (inst : Nat) (own : Pkg) : Ctx :=
  let code := benchCode own false
  { Ctx.absent with
    inst := inst
    place := .resident
    asid := 1
    code := code
    demand := 32
    tiles := 96
    scrBytes := 2076672
    sf := ScalarFile.start code
    streams := ⟨.start code, .start code, .start code, .start code, .start code, .start code⟩
    regs := { CtxRegs.zero with
      slip := 4096
      tokCeil := 0xFFFFFFFF
      domain := 4
      lfsr := 1
      mpref := 4
      root := BitVec.ofNat 43 (benchTable 4 / 8192) } }

/-- Whose word the bench runs: a thread's for the N words and ERET, else its owner's. -/
def benchStream (w : Word) : Option StreamId :=
  let h := Header.unpack w
  match Engine.ofCode h.eng with
  | .N => none
  | .A => if h.op = 9 then none else some .S
  | e => some (ownerOf e)

/-- Sets up the bench; a context in focus steps aside (DESIGN CHOICE, log 8). -/
def State.bench (s : State) (a b : Word) : State :=
  let m := s.mem.bench a b
  match benchStream a with
  | none =>
    let s := s.focusThread 0
    let pc := benchCode s.mem.own true
    { s with
      mem := m
      thr := { Thread.idle 0 with running := true, sf := ScalarFile.start pc, pc := pc, entry := pc, asid := 1 }
      agenda := [.thread 0] }
  | some e =>
    let n := s.har.nextInst
    { s with
      mem := m
      har := { s.har with nextInst := n + 1 }
      ctx := benchCtx n s.mem.own
      others := if s.ctx.inst = 0 then s.others else s.ctx :: s.others
      agenda := [.word n e] }

end Sys2Proof.Machine
end

