-- ==== Sys2Proof/Machine/Step.lean ====
section
/-!
DEFINITION. One step of the package, and the word bench that `withFetchWord` sets up.
-/

namespace Sys2Proof.Machine

/-- One step: one turn (R8, R98, R104) and what follows it at once. -/
def step (s : State) : Host.Outcome State Fault Refusal :=
  match s.nextTurn with
  | (t, s) => s.runTurn t

/-- `s` about to execute the word or words of `w` (DESIGN CHOICE, log 8): the words stand in HBM at the address that a fresh compute context fetches
from, or a Harius thread where the first word is of N or is ERET, and the owner of the first word has the next turn. -/
def State.withFetchWord (s : State) (nbits w : Nat) : State :=
  let x := tableWords (w % 2 ^ nbits)
  s.bench x.1 x.2

end Sys2Proof.Machine
end

