-- ==== Sys2Proof/Safety.lean ====
section
/-!
DEFINITION. What claims say of a run: a step that does not stop, and the form of memory that every step keeps.
-/

namespace Sys2Proof.Machine

/-- The step goes on: no fault and no refusal. -/
def goesOn : Outcome → Bool
  | .next _ => true
  | .fault _ | .refused _ => false

/-- A split that R164 allows: a multiple of 16, at most 4,096. -/
def splitOk (n : Nat) : Bool := n % 16 == 0 && decide (n ≤ 4096)

/-- The split in force at a die, and the one being adopted, are splits that R164 allows. -/
def Die.legal (d : Die) : Bool := splitOk d.slots && splitOk d.newSlots

/-- Every die's splits are legal. -/
def Memory.diesLegal (m : Memory) : Bool := m.dies.toList.all Die.legal

/-- A safe state: memory in its canonical form, and legal splits. -/
def State.safe (s : State) : Bool := s.mem.wf && s.mem.diesLegal

/-! When a word starts, and what completing it does -/

/-- The context in focus is replaced. -/
def State.setCtx (s : State) (c : Ctx) : State := { s with ctx := c }


/-- Stream e has the turn and no word of it stands issued; its word pops no counter that is zero (R100), and none of its pushes is at its
ceiling (R102). -/
def State.issues (s : State) (e : StreamId) (t : Tok) : Prop :=
  s.agent = .stream e ∧ popReady s.ctx.tok e t = true ∧ (s.ctx.checkPush e t).2 = none ∧ s.ctx.issued.all (·.e != e) = true

/-- A Harius thread has the turn, or stream S of a context as in `issues`. -/
def State.starts (s : State) (t : Tok) : Prop := s.agent = .thread ∨ s.issues .S t

/-- The state after stream e completes a word of n positions, pops and pushes applied. -/
def State.passed (s : State) (e : StreamId) (t : Tok) (n : Nat) : State := { s with ctx := s.ctx.complete e t t false n }

/-- The same with the pushes left for later (R101). -/
def State.issued (s : State) (e : StreamId) (t : Tok) (n : Nat) : State := { s with ctx := s.ctx.complete e t t true n }

/-- The state after the agent in focus completes an S word. -/
def State.after (s : State) (t : Tok) (n : Nat) : State :=
  match s.agent with
  | .thread => { s with thr := s.thr.advance n }
  | .stream _ => s.passed .S t n

/-- No gating Y word holds the agent's memory words (R282). -/
def State.notGated (s : State) : Prop :=
  match s.agent with
  | .thread => True
  | .stream e => s.ctx.gated e = false

/-- S may write the register: no load of it is outstanding (R127), and a version is free (R97). -/
def State.dstReady (s : State) (d : SReg) : Prop :=
  match s.agent with
  | .thread => True
  | .stream _ => s.ctx.pending d = false ∧ s.ctx.versionsFull d = false

/-- The byte at a physical offset as a core sees it under a key: its L1's where valid, else the die cache's. -/
def Memory.sees (m : Memory) (core key a : Nat) : Byte :=
  match m.l1Find core (a / 64) with
  | some x => if x.valid.getLsbD (a % 64) then elem 8 x.data (a % 64) else m.hbmByte key a
  | none => m.hbmByte key a

/-! Transfers -/

/-- The checks of R250 find nothing. -/
def State.planClear (s : State) (p : Plan) : Prop :=
  p.poison = none ∧ p.reserved = false ∧ firstTrap (p.access ++ p.align ++ p.bound) = none ∧
    ∀ r, p.xfer.rel = some r → relBad r = false ∧
      (if p.xfer.kind = .copyf then relFlag r = true else s.flagAccess (some r) = none) ∧
      flagAlign (if p.xfer.kind = .copyf then .atomic else .store) (some r) = none

/-- The object of the release: none, a flag that translates, or a phaser of the scope in DOMAIN (R249, R272). -/
def State.resolves (s : State) (e : StreamId) (x : Xfer) (u : State) (y : Xfer) : Prop :=
  match x.rel with
  | none => u = s ∧ y = x
  | some r =>
    if relFlag r then
      y = x ∧ ∃ p, s.xferPhys (relAddr r) (if x.kind = .copyf then .atomic else .store) (x.kind == .copyf) = (u, .ok p)
    else ∃ d, s.domainSeen e = .ok d ∧ u = s ∧ y = { x with name := some (s.relName d r) }

/-- A transfer of more than 1 MiB has its leave (R251): its own grant. -/
def State.leaveFor (s : State) (e : StreamId) (x : Xfer) : Prop :=
  x.kind = .copya ∨ (if x.kind = .copym then x.bytes * (x.targets s.ctx.core).length else x.bytes) ≤ 1048576 ∨
    ∃ r, s.ctx.leaves.find? (·.e == e) = some r ∧ r.granted = true

/-- A channel's account of its IDs: those that have completed out of order lie above the one after MARK, each once (R246). -/
def Channel.tidy (h : Channel) : Prop := h.above.Nodup ∧ ∀ i ∈ h.above, h.mark + 1 < i

/-- Registers that can be read now, all clean. -/
def State.reads (s : State) (rs : List SReg) (vs : List Dword) : Prop := s.readAll rs = .ok (vs.map fun v => ⟨v, false⟩)

/-! Y words -/

/-- A Harius thread has the turn, or stream Y of a context as in `issues`. -/
def State.startsY (s : State) : Prop := s.agent = .thread ∨ s.issues .Y Tok.none

/-- The state after the agent in focus completes a Y word. -/
def State.afterY (s : State) : State :=
  match s.agent with
  | .thread => { s with thr := s.thr.advance 1 }
  | .stream _ => s.passed .Y Tok.none 1

/-- The word's handle names a phaser of this package. -/
def State.namesHere (s : State) (m : Scope3) (h : Dword) (n : PhaserName) : Prop :=
  (∃ k, s.wordScope m = .ok k ∧ s.phaserName k h = .ok n) ∧ s.homeOf n = s.mem.own

/-- The word's handle names a phaser of another package. -/
def State.namesAway (s : State) (m : Scope3) (h : Dword) (n : PhaserName) : Prop :=
  (∃ k, s.wordScope m = .ok k ∧ s.phaserName k h = .ok n) ∧ s.homeOf n ≠ s.mem.own

/-- The party in focus waits for an answer that is still to come. -/
def State.awaits (s : State) : Bool := s.net.wires.any fun w => !w.muted && match w.origin with
  | .phaser who _ th _ => who == s.whoWaits && th == s.isThread
  | _ => false

/-- The party may send a word to the phaser's home, and has no answer from it (R273). -/
def State.mayAsk (s : State) (n : PhaserName) : Prop :=
  s.answer = none ∧ s.awaits = false ∧ s.mem.silent s.pkg (s.homeOf n) = false ∧ s.pkg.linked = true

/-- The state after the party has sent its word there, for whose answer it waits with STALL 10. -/
def State.asks (s : State) (n : PhaserName) (ev : PhaserEv) : State :=
  let u := (s.sendPhaser s.whoWaits s.isThread s.asid n s.me ev).noteSent ev
  match s.agent with
  | .thread => { u with thr := { u.thr with waits := true } }
  | .stream _ => u.setCtx (u.ctx.stalled .Y 10)

/-- The home has answered r, or the party's own Harius has with a mute reply, the home being silent or no link up (R326, R412). -/
def State.told (s : State) (n : PhaserName) (u : State) (r : Reply) : Prop :=
  (s.answer = some r ∧ u = s.clearAnswer) ∨ (s.answer = none ∧ s.awaits = false ∧ u = s.countMute (s.homeOf n) ∧
    ((s.mem.silent s.pkg (s.homeOf n) = true ∧ r = .mute 3) ∨
      (s.mem.silent s.pkg (s.homeOf n) = false ∧ s.pkg.linked = false ∧ r = .mute 2)))

/-- The phasers that this package holds are replaced. -/
def State.withPhasers (s : State) (l : List Phaser) : State := { s with har := { s.har with phasers := l } }

/-- Whoever drains has drained at a scope (R281, R448). -/
def State.drainsAt (s : State) (k : Scope3) : Prop := (if s.isThread then s.threadDrained else s.drained (k == 5)) = true

/-- The same at the scope of a phaser. -/
def State.ready (s : State) (n : PhaserName) : Prop := s.drainsAt n.scope

/-! Branches -/

/-- The context in focus once S has taken a branch through register r: a stream still behind it finds the decision, and S stands at
the target or behind the word (R94, R118, R119). -/
def Ctx.branched (c : Ctx) (r : BReg) (link taken : Bool) : Ctx :=
  let pc := c.streams.s.pc
  let dest := c.sf.getB r
  let c := if c.lagging.isEmpty then c else { c with fifo := c.fifo ++ ([⟨c.streams.s.pos, taken, dest⟩] : List Decision) }
  let c : Ctx := { c with sf := if link && taken then c.sf.setB 7 (pc + 4) else c.sf }
  c.onStream .S fun st => { st with pc := if taken then dest else pc + 4, pos := st.pos + 1, stall := 0 }

/-- A thread once it has taken a branch through register r. -/
def Thread.branched (t : Thread) (r : BReg) (link taken : Bool) : Thread :=
  { t with sf := if link && taken then t.sf.setB 7 (t.pc + 4) else t.sf, pc := if taken then t.sf.getB r else t.pc + 4 }

/-! Words that have issued -/

/-- A stream's word has issued and runs at its program counter, its pushes checked as `r` tells, with no trap to follow. -/
def State.running (s : State) (e : StreamId) (r : Issued) : Prop :=
  s.agent = .stream e ∧ s.ctx.issued.find? (fun x => x.e == e && x.runs) = some r ∧ r.late = none

/-- It goes on holding with a STALL. -/
def State.holding (s : State) (e : StreamId) (r : Issued) (code : BitVec 4) : State :=
  s.setCtx (({ s.ctx with issued := s.ctx.issued.filter (·.e != e) ++ [⟨e, r.push, none, true⟩] } : Ctx).stalled e code)

/-- It completes: its pops were made as it issued, its pushes are applied now. -/
def State.finished (s : State) (e : StreamId) (r : Issued) (n : Nat) : State := { s with ctx := s.ctx.complete e Tok.none r.push false n }

/-! Products (08) -/

/-- The byte of a scratchpad operand at offset `off` of line l's slice sl (R222). -/
def MOperand.byteAt (o : MOperand) (m : Memory) (at_ : ScrBase) (l sl off : Nat) : Byte :=
  let u := o.base + sl * o.tp + l * 64 * o.rp + off
  let row := u / 64 % 32
  cellRead m.scr (scrAt at_.core (at_.base + (u - row * 64 + (row + l * [0, 1, 2, 4, 8, 16, 3, 5].getD o.code 0) % 32 * 64)))

/-- The code of its element k of line l (R66). -/
def MOperand.codeAt (o : MOperand) (m : Memory) (at_ : ScrBase) (ty : MTy) (l k : Nat) : Nat :=
  natField (leNat ((upTo (ty.lineBytes 64)).map (o.byteAt m at_ l (k / 64)))) (ty.packBits * (k % 64)) ty.packBits

/-- The code of element k of line l of an operand in registers from v on (R220). -/
def Ctx.codeAt (c : Ctx) (ty : MTy) (v : VReg) (l k : Nat) : Nat :=
  ((c.getV (v + BitVec.ofNat 5 (k / ty.perReg))).elem ty.fmt.regBits (64 * (k % ty.perReg) + l)).code

/-- A scale of a block: an E8M0 byte under B48, else an fp32 code (R69). -/
def Memory.scaleAt (m : Memory) (at_ : ScrBase) (g : Gran) (off : Nat) : Val :=
  if g = .b48 then scaleByte (cellRead m.scr (scrAt at_.core (at_.base + off))).toNat
  else FFmt.fp32.val (leNat ((upTo 4).map fun i => cellRead m.scr (scrAt at_.core (at_.base + off) + i)))

/-- A value under the scale that applies to it, if there is one. -/
def underScale (v : Val) : Option Val → Val
  | none => v
  | some s => v.scaled s

/-- Element k of A-line l: its code (R220, R221). -/
def Product.codeA (w : Product) (m : Memory) (c : Ctx) (h : Shift) (l k : Nat) : Nat :=
  match w.fam with
  | .mma a _ => c.codeAt w.ty a l k
  | _ => ((w.pairA h).getD ⟨0, 0, 0, 0⟩).codeAt m c.scrBaseOf w.ty l k

/-- Its value under its scale (R69, R224). -/
def Product.valA (w : Product) (m : Memory) (c : Ctx) (h : Shift) (l k : Nat) : Val :=
  underScale (w.ty.fmt.float.val (w.codeA m c h l k)) ((w.scale h).map fun x => m.scaleAt c.scrBaseOf x.g (x.a + match x.g with
    | .b48 => l * x.count + k / 48
    | .row => 4 * l
    | _ => 0))

/-- Element k of B-line l of operand g: its code. -/
def Product.codeB (w : Product) (m : Memory) (c : Ctx) (h : Shift) (g l k : Nat) : Nat :=
  match w.fam with
  | .mma _ b => c.codeAt w.ty b l k
  | _ =>
    let o := (w.pairB h).getD ⟨0, 0, 0, 0⟩
    ({ o with base := o.base + g * w.gpitch } : MOperand).codeAt m c.scrBaseOf w.ty l k

/-- Its value under its scale. -/
def Product.valB (w : Product) (m : Memory) (c : Ctx) (h : Shift) (g l k : Nat) : Val :=
  underScale (w.ty.fmt.float.val (w.codeB m c h g l k)) ((w.scale h).map fun x => m.scaleAt c.scrBaseOf x.g (x.b + match x.g with
    | .b48 => (g * x.lines + l) * x.count + k / 48
    | .row => 4 * (g * x.lines + l)
    | _ => 4 * g))

/-- An accumulator element after k-steps of a list, from the codes and values of their A and B elements (R82, R83). -/
def accumulate (ty : MTy) (acc : Nat) (ks : List Nat) (codeA codeB : Nat → Nat) (valA valB : Nat → Val) : Nat :=
  if ty.isInt then dotInt acc (ks.map fun k => (intVal ty.packBits true (codeA k), intVal ty.packBits true (codeB k)))
  else (dotFloat ty.group acc (ks.map fun k => (valA k, valB k))).1

/-! N words -/

/-- A thread has the turn and its operands are clean. -/
def State.operands (s : State) (rs : List SReg) (vs : List Dword) : Prop := s.agent = .thread ∧ s.reads rs vs

/-- A range at an aligned physical address of this package. -/
def State.place (s : State) (a : Dword) (n align : Nat) (p : Phys) : Prop := a.toNat % align = 0 ∧ s.physRange a n = .ok p

/-- The same, whose bytes are clean and make x. -/
def State.record (s : State) (a : Dword) (n align : Nat) (p : Phys) (x : Nat) : Prop :=
  s.place a n align p ∧ anyPoison (s.physRead p n) = false ∧ valueOf (s.physRead p n) = x

/-- Harius has reached a range: the leases of its lines end (R172). -/
def State.touched (s : State) (p : Phys) (n : Nat) : State := { s with mem := s.mem.endLeases p.off n }

/-- The thread in focus completes its word. -/
def State.afterN (s : State) : State := { s with thr := s.thr.advance 1 }

/-- The thread in focus writes a clean value and completes its word. -/
def State.wroteN (s : State) (d : SReg) (v : Dword) : State := (s.writeS d ⟨v, false⟩).afterN

/-! Events -/

/-- Context i becomes d; every other context, and everything that is no context, stays. -/
def State.onlyCtx (s t : State) (i : Nat) (d : Ctx) : Prop :=
  t.findCtx i = some d ∧ (∀ j, j ≠ i → t.findCtx j = s.findCtx j) ∧ { t with ctx := s.ctx, others := s.others } = s

/-- The memory is replaced. -/
def State.setMem (s : State) (m : Memory) : State := { s with mem := m }

/-- Task i is u. -/
def State.hasTask (s : State) (i : Nat) (u : Task) : Prop := s.har.tasks.find? (fun t => t.inst == i) = some u

end Sys2Proof.Machine
end

