-- ==== Sys2Proof/Certificates/Slice0/Obligations.lean ====
section
/-!
DEFINITION. The statements about the Flaern F4 model that the provers are asked to prove. Equations give the whole next state, so
each is its own frame: what the right side does not name is unchanged.
-/

set_option linter.unusedVariables false

open Sys2Proof Sys2Proof.Machine

/-! Words of S and of Harius threads (05, 06) -/

/-- R128, R130 to R134: an integer word writes its result of the values of its sources, poisoned if a source is, and nothing else
but its tokens and its place. MIN and MAX are signed; high products are bits [127:64] of the 128-bit product; division truncates
toward zero, and a zero divisor gives all ones as quotient and the dividend as remainder. -/
def Obligations.IntegerWordsWriteTheirResult : Prop :=
  ∀ p ∈ ([(.add, fun x y => x + y), (.sub, fun x y => x - y), (.and, fun x y => x &&& y), (.or, fun x y => x ||| y),
      (.xor, fun x y => x ^^^ y), (.andn, fun x y => x &&& ~~~y), (.shl, fun x y => x <<< (y.toNat % 64)),
      (.shrl, fun x y => x >>> (y.toNat % 64)), (.shra, fun x y => x.sshiftRight (y.toNat % 64)),
      (.rotr, fun x y => x.rotateRight (y.toNat % 64)), (.min, fun x y => if x.toInt < y.toInt then x else y),
      (.max, fun x y => if x.toInt < y.toInt then y else x), (.minu, fun x y => if x.toNat < y.toNat then x else y),
      (.maxu, fun x y => if x.toNat < y.toNat then y else x), (.mul, fun x y => x * y),
      (.mulh, fun x y => (x.signExtend 128 * y.signExtend 128).extractLsb' 64 64),
      (.mulhu, fun x y => (x.setWidth 128 * y.setWidth 128).extractLsb' 64 64),
      (.div, fun x y => if y = 0 then BitVec.allOnes 64 else x.sdiv y), (.divu, fun x y => if y = 0 then BitVec.allOnes 64 else x.udiv y),
      (.rem, fun x y => if y = 0 then x else x.srem y), (.remu, fun x y => if y = 0 then x else x.umod y)] :
      List ((Tok → SReg → SReg → SReg → Instr) × (Dword → Dword → Dword))),
  ∀ (t : Tok) (d a b : SReg) (s : State), s.starts t → s.sWaits [a, b] = false → s.dstReady d →
    exec (p.1 t d a b) s = .next ((s.writeS d ⟨p.2 (s.sf.getS a).v (s.sf.getS b).v, (s.sf.getS a).p || (s.sf.getS b).p⟩).after t 1)

/-- R132, R135 to R137: counts, select, immediates and constants. SEL takes the poison of the register it selects and of its
predicate; a constant is clean. -/
def Obligations.CountsSelectAndImmediates : Prop :=
  ∀ (t : Tok) (d a b : SReg) (q : PReg) (s : State), s.starts t → s.dstReady d →
    (∀ p ∈ ([(.clz, fun x => BitVec.ofNat 64 (clzNat 64 x.toNat)), (.ctz, fun x => BitVec.ofNat 64 (ctzNat 64 x.toNat)),
        (.popc, fun x => BitVec.ofNat 64 (popcNat 64 x.toNat))] : List ((Tok → SReg → SReg → Instr) × (Dword → Dword))),
      s.sWaits [a] = false → exec (p.1 t d a) s = .next ((s.writeS d ⟨p.2 (s.sf.getS a).v, (s.sf.getS a).p⟩).after t 1)) ∧
    (s.sWaits [a, b] = false → exec (.sel t d a b q) s = .next
      ((s.writeS d (if (s.sf.getP q).v then ⟨(s.sf.getS a).v, (s.sf.getS a).p || (s.sf.getP q).p⟩
        else ⟨(s.sf.getS b).v, (s.sf.getS b).p || (s.sf.getP q).p⟩)).after t 1)) ∧
    (∀ i : BitVec 13, ∀ p ∈ ([(.addi, fun x => x + i.signExtend 64), (.andi, fun x => x &&& i.signExtend 64),
        (.ori, fun x => x ||| i.setWidth 64), (.xori, fun x => x ^^^ i.setWidth 64)] : List ((Tok → SReg → BitVec 13 → Instr) × (Dword → Dword))),
      s.sWaits [d] = false → exec (p.1 t d i) s = .next ((s.writeS d ⟨p.2 (s.sf.getS d).v, (s.sf.getS d).p⟩).after t 1)) ∧
    (∀ c : BitVec 6, ∀ p ∈ ([(.shli, fun x => x <<< c.toNat), (.shrli, fun x => x >>> c.toNat), (.shrai, fun x => x.sshiftRight c.toNat)] :
        List ((Tok → SReg → BitVec 6 → Instr) × (Dword → Dword))),
      s.sWaits [d] = false → exec (p.1 t d c) s = .next ((s.writeS d ⟨p.2 (s.sf.getS d).v, (s.sf.getS d).p⟩).after t 1)) ∧
    (∀ i : BitVec 13, exec (.movi t d i) s = .next ((s.writeS d ⟨i.signExtend 64, false⟩).after t 1)) ∧
    (∀ lit : Word, exec (.movw t d lit) s = .next ((s.writeS d ⟨lit.signExtend 64, false⟩).after t 2)) ∧
    (∀ lit : Word, s.sWaits [d] = false →
      exec (.movhw t d lit) s = .next ((s.writeS d ⟨lit ++ (s.sf.getS d).v.extractLsb' 0 32, (s.sf.getS d).p⟩).after t 2))

/-- R138, R139: compares and predicate words write one predicate, poisoned if a source is. -/
def Obligations.ComparesAndPredicateWords : Prop :=
  ∀ (t : Tok) (d q r : PReg) (a b : SReg) (s : State), s.starts t →
    (∀ p ∈ ([(.cmpeq, fun x y => decide (x = y)), (.cmpne, fun x y => decide (x ≠ y)), (.cmplt, fun x y => decide (x.toInt < y.toInt)),
        (.cmple, fun x y => decide (x.toInt ≤ y.toInt)), (.cmpltu, fun x y => decide (x.toNat < y.toNat)),
        (.cmpleu, fun x y => decide (x.toNat ≤ y.toNat))] : List ((Tok → PReg → SReg → SReg → Instr) × (Dword → Dword → Bool))),
      s.sWaits [a, b] = false →
      exec (p.1 t d a b) s = .next ((s.writeP d ⟨p.2 (s.sf.getS a).v (s.sf.getS b).v, (s.sf.getS a).p || (s.sf.getS b).p⟩).after t 1)) ∧
    (∀ p ∈ ([(.pand, fun x y => x && y), (.por, fun x y => x || y), (.pxor, fun x y => x ^^ y), (.pandn, fun x y => x && !y)] :
        List ((Tok → PReg → PReg → PReg → Instr) × (Bool → Bool → Bool))),
      exec (p.1 t d q r) s = .next ((s.writeP d ⟨p.2 (s.sf.getP q).v (s.sf.getP r).v, (s.sf.getP q).p || (s.sf.getP r).p⟩).after t 1))

/-- R140 to R145: an fp32 word reads bits [31:0] of its sources, writes its code with zeros above, and raises the flags of the result
unless it is poisoned (R79). -/
def Obligations.Fp32WordsWriteResultAndFlags : Prop :=
  ∀ (t : Tok) (d a b : SReg) (q : PReg) (s : State), s.starts t →
    let x := (s.sf.getS a).v.toNat % 2 ^ 32
    let y := (s.sf.getS b).v.toNat % 2 ^ 32
    let z := (s.sf.getS d).v.toNat % 2 ^ 32
    let pa := (s.sf.getS a).p
    let pb := (s.sf.getS b).p
    let done := fun (v : Dword) (p : Bool) (f : Flags) => (((s.writeS d ⟨v, p⟩).raiseFlags (if p then 0 else f)).after t 1)
    let code := fun (n : Nat) => BitVec.ofNat 64 (n % 2 ^ 32)
    (∀ p ∈ ([(.fadd, fpAdd .fp32), (.fsub, fpSub .fp32), (.fmul, fpMul .fp32), (.fdiv, fpDiv .fp32), (.fmin, fpMinMax .fp32 false),
        (.fmax, fpMinMax .fp32 true)] : List ((Tok → SReg → SReg → SReg → Instr) × (Nat → Nat → Nat × Flags))),
      s.dstReady d → s.sWaits [a, b] = false → exec (p.1 t d a b) s = .next (done (code (p.2 x y).1) (pa || pb) (p.2 x y).2)) ∧
    (s.dstReady d → s.sWaits [a, b, d] = false → exec (.ffma t d a b) s = .next
      (done (code (fpFma .fp32 x y z).1) (pa || pb || (s.sf.getS d).p) (fpFma .fp32 x y z).2)) ∧
    (s.dstReady d → s.sWaits [a] = false → exec (.fsqrt t d a) s = .next (done (code (fpSqrt .fp32 x).1) pa (fpSqrt .fp32 x).2)) ∧
    (∀ p ∈ ([(.fcmpeq, .eq), (.fcmplt, .lt), (.fcmple, .le)] : List ((Tok → PReg → SReg → SReg → Instr) × FRel)),
      s.sWaits [a, b] = false → exec (p.1 t q a b) s = .next
        (((s.writeP q ⟨(fpCmp .fp32 p.2 x y).1, pa || pb⟩).raiseFlags (if pa || pb then 0 else (fpCmp .fp32 p.2 x y).2)).after t 1)) ∧
    (∀ (w rm), s.dstReady d → s.sWaits [a] = false →
      exec (.fcvtfi t d a true w rm) s = .next
        (done ((BitVec.ofNat 32 (toInt 32 true rm (!w) 0 (FFmt.fp32.val x)).1).signExtend 64) pa (toInt 32 true rm (!w) 0 (FFmt.fp32.val x)).2) ∧
      exec (.fcvtfi t d a false w rm) s = .next
        (done (BitVec.ofNat 64 (toInt 64 true rm (!w) 0 (FFmt.fp32.val x)).1) pa (toInt 64 true rm (!w) 0 (FFmt.fp32.val x)).2)) ∧
    (∀ (w32 uns rm), s.dstReady d → s.sWaits [a] = false →
      let n := if w32 then 32 else 64
      let o := roundTo .fp32 rm false 0 (Val.ofInt (intVal n (!uns) ((s.sf.getS a).v.toNat % 2 ^ n)))
      exec (.fcvtif t d a w32 uns rm) s = .next (done (code o.1) pa o.2))

/-- R146, R39, R41: GETS reads and SETS writes a register that the agent may access; on S the registers of its own context, on a
thread those of the context that TARGET names and those of the package. On S, IEEE_FLAGS waits for the earlier loads. R42, R78, R93,
R234, R320, R361: what a GETS reads from each register, and what a SETS leaves in each: fields that are RW take the value, clamped where
the rule clamps; RW1C bits clear; POP drops the head; reserved fields stay zero. Streams behind S keep the older value of SLIP_WINDOW,
DOMAIN and M_PREFETCH, and V that of LFSR_SEED; a word of M or Y under way goes on with what it has seen of a register that a thread writes.
A write of CTX_STATE abandons with bit 5, moves the failing stream on with bit 6, and lets suspended transfers run again where nothing
stops the context. The model's choices: what FSPLIT reads as NEW_SLOTS while BUSY (log 46, 52), and that a thread's write stands also for
streams that have yet to pass an earlier SETS (log 61). -/
def Obligations.SystemRegisterWords : Prop :=
  ∀ (t : Tok) (d : SReg) (n : SysNum) (s : State), assigned n = true → (s.agent ≠ .thread → n = 0x006 → s.ctx.loads = []) →
    (s.issues .S t → n.toNat < 0x100 → s.dstReady d →
      exec (.gets t d n) s = .next ((s.writeS d ⟨(s.ctx.reg s.pkg.time n).getD 0, false⟩).passed .S t 1)) ∧
    (s.agent = .thread → n.toNat < 0x200 → ∀ c, s.target = some c →
      exec (.gets t d n) s = .next ((s.writeS d ⟨(c.reg s.pkg.time n).getD 0, false⟩).after t 1)) ∧
    (s.agent = .thread → 0x200 ≤ n.toNat → exec (.gets t d n) s = .next ((s.writeS d ⟨(s.packageReg n).getD 0, false⟩).after t 1)) ∧
    (readOnly n = false → ∀ v : Dword, s.readS d = .ok ⟨v, false⟩ →
      (s.issues .S t → n.toNat < 0x100 → exec (.sets t d n) s = .next (({ s with ctx := s.ctx.setOwn s.pkg.time n v }).passed .S t 1)) ∧
      (s.agent = .thread → n.toNat < 0x200 → ∀ c, s.target = some c → exec (.sets t d n) s = .next ((s.setCtxReg c.inst n v).after t 1)) ∧
      (s.agent = .thread → 0x200 ≤ n.toNat → exec (.sets t d n) s = .next ((s.setPackageReg n v).after t 1))) ∧
    (∀ (c : Ctx) (ns : Dword),
      let r := c.regs
      let mark := fun (w : Bool) (ch : Chan) => BitVec.ofNat 64 (c.chan w ch).mark
      (∀ p ∈ ([(0x000, BitVec.ofNat 64 (c.asid.toNat * 2 ^ 28 + c.ttype.toNat * 2 ^ 16 + c.slot * 2 ^ 11 + c.core / 128 * 2 ^ 9 + c.core)),
        (0x001, BitVec.ofNat 64 r.slip), (0x002, r.tokCeil.setWidth 64), (0x003, r.tokInit.setWidth 64), (0x004, r.domain.setWidth 64),
        (0x005, r.remain.setWidth 64), (0x006, (r.flags &&& 0x3F).setWidth 64),
        (0x007, ((c.lfsrSets.getLast?.map fun x => x.2).getD r.lfsr).setWidth 64), (0x008, BitVec.ofNat 64 r.mpref),
        (0x010, mark false 0), (0x011, mark false 1), (0x012, mark false 2), (0x013, mark false 3), (0x014, mark true 0), (0x015, mark true 1),
        (0x016, mark true 2), (0x017, mark true 3), (0x018, ns),
        (0x020, BitVec.ofNat 64 (r.ovf.toNat * 2 ^ 15 + r.phovr.toNat * 2 ^ 14 + c.errq.length)), (0x021, c.errq.headD 0),
        (0x028, BitVec.ofNat 64 (r.refuse * 2 ^ 48 + r.stallCycles)),
        (0x100, BitVec.ofNat 64 (r.ptok.toNat * 2 ^ 8 + r.drain.toNat * 2 ^ 3 + r.hold.toNat * 2 ^ 2 + r.frozen.toNat * 2 + r.trapped.toNat)),
        (0x101, r.prio.setWidth 64), (0x102, BitVec.ofNat 64 r.exportOk.toNat), (0x103, BitVec.ofNat 64 (r.root.toNat * 2 ^ 13)),
        (0x104, BitVec.ofNat 64 (r.trapAddr.toNat * 2 ^ 8 + r.trapEn.toNat))] : List (SysNum × Dword)), c.reg ns p.1 = some p.2) ∧
      ∀ v : Dword,
      let kept := fun (n : SysNum) (old : Dword) => (c.sysHist ++ ([(c.streams.s.pos, n, old)] : List (Nat × SysNum × Dword))).filter fun h =>
        c.lagging.any fun q => decide (q ≤ h.1)
      let seed : Word := if v.extractLsb' 0 32 = 0 then 1 else v.extractLsb' 0 32
      let dom : BitVec 3 := v.extractLsb' 0 3
      (∀ p ∈ ([(0x001, { c with regs := { r with slip := max 64 (min (v.toNat % 2 ^ 17) 65536) }, sysHist := kept 0x001 (BitVec.ofNat 64 r.slip) }),
        (0x004, { c with regs := { r with domain := if dom = 0 ∨ dom = 6 ∨ dom = 7 then r.domain else dom }, sysHist := kept 0x004 (r.domain.setWidth 64) }),
        (0x005, { c with regs := { r with remain := v.extractLsb' 0 48 } }), (0x006, { c with regs := { r with flags := r.flags &&& ~~~(v.extractLsb' 0 8) } }),
        (0x007, if c.streams.v.inact then { c with lfsrSets := [], regs := { r with lfsr := seed } }
          else { c with lfsrSets := c.lfsrSets ++ ([(c.streams.s.pos, seed)] : List (Nat × Word)) }),
        (0x008, { c with regs := { r with mpref := max 1 (min (v.toNat % 2 ^ 5) 16) }, sysHist := kept 0x008 (BitVec.ofNat 64 r.mpref) }),
        (0x020, { c with errq := if v.getLsbD 8 then c.errq.drop 1 else c.errq
                         regs := { r with ovf := r.ovf && !v.getLsbD 15, phovr := r.phovr && !v.getLsbD 14 } })] : List (SysNum × Ctx)),
        c.setOwn ns p.1 v = p.2) ∧
      (c.inst ≠ 0 → s.ctx = c →
        let regs := fun (n : SysNum) (r : CtxRegs) =>
          ({ s with ctx := { c.latch s.pkg.time n with regs := r, sysHist := c.sysHist.filter fun h => h.2.1 != n } } : State)
        (let s1 := if v.getLsbD 6 then s.skipGrant c.inst else s
         let s2 : State := if v.getLsbD 5 then { s1.abandonAll c.inst with agent := s1.agent } else s1
         s.setCtxReg c.inst 0x100 v = s2.onCtx c.inst fun d =>
          let e := ({ d with regs := { d.regs with ptok := v.extractLsb' 8 8, hold := v.getLsbD 2 } } : Ctx).retry
          { (if v.getLsbD 6 then e.skip else e) with sysHist := d.sysHist.filter fun h => h.2.1 != 0x100 }) ∧
        (v.getLsbD 5 = false → v.getLsbD 6 = false → s.setCtxReg c.inst 0x100 v =
          let u := regs 0x100 { r with ptok := v.extractLsb' 8 8, hold := v.getLsbD 2 }
          u.setCtx u.ctx.retry) ∧
        s.abandonAll c.inst = (c.xfers.filter fun x => x.fault.isSome).foldl State.abandonOne s ∧
        (r.trapped = false → c.skip = c) ∧
        (∀ q e, r.trapped = true → c.record = some q → q.eng = some e →
          (q.size = 0 → c.skip = c) ∧
          (q.size ≠ 0 → c.skip.record = some { q with size := 0 } ∧ c.skip.regs = r ∧
            c.skip.stream e = { c.stream e with pc := (c.stream e).pc + BitVec.ofNat 64 (4 * q.size), pos := (c.stream e).pos + q.size, stall := 0 } ∧
            ∀ f, f ≠ e → c.skip.stream f = c.stream f)) ∧
        (∀ n ∈ ([0x004, 0x008, 0x103] : List SysNum), ∀ e ∈ [StreamId.M, StreamId.Y], ∀ w x : Dword, c.underWay e = true →
          c.seen e n ((c.reg s.pkg.time n).getD 0) = .ok w → ((c.latch s.pkg.time n).setReg n v).seen e n x = .ok w) ∧
        ∀ p ∈ ([(0x101, { r with prio := v.extractLsb' 0 2 }), (0x102, { r with exportOk := v.getLsbD 0 }), (0x103, { r with root := v.extractLsb' 13 43 }),
          (0x104, { r with trapAddr := v.extractLsb' 8 48, trapEn := v.getLsbD 0 })] : List (SysNum × CtxRegs)),
          s.setCtxReg c.inst p.1 v = regs p.1 p.2) ∧
      s.packageReg 0x200 = some (s.thr.target.setWidth 64) ∧ s.packageReg 0x201 = some (BitVec.ofNat 64 s.thr.num) ∧
      s.packageReg 0xC02 = some (s.har.gangWindow.setWidth 64) ∧ s.packageReg 0xC03 = some (s.net.switchTimeout.setWidth 64) ∧
      s.setPackageReg 0x200 v = { s with thr := { s.thr with target := v.extractLsb' 0 32 &&& 0x1FFF } } ∧
      s.setPackageReg 0xC02 v = { s with har := { s.har with gangWindow := BitVec.ofNat 32 (max 1000 (v.toNat % 2 ^ 32)) } } ∧
      s.setPackageReg 0xC03 v = { s with net := { s.net with switchTimeout := v.extractLsb' 0 6 }, out := s.out ++ [.switchTimeout (v.extractLsb' 0 6)] } ∧
      ∀ die : Nat, die < 4 →
        let x := s.mem.dieOf (3 * die)
        s.packageReg (BitVec.ofNat 12 (0x800 + 0x100 * die)) =
          some (BitVec.ofNat 64 ((if x.busy then x.newSlots else x.slots) + x.busy.toNat * 2 ^ 31)) ∧
        s.packageReg (BitVec.ofNat 12 (0x801 + 0x100 * die)) = some (x.auto.setWidth 64) ∧
        s.setPackageReg (BitVec.ofNat 12 (0x800 + 0x100 * die)) v = s.setMem (s.mem.writeSplit die v) ∧
        s.setPackageReg (BitVec.ofNat 12 (0x801 + 0x100 * die)) v =
          s.setMem (s.mem.onDie die fun d => { d with auto := v.extractLsb' 0 8 &&& 0xF1 }))

/-- R39, R146: the fates of a number that may not be accessed: RESERVED_FIELD where it is not assigned, ACCESS_VIOLATION with WHY 11 on a
compute context for 0x100 and above, and for a SETS of a read-only register; on a thread with WHY 12 where TARGET names no context.
Then a SETS of a poisoned register is a fret of site 3. -/
def Obligations.SystemRegisterTraps : Prop :=
  (∀ (t : Tok) (d : SReg) (n : SysNum) (s : State), s.agent = .thread →
    (assigned n = false → exec (.gets t d n) s = .next (s.takeTrap 1 (wordTrap 0x03 (Instr.firstWord (.gets t d n)))) ∧
      exec (.sets t d n) s = .next (s.takeTrap 1 (wordTrap 0x03 (Instr.firstWord (.sets t d n))))) ∧
    (assigned n = true → readOnly n = true → exec (.sets t d n) s = .next (s.takeTrap 1 ⟨0x31, 11 * 256, none, none, none⟩)) ∧
    (assigned n = true → n.toNat < 0x200 → s.target = none → exec (.gets t d n) s = .next (s.takeTrap 1 ⟨0x31, 12 * 256, none, none, none⟩) ∧
      ∀ v : Dword, readOnly n = false → s.readS d = .ok ⟨v, false⟩ →
        exec (.sets t d n) s = .next (s.takeTrap 1 ⟨0x31, 12 * 256, none, none, none⟩))) ∧
  (∀ (t : Tok) (d : SReg) (n : SysNum) (s : State) (v : Dword), s.starts t → (s.agent ≠ .thread → n.toNat < 0x100 ∧ (n = 0x006 → s.ctx.loads = [])) →
    assigned n = true → readOnly n = false → s.readS d = .ok ⟨v, true⟩ →
      exec (.sets t d n) s = .next (s.takeTrap 1 (fretTrap 3 d.toNat 0 none))) ∧
  ∀ (t : Tok) (d : SReg) (n : SysNum) (s : State), s.issues .S t →
    (assigned n = false → exec (.gets t d n) s = .next (s.takeTrap 1 (wordTrap 0x03 (Instr.firstWord (.gets t d n)))) ∧
      exec (.sets t d n) s = .next (s.takeTrap 1 (wordTrap 0x03 (Instr.firstWord (.sets t d n))))) ∧
    (assigned n = true → 0x100 ≤ n.toNat →
      exec (.gets t d n) s = .next (s.takeTrap 1 ⟨0x31, 11 * 256, none, none, none⟩) ∧
      exec (.sets t d n) s = .next (s.takeTrap 1 ⟨0x31, 11 * 256, none, none, none⟩)) ∧
    (assigned n = true → readOnly n = true → exec (.sets t d n) s = .next (s.takeTrap 1 ⟨0x31, 11 * 256, none, none, none⟩))

/-- R174, R175, R173: a load of own memory writes the value of the bytes that the checked access reads, and a store stores the low
bytes of its register; each takes its address from sA + sB, or from sA plus its literal. R421, R332: a thread's store of poisoned data to
the host mailbox is a fret. R308, R311, R101, R127: of another package, a load sends a read of its sector and owes its register and its push,
a store sends its bytes, poisoned ones only under EXPORT; a request to a silent package, or from one without a link, is muted at once. -/
def Obligations.GlobalLoadsAndStores : Prop :=
  (∀ (g : Global) (kind : ReqKind) (o : Origin) (s : State),
    let peer := BitVec.ofNat 10 g.phys.pkg
    let id := s.net.nextId
    let sent : State := { s with net := { s.net with
      nextId := id + 1
      wires := s.net.wires ++ ([⟨id, peer, g.va, some kind, o, false, s.usedAsid o, s.pkg.route id⟩] : List Wire) } }
    (s.mem.silent s.pkg peer = true → s.request g kind o = { sent with agenda := s.agenda ++ [.deliver (.mute id 3)] }) ∧
    (s.mem.silent s.pkg peer = false →
      (s.pkg.linked = false → s.request g kind o = { sent with agenda := s.agenda ++ [.deliver (.mute id 2)] }) ∧
      (s.pkg.linked = true → s.request g kind o = { sent with
        out := s.out ++ [.request id ⟨s.mem.own, BitVec.ofNat 56 g.phys.pa, BitVec.ofNat 7 g.phys.slot, kind⟩ peer] }))) ∧
  (∀ (t : Tok) (d a b : SReg) (lit : Word) (s : State) (x y : Dword), s.issues .S t → s.notGated → s.readS a = .ok ⟨x, false⟩ →
    (∀ (m : BitVec 3) (u : State) (g : Global), s.dstReady d → u.remote g = true →
      let n := 2 ^ (m.toNat % 4)
      let q := u.request ⟨g.va, ⟨g.phys.pa / 32 * 32, g.phys.slot⟩⟩ (.read 32) (.sload u.here.1 u.here.2)
      let done := fun k => Host.Outcome.next (φ := Fault) (ρ := Refusal)
        (({ q with ctx := q.ctx.owe u.net.nextId d (some m) t.pf } : State).issued .S t k)
      (s.readS b = .ok ⟨y, false⟩ → s.access (x + y) .load n = (u, .ok g) → exec (.ldg t d a b m) s = done 1) ∧
      (s.access (x + lit.signExtend 64) .load n = (u, .ok g) → exec (.ldgw t d a m lit) s = done 2)) ∧
    (∀ (z : BitVec 2) (v : SVal) (u : State) (g : Global), s.readS d = .ok v → u.remote g = true →
      let n := 2 ^ z.toNat
      let done := fun k => Host.Outcome.next (φ := Fault) (ρ := Refusal) (if v.p && !s.ctx.regs.exportOk then u.takeTrap k (fretTrap 2 d.toNat 0 none)
        else (u.request g (.write (natBytes n v.v.toNat) v.p) (.store u.here.1 u.here.2)).passed .S t k)
      (s.readS b = .ok ⟨y, false⟩ → s.access (x + y) .store n = (u, .ok g) → exec (.stg t d a b z) s = done 1) ∧
      (s.access (x + lit.signExtend 64) .store n = (u, .ok g) → exec (.stgw t d a z lit) s = done 2))) ∧
  ∀ (t : Tok) (d a b : SReg) (lit : Word) (s : State) (x y : Dword), s.starts t → s.notGated → s.readS a = .ok ⟨x, false⟩ →
    (∀ (m : BitVec 3) (u : State) (g : Global), s.dstReady d →
      let n := 2 ^ (m.toNat % 4)
      let done := let r := u.loadBytes g n
        fun k => Host.Outcome.next (φ := Fault) (ρ := Refusal) ((r.2.2.writeS d ⟨loadValue m (leNat r.1), r.2.1⟩).after t k)
      u.remote g = false →
      (s.readS b = .ok ⟨y, false⟩ → s.access (x + y) .load n = (u, .ok g) → exec (.ldg t d a b m) s = done 1) ∧
      (s.access (x + lit.signExtend 64) .load n = (u, .ok g) → exec (.ldgw t d a m lit) s = done 2)) ∧
    (∀ (z : BitVec 2) (v : SVal) (u : State) (g : Global), s.readS d = .ok v →
      let n := 2 ^ z.toNat
      let done := fun k => Host.Outcome.next (φ := Fault) (ρ := Refusal) (if u.mailboxFret g n v.p then u.takeTrap k (fretTrap 2 d.toNat 0 none)
        else (u.storeBytes g (natBytes n v.v.toNat) v.p).after t k)
      u.remote g = false →
      (s.readS b = .ok ⟨y, false⟩ → s.access (x + y) .store n = (u, .ok g) → exec (.stg t d a b z) s = done 1) ∧
      (s.access (x + lit.signExtend 64) .store n = (u, .ok g) → exec (.stgw t d a z lit) s = done 2))

/-- R174, R175, R169: a scratch load reads, and a scratch store writes, the bytes of the place that the address names; mod[2] of a load extends the sign of its bytes, else the bits above are
zero. -/
def Obligations.ScratchLoadsAndStores : Prop :=
  ∀ (t : Tok) (d a b : SReg) (s : State) (x y : Dword) (p : ScrPlace), s.starts t → s.notGated →
    s.readS a = .ok ⟨x, false⟩ → s.readS b = .ok ⟨y, false⟩ →
    (∀ m : BitVec 3, s.dstReady d → s.scratch (x + y) .load (2 ^ (m.toNat % 4)) (2 ^ (m.toNat % 4)) = .ok p →
      exec (.lds t d a b m) s = .next ((s.writeS d ⟨loadValue m (leNat (s.mem.scrBytes p.core p.off (2 ^ (m.toNat % 4)))),
        s.mem.scrRangePoison p.core p.off (2 ^ (m.toNat % 4))⟩).after t 1)) ∧
    (∀ (z : BitVec 2) (v : SVal), s.readS d = .ok v → s.scratch (x + y) .store (2 ^ z.toNat) (2 ^ z.toNat) = .ok p →
      exec (.sts t d a b z) s = .next (({ s with mem := s.mem.scrWrite p.core p.off (natBytes (2 ^ z.toNat) v.v.toNat) v.p }).after t 1)) ∧
    (∀ n : Nat, loadValue 0 n = (BitVec.ofNat 8 n).setWidth 64 ∧ loadValue 1 n = (BitVec.ofNat 16 n).setWidth 64 ∧
      loadValue 2 n = (BitVec.ofNat 32 n).setWidth 64 ∧ loadValue 3 n = BitVec.ofNat 64 n ∧ loadValue 4 n = (BitVec.ofNat 8 n).signExtend 64 ∧
      loadValue 5 n = (BitVec.ofNat 16 n).signExtend 64 ∧ loadValue 6 n = (BitVec.ofNat 32 n).signExtend 64)

/-- R176, R177, R168, R313: an atomic on own memory or a scratchpad returns the old doubleword; PROMOTE and DEMOTE reach the bank of the
address; while the die's split changes, a PROMOTE is held there, and on a stream its push waits until it is accepted; RSTF stores its bytes and then adds 1 to the flag. A thread's poisoned data for the host mailbox is a fret (R332, R421). R308, R101: of
another package an atomic is sent, owes its register and has its push applied, PROMOTE and DEMOTE are sent and keep their push until they are
accepted, and RSTF is sent, its flag in the same package; poisoned data leave only under EXPORT (R332). -/
def Obligations.AtomicsBanksAndFlaggedStores : Prop :=
  (∀ (t : Tok) (d a b : SReg) (s u : State) (x y : Dword) (g : Global), s.issues .S t → s.notGated → s.readS a = .ok ⟨x, false⟩ →
    (∀ (op : AmoOp) (opd cmp : SVal), s.readS b = .ok opd → s.readS d = .ok cmp → s.dstReady d → s.access x .atomic 8 = (u, .ok g) →
      u.remote g = true →
        let q := u.request g (.atom op opd.v cmp.v opd.p cmp.p) (.sload u.here.1 u.here.2)
        exec (.amo t d a b op) s = .next (if opd.p && !s.ctx.regs.exportOk then u.takeTrap 1 (fretTrap 2 b.toNat 0 none)
          else if op == .cas && cmp.p && !s.ctx.regs.exportOk then u.takeTrap 1 (fretTrap 2 d.toNat 0 none)
          else ({ q with ctx := { q.ctx.owe u.net.nextId d none false with tok := pushAll q.ctx.tok .S { t with pb := false } } } : State).issued .S t 1)) ∧
    (s.readS b = .ok ⟨y, false⟩ →
      (s.access (x + y) .promote 1 = (u, .ok g) → u.remote g = true →
        let sent := fun (k : ReqKind) =>
          let q := u.request g k (.bank u.here.1 u.here.2)
          Host.Outcome.next (φ := Fault) (ρ := Refusal) (({ q with ctx := { q.ctx with banks := q.ctx.banks ++
            ([⟨q.ctx.streams.s.pos, some u.net.nextId, g.phys.off, t.pf⟩] : List BankPush) } } : State).issued .S t 1)
        exec (.promote t a b) s = sent .promote ∧ exec (.demote t a b) s = sent .demote) ∧
      (∀ (z : BitVec 2) (v : SVal) (w : State) (f : Global), s.readS d = .ok v → s.access x .store (2 ^ z.toNat) = (u, .ok g) →
        u.access y .atomic 8 = (w, .ok f) →
        (f.phys.pkg ≠ g.phys.pkg → exec (.rstf t d a b z) s = .next (w.takeTrap 1 (memTrap causeAccess .atomic false 6 y))) ∧
        (f.phys.pkg = g.phys.pkg → w.remote g = true → exec (.rstf t d a b z) s = .next
          (if v.p && !s.ctx.regs.exportOk then w.takeTrap 1 (fretTrap 2 d.toNat 0 none)
            else (w.request g (.flagged (natBytes (2 ^ z.toNat) v.v.toNat) v.p (BitVec.ofNat 56 f.phys.pa) (BitVec.ofNat 7 f.phys.slot))
              (.store w.here.1 w.here.2)).passed .S t 1))))) ∧
  ∀ (t : Tok) (d a b : SReg) (s u : State) (x y : Dword) (g : Global), s.starts t → s.notGated → s.readS a = .ok ⟨x, false⟩ →
    (∀ (op : AmoOp) (opd cmp : SVal), s.readS b = .ok opd → s.readS d = .ok cmp → s.dstReady d →
      (s.access x .atomic 8 = (u, .ok g) → u.remote g = false →
        exec (.amo t d a b op) s = .next (if u.mailboxFret g 8 opd.p then u.takeTrap 1 (fretTrap 2 b.toNat 0 none)
          else if op == .cas && u.mailboxFret g 8 cmp.p then u.takeTrap 1 (fretTrap 2 d.toNat 0 none)
          else ((u.siteAtomic g op opd cmp).2.writeS d (u.siteAtomic g op opd cmp).1).after t 1)) ∧
      (∀ p : ScrPlace, s.scratch x .atomic 8 8 = .ok p →
        let old : Dword := BitVec.ofNat 64 (leNat (s.mem.scrBytes p.core p.off 8))
        let pm := s.mem.scrRangePoison p.core p.off 8
        let r := amoNew op old opd.v cmp.v
        exec (.amos t d a b op) s = .next
          ((({ s with mem := if r.2 then s.mem.scrWrite p.core p.off (natBytes 8 r.1.toNat) (amoPoison op pm opd.p cmp.p) else s.mem }).writeS d
            ⟨old, pm⟩).after t 1))) ∧
    (s.readS b = .ok ⟨y, false⟩ →
      (s.access (x + y) .promote 1 = (u, .ok g) → u.remote g = false →
        ((u.mem.dieOf (paStack g.phys.off)).busy = false → exec (.promote t a b) s = .next (({ u with mem := u.mem.promote g.phys.off }).after t 1)) ∧
        ((u.mem.dieOf (paStack g.phys.off)).busy = true → exec (.promote t a b) s = .next (match s.agent with
          | .thread => ({ u with mem := u.mem.promoteFor none (some s.thr.num) g.phys.off } : State).after t 1
          | .stream _ => ({ u with
              mem := u.mem.promoteFor none none g.phys.off
              ctx := { u.ctx with banks := u.ctx.banks ++ ([⟨u.ctx.streams.s.pos, none, g.phys.off, t.pf⟩] : List BankPush) } } : State).issued .S t 1)) ∧
        exec (.demote t a b) s = .next (({ u with mem := u.mem.demote g.phys.off }).after t 1)) ∧
      (∀ (z : BitVec 2) (v : SVal) (w : State) (f : Global), s.readS d = .ok v → s.access x .store (2 ^ z.toNat) = (u, .ok g) →
        u.access y .atomic 8 = (w, .ok f) → f.phys.pkg = g.phys.pkg → w.remote g = false →
        let k := ((w.atomicSite g).siteWrite g (2 ^ z.toNat) v.v.toNat v.p).atomicSite f
        exec (.rstf t d a b z) s = .next (if w.mailboxFret g (2 ^ z.toNat) v.p then w.takeTrap 1 (fretTrap 2 d.toNat 0 none)
          else (k.siteWrite f 8 ((k.siteRead f 8).1 + 1) false).after t 1)))

/-! Words of L and W (09, 11) -/

/-- R245 to R251, R101: a transfer word whose operands are clean and whose checks find nothing takes its channel's next ID and stands
among the outstanding transfers with what it is to move; its pops apply, its pushes are due later. -/
def Obligations.TransferWordsIssue : Prop :=
  ∀ p ∈ ([(.copyIn, false, .copy, planCopy), (.copytIn, false, .copyt, planShape false), (.copym, false, .copym, planMulti),
      (.gath, false, .gath, planIndexed false), (.rloadb, false, .rloadb, planRemoteLoad), (.stread, false, .stread, planStore false),
      (.netrd, false, .netrd, planNet false), (.copyOut, true, .copy, planCopy), (.copytOut, true, .copyt, planShape true),
      (.scat, true, .scat, planIndexed true), (.stwrite, true, .stwrite, planStore true), (.netwr, true, .netwr, planNet true)] :
      List ((Tok → SReg → SReg → SReg → Bool → Chan → Instr) × Bool × XferKind × (State → Xfer → List Dword → Plan))),
  ∀ (t : Tok) (d a b : SReg) (rel : Bool) (ch : Chan) (s u : State) (vd va vb r : Dword) (y : Xfer) (id : Nat) (c : Ctx),
    let e : StreamId := if p.2.1 then .W else .L
    let plan := p.2.2.2 s (Xfer.blank s.ctx.inst p.2.1 ch p.2.2.1 (Instr.firstWord (p.1 t d a b rel ch)) vb
      (if rel then some r else none) s.ctx.regs.exportOk) ([vd, va, vb] ++ if rel then [r] else [])
    s.issues e t → s.notGated → (rel = true → b.toNat % 2 = 0) →
    s.reads ([d, a, b] ++ if rel then [b + 1] else []) ([vd, va, vb] ++ if rel then [r] else []) →
    s.planClear plan → s.resolves e plan.xfer u y → u.leaveFor e y → u.ctx.nextId p.2.1 ch = some (id, c) →
    exec (p.1 t d a b rel ch) s = .next (({ u with ctx := { c.leaveTaken e with xfers := c.xfers ++
      [{ y with ref := { y.ref with id := id }, pfDue := t.pf, pbDue := t.pb, leave := c.leaveHeld e, owed := if y.sideScr then [] else u.mem.l1Dirty u.ctx.core }] } }).issued e t 1)

/-- R264, R266, R314, R316: COPYA issues to the tiles it names unless a running product holds one; PREF changes no visible state but
its stream's; COPYF issues with the flag it names; RRED issues and is counted in its address space's RREDOUT. -/
def Obligations.TileFlagAndReductionTransfersIssue : Prop :=
  ∀ (t : Tok) (d a b : SReg) (s u : State) (vd va vb r : Dword) (y : Xfer) (id : Nat) (c : Ctx), s.notGated →
    let listed := fun (e : StreamId) => { u with ctx := { c.leaveTaken e with xfers := c.xfers ++
      [{ y with ref := { y.ref with id := id }, pfDue := t.pf, pbDue := t.pb, leave := c.leaveHeld e, owed := if y.sideScr then [] else u.mem.l1Dirty u.ctx.core }] } }
    (∀ (tile : TileNo) (rel : Bool),
      let plan := planAdd tile s (Xfer.blank s.ctx.inst false (vb.extractLsb' 23 2) .copya (Instr.firstWord (.copya t tile a b rel)) vb
        (if rel then some r else none) s.ctx.regs.exportOk) ([va, vb] ++ if rel then [r] else [])
      s.issues .L t → (rel = true → b.toNat % 2 = 0) → s.reads ([a, b] ++ if rel then [b + 1] else []) ([va, vb] ++ if rel then [r] else []) →
      tile.toNat < s.ctx.tiles → s.planClear plan → s.resolves .L plan.xfer u y → y.tiles.any u.ctx.mHolds = false →
      u.ctx.nextId false (vb.extractLsb' 23 2) = some (id, c) →
      exec (.copya t tile a b rel) s = .next ((listed .L).issued .L t 1)) ∧
    (s.issues .L t → s.reads [a, b] [va, vb] → vb.extractLsb' 32 32 = 0 → s.sideAccess ⟨false, va⟩ 0 .copyRead false = none →
      exec (.pref t a b) s = .next (s.passed .L t 1)) ∧
    (∀ ch : Chan,
      let plan := planFlagged s (Xfer.blank s.ctx.inst true ch .copyf (Instr.firstWord (.copyf t d a b ch)) vb (some r) s.ctx.regs.exportOk)
        [vd, va, vb, r]
      s.issues .W t → b.toNat % 2 = 0 → s.reads [d, a, b, b + 1] [vd, va, vb, r] → s.planClear plan → s.resolves .W plan.xfer u y →
      u.leaveFor .W y → u.ctx.nextId true ch = some (id, c) →
      exec (.copyf t d a b ch) s = .next ((listed .W).issued .W t 1)) ∧
    (∀ (rel : Bool) (ch : Chan),
      let plan := planReduce s (Xfer.blank s.ctx.inst true ch .rred (Instr.firstWord (.rred t d a b rel ch)) vb
        (if rel then some r else none) s.ctx.regs.exportOk) ([vd, va, vb] ++ if rel then [r] else [])
      s.issues .W t → (rel = true → b.toNat % 2 = 0) →
      s.reads ([d, a, b] ++ if rel then [b + 1] else []) ([vd, va, vb] ++ if rel then [r] else []) → s.planClear plan →
      s.resolves .W plan.xfer u y → u.leaveFor .W y → u.ctx.nextId true ch = some (id, c) →
      exec (.rred t d a b rel ch) s = .next (({ listed .W with mem := (listed .W).mem.rredOut u.pkg c.asid true }).issued .W t 1))

/-- R245: IDs of a channel rise by one from the channel's next, and no ID is given while 16 transfers are outstanding on it; after ID
2^32 - 1 the channel starts again at 1 once all have completed. R246, R254: an ID that completes is counted, and MARK is then exact:
every ID at or below it has completed, and the one after it has not. -/
def Obligations.ChannelsCountTheirIds : Prop :=
  (∀ (c : Ctx) (w : Bool) (ch : Chan),
     let busy := (c.xfers.filter fun x => x.ref.w == w && x.ref.ch == ch).length
     let others := fun (d : Ctx) => d.xfers = c.xfers ∧ ∀ w' ch', (w', ch') ≠ (w, ch) → d.chan w' ch' = c.chan w' ch'
     (16 ≤ busy → c.nextId w ch = none) ∧
     (busy < 16 → (c.chan w ch).next < 2 ^ 32 →
       ∃ d, c.nextId w ch = some ((c.chan w ch).next, d) ∧ d.chan w ch = { c.chan w ch with next := (c.chan w ch).next + 1 } ∧ others d) ∧
     (busy < 16 → 2 ^ 32 ≤ (c.chan w ch).next →
       ((c.chan w ch).mark = 2 ^ 32 - 1 → ∃ d, c.nextId w ch = some (1, d) ∧ (d.chan w ch).next = 2 ∧ (d.chan w ch).mark = 0 ∧
         (d.chan w ch).above = [] ∧ others d) ∧
       ((c.chan w ch).mark ≠ 2 ^ 32 - 1 → c.nextId w ch = none))) ∧
  (∀ (h : Channel) (id : Nat) (wrote : List (Nat × Nat)), h.tidy → h.mark < id → id ∉ h.above →
     (h.complete id wrote).tidy ∧ (h.complete id wrote).mark + 1 ∉ (h.complete id wrote).above ∧ (h.complete id wrote).next = h.next ∧
     ∀ i, (i ≤ (h.complete id wrote).mark ∨ i ∈ (h.complete id wrote).above) ↔ (i ≤ h.mark ∨ i ∈ h.above ∨ i = id))

/-! Words of Y (10) -/

/-- R294 to R299: the phaser words on a phaser that this package holds do what the holder answers, in the party's record and at the
holder; a signaller drains and releases first, a waiter acquires after. R273, R279: of a phaser that another package holds, the word is sent
to its home and the party waits with STALL 10; the answer then does the same in its record, a mute reply leaves an entry (a wait takes a
fret, and PHQ writes a poisoned record). -/
def Obligations.PhaserWordsHere : Prop :=
  (∀ (a b : SReg) (m : Scope3) (s u : State) (h v : Dword) (n : PhaserName) (r : Reply), s.startsY → s.namesAway m h n →
    let c := s.releasePh n
    (s.reads [a] [h] → ∀ mode : BitVec 2, (s.isThread = true → modeWait mode = false) → s.myReg n = none → s.myRegs.length < s.regLimit →
      (s.mayAsk n → exec (.phreg mode a m) s = .next (s.asks n (.register mode))) ∧
      (s.told n u r →
        (∀ ph, r = .phaser 0 ph → exec (.phreg mode a m) s = .next ((u.setMyRegs (u.myRegs ++ [⟨n, mode, ph, ph⟩])).afterY)) ∧
        (∀ why, r = .mute why → exec (.phreg mode a m) s = .next ((u.mutedWord n).afterY)) ∧
        (∀ cause more, cause ≠ 0 → r = .phaser cause more → exec (.phreg mode a m) s = .next
          ((if cause = causeNotReg ∨ (cause = causeFret ∧ more = 0) then u.forget n else u).takeTrap 1 (refusal n cause more.toNat))))) ∧
    (s.reads [a] [h] → s.preCheck n false false = none →
      ((s.myReg n).any (fun r => modeSig r.mode) = true → s.ready n →
        (c.mayAsk n → exec (.phdrop a m) s = .next (c.asks n .drop)) ∧
        (c.told n u r → (∀ ph, r = .phaser 0 ph → exec (.phdrop a m) s = .next ((u.forget n).afterY)) ∧
          (∀ why, r = .mute why → exec (.phdrop a m) s = .next (((u.mutedWord n).forget n).afterY)))) ∧
      ((s.myReg n).any (fun r => modeSig r.mode) = false →
        (s.mayAsk n → exec (.phdrop a m) s = .next (s.asks n .drop)) ∧
        (s.told n u r → (∀ ph, r = .phaser 0 ph → exec (.phdrop a m) s = .next ((u.forget n).afterY)) ∧
          (∀ why, r = .mute why → exec (.phdrop a m) s = .next (((u.mutedWord n).forget n).afterY))))) ∧
    (s.reads [a] [h] → s.preCheck n true false = none → s.ready n →
      (c.mayAsk n → exec (.phsig a m) s = .next (c.asks n .signal)) ∧
      (c.told n u r → (∀ ph, r = .phaser 0 ph → exec (.phsig a m) s = .next ((u.bump n true).afterY)) ∧
        (∀ why, r = .mute why → exec (.phsig a m) s = .next ((u.mutedWord n).afterY)))) ∧
    (s.reads [a] [h] → (s.myReg n).any (fun r => !modeWait r.mode) = false →
      (s.mayAsk n → exec (.phwait a m) s = .next (s.asks n .wait)) ∧
      (s.told n u r → (∀ ph, r = .phaser 0 ph → exec (.phwait a m) s = .next (((u.bump n false).acquirePh n).afterY)) ∧
        (∀ why, r = .mute why → exec (.phwait a m) s = .next (u.takeTrap 1 poisonedPhaser)))) ∧
    (s.reads [a, b] [h, v] →
      (s.mayAsk n → exec (.phexpb a b m) s = .next (s.asks n (.expect v))) ∧
      (s.told n u r → (∀ ph, r = .phaser 0 ph → exec (.phexpb a b m) s = .next u.afterY) ∧
        (∀ why, r = .mute why → exec (.phexpb a b m) s = .next ((u.mutedWord n).afterY)))) ∧
    (s.reads [a, b] [h, v] → ∀ p, s.queryPlace v = .ok p →
      (s.mayAsk n → exec (.phq a b m) s = .next (s.asks n .query)) ∧
      (s.told n u r → (∀ l q, r = .data l q → exec (.phq a b m) s = .next ((u.writeQuery p l false).afterY)) ∧
        (∀ why, r = .mute why → exec (.phq a b m) s = .next ((u.writeQuery p (holdQuery [] n s.me) true).afterY))))) ∧
  ∀ (a b : SReg) (m : Scope3) (s : State) (h v : Dword) (n : PhaserName) (l : List Phaser) (ph : Dword),
    s.startsY → s.namesHere m h n →
    (s.reads [a] [h] → ∀ mode : BitVec 2, (s.isThread = true → modeWait mode = false) → s.myReg n = none → s.myRegs.length < s.regLimit →
      holdRegister s.har.phasers n s.asid s.me mode = (l, .done ph) →
      exec (.phreg mode a m) s = .next (((s.withPhasers l).setMyRegs (s.myRegs ++ [⟨n, mode, ph, ph⟩])).afterY)) ∧
    (s.reads [a] [h] → s.preCheck n false false = none → holdDrop s.har.phasers n s.asid s.me = (l, .done ph) →
      ((s.myReg n).any (fun r => modeSig r.mode) = true → s.ready n →
        exec (.phdrop a m) s = .next ((((s.releasePh n).withPhasers l).forget n).afterY)) ∧
      ((s.myReg n).any (fun r => modeSig r.mode) = false → exec (.phdrop a m) s = .next (((s.withPhasers l).forget n).afterY))) ∧
    (s.reads [a] [h] → s.preCheck n true false = none → s.ready n → holdSignal s.har.phasers n s.asid s.me = (l, .done ph) →
      exec (.phsig a m) s = .next ((((s.releasePh n).withPhasers l).bump n true).afterY)) ∧
    (s.reads [a] [h] → holdWait s.waitOpen s.har.phasers n s.asid s.me = (l, .done ph) →
      exec (.phwait a m) s = .next ((((s.withPhasers l).bump n false).acquirePh n).afterY)) ∧
    (s.reads [a, b] [h, v] → holdExpect s.har.phasers n s.asid s.me v = (l, .done ph) →
      exec (.phexpb a b m) s = .next ((s.withPhasers l).afterY)) ∧
    (s.reads [a, b] [h, v] → ∀ p, s.queryPlace v = .ok p → (findPhaser s.har.phasers n).any (fun q => q.asid != s.asid) = false →
      exec (.phq a b m) s = .next ((s.writeQuery p (holdQuery s.har.phasers n s.me) false).afterY))

/-- R297: PHNEXT signals once, and where the phase completes by that, goes on past its wait; a PHWAIT of a phase that has not
advanced waits with STALL 10 and changes nothing else. R273, R279: of a phaser that another package holds, PHNEXT sends its signal, then,
once answered, its wait, and goes on when that is answered. -/
def Obligations.WaitsForAPhase : Prop :=
  (∀ (a : SReg) (m : Scope3) (s u : State) (h : Dword) (n : PhaserName) (r : Reply), s.issues .Y Tok.none → s.namesAway m h n → s.reads [a] [h] →
    (s.ctx.signalled = false → s.preCheck n true true = none → s.ready n →
      let c := s.releasePh n
      let open_ := fun (v : State) => v.setCtx { v.ctx with signalled := true }
      (c.mayAsk n → exec (.phnext a m) s = .next (c.asks n .next)) ∧
      (c.told n u r → (∀ ph, r = .phaser 0 ph → (open_ (u.bump n true)).mayAsk n →
          exec (.phnext a m) s = .next ((open_ (u.bump n true)).asks n .wait)) ∧
        (∀ why, r = .mute why → (open_ (u.mutedWord n)).mayAsk n → exec (.phnext a m) s = .next ((open_ (u.mutedWord n)).asks n .wait)))) ∧
    (s.ctx.signalled = true →
      (s.mayAsk n → exec (.phnext a m) s = .next (s.asks n .wait)) ∧
      (s.told n u r → (∀ ph, r = .phaser 0 ph → exec (.phnext a m) s = .next
          (let v := (u.bump n false).acquirePh n
           (v.setCtx { v.ctx with signalled := false }).afterY)) ∧
        (∀ why, r = .mute why → exec (.phnext a m) s = .next (u.takeTrap 1 poisonedPhaser))))) ∧
  ∀ (a : SReg) (m : Scope3) (s : State) (h : Dword) (n : PhaserName), s.issues .Y Tok.none → s.namesHere m h n → s.reads [a] [h] →
    (∀ l l' ph ph', s.ctx.signalled = false → (findPhaser s.har.phasers n).all (fun p => !p.poisoned) = true → s.preCheck n true true = none →
      s.ready n → holdNext s.har.phasers n s.asid s.me = (l, .done ph) → holdWait true l n s.asid s.me = (l', .done ph') →
      exec (.phnext a m) s = .next
        (let u := (((((s.releasePh n).withPhasers l).bump n true).withPhasers l').bump n false).acquirePh n
         ({ u with ctx := { u.ctx with signalled := false } }).afterY)) ∧
    (∀ l, holdWait s.waitOpen s.har.phasers n s.asid s.me = (l, .held) →
      exec (.phwait a m) s = .next { s.withPhasers l with ctx := s.ctx.stalled .Y 10 })

/-- R275: a phase completes when every signaller has arrived and no expected byte is missing; a signal by a registrant at the
phase counts as an arrival, and the last of them opens the next phase. -/
def Obligations.PhasesCompleteWhenAllHaveArrived : Prop :=
  ∀ (l : List Phaser) (n : PhaserName) (asid : Asid) (g : Party) (p : Phaser) (r : Registrant),
    findPhaser l n = some p → p.asid = asid → p.reg g = some r → modeSig r.mode = true → r.sph = p.ph → p.ahead = 0 → p.ph.toNat < 2 ^ 64 - 1 →
    (p.arrived + 1 < p.nsig →
      ∃ q, findPhaser (holdSignal l n asid g).1 n = some q ∧ q.ph = p.ph ∧ q.arrived = p.arrived + 1 ∧ (holdSignal l n asid g).2 = .done p.ph) ∧
    (p.arrived + 1 = p.nsig → p.brem = 0 →
      ∃ q, findPhaser (holdSignal l n asid g).1 n = some q ∧ q.ph = p.ph + 1 ∧ q.arrived = 0 ∧ q.expset = false)

/-- R289, R300 to R306: bindings, fences, waits that are met, and a YLEAVE that has been granted, which notes its coverage
and the power it was granted. -/
def Obligations.BindingsFencesAndWaits : Prop :=
  ∀ (d a b : SReg) (s : State) (x v w : Dword),
    (s.issues .Y Tok.none → s.reads [d, a, b] [x, v, w] → ∀ obj va, w.toNat ≤ 2 ^ 40 → s.bindObj (Instr.firstWord (.bind d a b)) x = .ok obj →
      globalForm s.mem.own v = some va → natField va.toNat 0 44 + w.toNat ≤ 2 ^ 44 → s.ctx.bindings.length < 16 →
      exec (.bind d a b) s = .next
        (({ s with ctx := { s.ctx with bindings := s.ctx.bindings ++ if w = 0 then ([] : List Binding) else [⟨obj, va, w.toNat⟩] } }).passed .Y Tok.none 1)) ∧
    (s.issues .Y Tok.none →
      exec (.unbind 0 true) s = .next (({ s with ctx := { s.ctx with bindings := [] } }).passed .Y Tok.none 1) ∧
      (s.reads [a] [v] → exec (.unbind a false) s = .next (({ s with ctx := { s.ctx with
        bindings := s.ctx.bindings.filter (fun b => some b.base != globalForm s.mem.own v) } }).passed .Y Tok.none 1))) ∧
    (∀ (fl : BitVec 2) (m k : Scope3), s.startsY → s.wordScope m = .ok k → s.drainsAt k →
      exec (.fence fl m) s = .next
        (let clean := if fl.getLsbD 1 then s.mem.l1CleanAll s.ctx.core else s.mem
         if s.isThread = true ∨ k = 1 then s.afterY
         else ({ s with mem := if fl.getLsbD 0 then clean.l1EvictAll s.ctx.core else clean }).afterY)) ∧
    (s.issues .Y Tok.none → s.reads [b] [v] →
      (∀ (q : Bool) (ch : Chan), v.toNat < 2 ^ 32 → s.ctx.past (if q then .W else .L) s.ctx.streams.y.pos = true →
        min v.toNat ((s.ctx.chan q ch).next - 1) ≤ (s.ctx.chan q ch).mark → exec (.waitw b q ch) s = .next (s.passed .Y Tok.none 1)) ∧
      (v.toNat ≤ s.pkg.time.toNat → exec (.waitt b) s = .next (s.passed .Y Tok.none 1))) ∧
    (s.issues .Y Tok.none → s.reads [a, b] [x, v] → ∀ (u : State) (g : Global), s.sideAccess ⟨false, x⟩ 8 .load false = none →
      s.access x .load 8 = (u, .ok g) → u.remote g = false → (u.siteRead g 8).2 = false → v.toNat ≤ (u.siteRead g 8).1 →
      exec (.waitf a b) s = .next ((({ u with mem := u.mem.endLeases g.phys.off 8 }).acquireL1 (.flag g.va)).passed .Y Tok.none 1)) ∧
    (∀ (n : BitVec 5) (r : LeaveReq), s.issues .Y Tok.none → s.ctx.leaves.find? (·.e == .Y) = some r → r.granted = true →
      ∃ l : List Cover, exec (.yleave n) s = .next
          ((s.setCtx { s.ctx with leaves := s.ctx.leaves.filter (·.e != .Y), covers := l }).passed .Y Tok.none 1) ∧
        (∀ k ∈ l, k.pos = s.ctx.streams.y.pos → k.granted = true ∧ k.milliwatts = r.milliwatts) ∧ (∃ k ∈ l, k.pos = s.ctx.streams.y.pos) ∧
        ((∀ k ∈ s.ctx.covers, k.pos ≠ s.ctx.streams.y.pos) → ∀ k ∈ l, k.pos = s.ctx.streams.y.pos → k.n = n.toNat ∧ k.taken = []) ∧
        ∀ k, k.pos ≠ s.ctx.streams.y.pos → (k ∈ l ↔ k ∈ s.ctx.covers))

/-! Words of V (07) -/

/-- R184, R185, R67, R188: the masked write of a vector register: an active element takes its result, any other keeps its value; a
lane is poisoned by a poisoned write, stays poisoned unless it is written whole, and every other register keeps its value. R187: a
poisoned active mask poisons every lane that the word writes, and the word raises no flag. R78: the flags of its active clean elements
are ORed into IEEE_FLAGS. -/
def Obligations.MaskedVectorWrites : Prop :=
  (∀ (c : Ctx) (w : Nat) (d : VReg) (l : List VRes), (w = 8 ∨ w = 16 ∨ w = 32 ∨ w = 64) → l.length = 4096 / w → c.mask.p = false →
     let new := (c.put w d l).getV d
     (∀ i r, l[i]? = some r → (new.elem w i).code = if c.mask.v.getLsbD i then r.code % 2 ^ w else ((c.getV d).elem w i).code) ∧
     (∀ q, q < 128 →
       let els := if w = 64 then [q / 2] else (upTo (32 / w)).map (q * (32 / w) + ·)
       new.p.getLsbD q = (els.any (fun i => c.mask.v.getLsbD i && (l[i]?).any (·.p)) ||
         ((c.getV d).p.getLsbD q && !els.all fun i => c.mask.v.getLsbD i))) ∧
     (∀ k, k < 6 → ((c.put w d l).ieee.getLsbD k = true ↔
       c.ieee.getLsbD k = true ∨ ∃ i r, l[i]? = some r ∧ c.mask.v.getLsbD i = true ∧ r.p = false ∧ r.fl.getLsbD k = true)) ∧
     (∀ e, e ≠ d → (c.put w d l).getV e = c.getV e) ∧ (c.put w d l).m = c.m ∧ (c.put w d l).sf = c.sf ∧ (c.put w d l).tok = c.tok) ∧
  (∀ (c : Ctx) (w : Nat) (d : VReg) (l : List VRes), c.mask.p = true →
     ((c.put w d l).getV d).p = BitVec.allOnes 128 ∧ (c.put w d l).ieee = c.ieee) ∧
  (∀ (c : Ctx) (f : Flags), (c.raise f).ieee = c.ieee ||| (f &&& 0x3F))

/-- R190 to R195, R36: a two-source V word puts the element-wise result of its sources into vD under the active mask; a result is
poisoned if an element of a source is. -/
def Obligations.VectorTwoSourceWords : Prop :=
  ∀ p ∈ ([(.vadd, fun ty => arith ty (· + ·) fpAdd), (.vsub, fun ty => arith ty (· - ·) fpSub), (.vmul, fun ty => arith ty (· * ·) fpMul),
      (.vdiv, fun ty => fpDiv ty.float), (.vmin, fun ty => arith ty min (fpMinMax · false)), (.vmax, fun ty => arith ty max (fpMinMax · true)),
      (.vminu, fun ty => intWord ty false min), (.vmaxu, fun ty => intWord ty false max), (.vadds, fun ty => satWord ty true (· + ·)),
      (.vaddsu, fun ty => satWord ty false (· + ·)), (.vsubs, fun ty => satWord ty true (· - ·)), (.vsubsu, fun ty => satWord ty false (· - ·)),
      (.vmulh, fun ty => intWord ty true fun x y => x * y / 2 ^ ty.bits), (.vmulhu, fun ty => intWord ty false fun x y => x * y / 2 ^ ty.bits),
      (.vand, fun _ x y => (x &&& y, 0)), (.vor, fun _ x y => (x ||| y, 0)), (.vxor, fun _ x y => (x ^^^ y, 0)),
      (.vandn, fun ty x y => (x &&& (2 ^ ty.bits - 1 - y), 0)), (.vshl, fun ty x y => (x <<< (y % ty.bits) % 2 ^ ty.bits, 0)),
      (.vshrl, fun ty x y => (x >>> (y % ty.bits), 0)),
      (.vshra, fun ty x y => (intCode ty.bits (intVal ty.bits true x / 2 ^ (y % ty.bits)), 0))] :
      List ((Tok → VTy → VReg → VReg → VReg → Instr) × (VTy → Nat → Nat → Nat × Flags))),
  ∀ (t : Tok) (ty : VTy) (d a b : VReg) (s : State), s.issues .V t → (∀ r ∈ [d, a, b], r.toNat < s.ctx.demand) →
    exec (p.1 t ty d a b) s = .next (({ s with ctx := s.ctx.put ty.bits d (List.zipWith (fun (x y : VElem) =>
      ⟨(p.2 ty x.code y.code).1, x.p || y.p, (p.2 ty x.code y.code).2⟩) ((s.ctx.getV a).elems ty.bits) ((s.ctx.getV b).elems ty.bits)) }).passed
        .V t 1)

/-- R190: on integer elements VADD, VSUB and VMUL keep the low n bits; VMULH and VMULHU are bits [2n-1:n] of the product; VMINU and
VMAXU compare without sign. R192: saturating words stop at the bounds of their type and raise SAT there, and nothing else. -/
def Obligations.VectorIntegerResults : Prop :=
  ∀ (ty : VTy) (x y : Nat), ty.isInt = true → x < 2 ^ ty.bits → y < 2 ^ ty.bits →
    (arith ty (· + ·) fpAdd x y).1 = (x + y) % 2 ^ ty.bits ∧ (arith ty (· - ·) fpSub x y).1 = (x + 2 ^ ty.bits - y) % 2 ^ ty.bits ∧
    (arith ty (· * ·) fpMul x y).1 = x * y % 2 ^ ty.bits ∧ (intWord ty false (fun x y => x * y / 2 ^ ty.bits) x y).1 = x * y / 2 ^ ty.bits ∧
    (intWord ty false min x y).1 = min x y ∧ (intWord ty false max x y).1 = max x y ∧
    satWord ty false (· + ·) x y = (if x + y < 2 ^ ty.bits then (x + y, 0) else (2 ^ ty.bits - 1, Flags.sat)) ∧
    satWord ty false (· - ·) x y = (if y ≤ x then (x - y, 0) else (0, Flags.sat)) ∧
    let sx := (BitVec.ofNat ty.bits x).toInt
    let sy := (BitVec.ofNat ty.bits y).toInt
    let sat := fun (z : Int) => if z < -(2 ^ (ty.bits - 1)) then (2 ^ (ty.bits - 1), Flags.sat)
      else if z < 2 ^ (ty.bits - 1) then ((BitVec.ofInt ty.bits z).toNat, 0) else (2 ^ (ty.bits - 1) - 1, Flags.sat)
    satWord ty true (· + ·) x y = sat (sx + sy) ∧ satWord ty true (· - ·) x y = sat (sx - sy) ∧
    (intWord ty true (fun x y => x * y / 2 ^ ty.bits) x y).1 = (BitVec.ofInt ty.bits (sx * sy / 2 ^ ty.bits)).toNat

/-- R191, R193, R205, R200 to R204: the fused word and the one-source words: absolute value, sign, special functions, square
root, and conversions, whose results are put in ascending order of their elements with the generator stepped only under SR (R75). -/
def Obligations.VectorOneSourceWordsAndConversions : Prop :=
  ∀ (t : Tok) (ty : VTy) (d a b : VReg) (s : State), s.issues .V t →
    ((∀ r ∈ [d, a, b], r.toNat < s.ctx.demand) →
      exec (.vfma t ty d a b) s = .next (({ s with ctx := s.ctx.put ty.bits d ((upTo (4096 / ty.bits)).map fun i =>
        let x := (s.ctx.getV a).elem ty.bits i
        let y := (s.ctx.getV b).elem ty.bits i
        let z := (s.ctx.getV d).elem ty.bits i
        let r := if ty.isFloat then fpFma ty.float x.code y.code z.code else ((x.code * y.code + z.code) % 2 ^ ty.bits, 0)
        ⟨r.1, x.p || y.p || z.p, r.2⟩) }).passed .V t 1)) ∧
    (∀ p ∈ ([(.vabs, fun x => (if ty.isFloat then x % 2 ^ (ty.bits - 1) else intCode ty.bits ((intVal ty.bits true x).natAbs : Int), 0)),
        (.vneg, fun x => (if ty.isFloat then x ^^^ 2 ^ (ty.bits - 1) else intCode ty.bits (-intVal ty.bits true x), 0)),
        (.vrcp, special .rcp ty.float), (.vrsq, special .rsq ty.float), (.vexp2, special .exp2 ty.float), (.vlog2, special .log2 ty.float),
        (.vtanh, special .tanh ty.float), (.vsqrt, fpSqrt ty.float)] : List ((Tok → VTy → VReg → VReg → Instr) × (Nat → Nat × Flags))),
      d.toNat < s.ctx.demand → a.toNat < s.ctx.demand →
      exec (p.1 t ty d a) s = .next (({ s with ctx := s.ctx.put ty.bits d (((s.ctx.getV a).elems ty.bits).map fun (x : VElem) =>
        (⟨(p.2 x.code).1, x.p, (p.2 x.code).2⟩ : VRes)) }).passed .V t 1)) ∧
    (∀ (rm : RMode) (sinv tensor : Bool) (other : NFmt) (g : Word), (rm = RMode.sr → s.ctx.generator = .ok g) → (rm ≠ RMode.sr → g = 0) →
      let run := fun (src dst : NFmt) (l : List Source) =>
        let r := convertAll (rm == RMode.sr) s.ctx.mask 0 g l
        ((s.ctx.putGroup dst.regBits d (cvtGroups src dst).2 s.ctx.mask r.1, r.2) : Ctx × Word)
      let step := fun (x : Ctx × Word) => Host.Outcome.next (φ := Fault) (ρ := Refusal)
        (({ s with ctx := if rm = RMode.sr then x.1.setGenerator x.2 else x.1 }).passed .V t 2)
      let elems := fun (src dst : NFmt) => (upTo (convertCount src dst)).map (s.ctx.groupElem src.regBits a (cvtGroups src dst).1)
      let fits := fun (src dst : NFmt) (more : List VReg) =>
        ∀ r ∈ groupRegs d (cvtGroups src dst).2 ++ groupRegs a (cvtGroups src dst).1 ++ more, r.toNat < s.ctx.demand
      (∀ dir : Bool, let src := if dir then other else ty.fmt
        let dst := if dir then ty.fmt else other
        fits src dst [] → exec (.vcvt t ty d a sinv rm dir other) s =
          step (run src dst ((elems src dst).map fun x => ⟨x.p, fun g => convert src dst rm sinv g x.code⟩))) ∧
      (fits ty.fmt other [b] → exec (.vquant t ty d a b true sinv rm other) s =
        step (run ty.fmt other ((elems ty.fmt other).map fun x =>
          let q := (s.ctx.getV b).elem 32 0
          ⟨x.p || q.p, quantTensor ty.float other rm (other.satDefault != sinv) q.code x.code⟩))) ∧
      (fits ty.fmt other [b] →
        let made := (blocks (elems ty.fmt other)).map (quantBlock ty.float other rm (other.satDefault != sinv) s.ctx.mask)
        let r := run ty.fmt other (made.flatMap fun k => k.2)
        let scales := (VVal.mk 0 0).write 8 ((made.map (fun k => k.1) ++ List.replicate (512 - made.length) (⟨0, false⟩ : VElem)).map some)
        exec (.vquant t ty d a b false sinv rm other) s = step (r.1.setV b (if s.ctx.mask.p then scales.poisoned else scales), r.2)) ∧
      (fits other ty.fmt [b] → exec (.vdequant t ty d a b tensor sinv rm other) s =
        step (run other ty.fmt ((elems other ty.fmt).zipIdx.map fun x =>
          let k := if tensor then (s.ctx.getV b).elem 32 0 else (s.ctx.getV b).elem 8 (x.2 / 48)
          let scale := if tensor then FFmt.fp32.val k.code else scaleByte k.code
          ⟨x.1.p || k.p, fun g => roundTo ty.float rm (ty.fmt.satDefault != sinv) g ((other.float.val x.1.code).scaled scale)⟩))))

/-- R196 to R199: compares write one mask register, its bits beyond the last element zero and those of inactive elements kept, and raise
the flags of their active clean elements; VSEL and the mask words do what their tables say, and VMSEL selects the active
mask. -/
def Obligations.VectorComparesAndMasks : Prop :=
  ∀ (t : Tok) (ty : VTy) (a b e : VReg) (d i j : MReg) (s : State), s.issues .V t →
    (∀ p ∈ ([(.vcmpeq, relation ty true (· == ·) .eq), (.vcmpne, relation ty true (· != ·) .ne),
        (.vcmplt, relation ty true (fun x y => decide (x < y)) .lt), (.vcmple, relation ty true (fun x y => decide (x ≤ y)) .le),
        (.vcmpltu, relation ty false (fun x y => decide (x < y)) .lt), (.vcmpleu, relation ty false (fun x y => decide (x ≤ y)) .le),
        (.vcmpun, fpCmp ty.float .un)] : List ((Tok → VTy → MReg → VReg → VReg → Instr) × (Nat → Nat → Bool × Flags))),
      a.toNat < s.ctx.demand → b.toNat < s.ctx.demand →
      let n := 4096 / ty.bits
      let m := s.ctx.mask
      let old := s.ctx.getM d
      let x := fun (i : Nat) => (s.ctx.getV a).elem ty.bits i
      let y := fun (i : Nat) => (s.ctx.getV b).elem ty.bits i
      ∃ (k : MVal) (f : Flags), exec (p.1 t ty d a b) s = .next ((s.setCtx ((s.ctx.setM d k).raise f)).passed .V t 1) ∧
        (∀ i, i < 1024 → k.v.getLsbD i = (decide (i < n) && if m.v.getLsbD i then (p.2 (x i).code (y i).code).1 else old.v.getLsbD i)) ∧
        k.p = (m.p || (upTo n).any (fun i => m.v.getLsbD i && ((x i).p || (y i).p)) || (old.p && !(upTo n).all fun i => m.v.getLsbD i)) ∧
        ∀ j, f.getLsbD j = true ↔ m.p = false ∧ ∃ i, i < n ∧ m.v.getLsbD i = true ∧ (x i).p = false ∧ (y i).p = false ∧
          (p.2 (x i).code (y i).code).2.getLsbD j = true) ∧
    (∀ z : BitVec 2, (∀ r ∈ [e, a, b], r.toNat < s.ctx.demand) → s.ctx.mask.p = false →
      exec (.vsel t z e a b) s = .next (({ s with ctx := s.ctx.setV e ((s.ctx.getV e).write (8 * 2 ^ z.toNat)
        ((upTo (4096 / (8 * 2 ^ z.toNat))).map fun k => some ((s.ctx.getV (if s.ctx.mask.v.getLsbD k then a else b)).elem (8 * 2 ^ z.toNat) k))) }).passed
          .V t 1)) ∧
    (∀ k : MReg, exec (.vmsel t k) s = .next ((({ s with ctx := { s.ctx with msel := k } } : State)).passed .V t 1)) ∧
    (∀ p ∈ ([(.and, fun x y => x &&& y), (.or, fun x y => x ||| y), (.xor, fun x y => x ^^^ y), (.andn, fun x y => x &&& ~~~y)] :
        List (MLogOp × (BitVec 1024 → BitVec 1024 → BitVec 1024))),
      exec (.vmlog t p.1 d i j) s = .next
        ((s.setCtx (s.ctx.setM d ⟨p.2 (s.ctx.getM i).v (s.ctx.getM j).v, (s.ctx.getM i).p || (s.ctx.getM j).p⟩)).passed .V t 1)) ∧
    exec (.vmlog t .not d i j) s = .next (({ s with ctx := s.ctx.setM d ⟨~~~(s.ctx.getM i).v, (s.ctx.getM i).p⟩ }).passed .V t 1)

/-- R206 to R212: reductions write the scalar form of the active elements' result, poisoned where an active element or the mask is;
VPERM, VBCAST, VINS and VEXT move elements. -/
def Obligations.VectorReductionsAndMoves : Prop :=
  ∀ (t : Tok) (ty : VTy) (d a b : VReg) (x k : SReg) (s : State), s.issues .V t → d.toNat < s.ctx.demand →
    let w := ty.bits
    let m := s.ctx.mask
    let l := (s.ctx.getV a).elems w
    let p := m.p || l.zipIdx.any fun y => m.v.getLsbD y.2 && y.1.p
    (a.toNat < s.ctx.demand → ty.isInt = true →
      exec (.vredadd t ty d a) s = .next ((s.setCtx ((s.ctx.setV d
        (scalarForm (intCode 64 ((activeElems l m).map fun y => intVal w true y.code).sum) p)).raise 0)).passed .V t 1)) ∧
    (a.toNat < s.ctx.demand → ty.isFloat = true →
      let r := treeSum (Nat.log2 (4096 / w)) (l.zipIdx.map fun y => if m.v.getLsbD y.2 then (widen32 ty.float y.1.code).1 else 0x80000000)
      let f := r.2 ||| Val.sigFlags ((activeElems l m).map fun y => ty.float.val y.code)
      exec (.vredadd t ty d a) s = .next ((s.setCtx ((s.ctx.setV d (scalarForm r.1 p)).raise (if p then 0 else f))).passed .V t 1)) ∧
    (a.toNat < s.ctx.demand → ∀ q ∈ ([(.vredmax, true), (.vredmin, false)] : List ((Tok → VTy → VReg → VReg → Instr) × Bool)),
      exec (q.1 t ty d a) s = .next ((s.setCtx ((s.ctx.setV d (scalarForm (redBest q.2 ty l m).1 p)).raise
        (if p then 0 else (redBest q.2 ty l m).2))).passed .V t 1)) ∧
    (a.toNat < s.ctx.demand → b.toNat < s.ctx.demand →
      exec (.vperm t ty d a b) s = .next (({ s with ctx := s.ctx.put w d ((upTo (4096 / w)).map fun i =>
        let e := (s.ctx.getV b).elem w i
        let y := (s.ctx.getV a).elem w (if 4096 / w = 512 then i / 256 * 256 + e.code else e.code % (4096 / w))
        ⟨y.code, y.p || e.p, 0⟩) }).passed .V t 1)) ∧
    (∀ v : SVal, s.readS x = .ok v →
      exec (.vbcast t ty d x) s =
        .next (({ s with ctx := s.ctx.put w d (List.replicate (4096 / w) ⟨v.v.toNat % 2 ^ w, v.p, 0⟩) }).passed .V t 1) ∧
      (∀ n : SVal, s.readS k = .ok n →
        let y := (s.ctx.getV d).write w ((upTo (4096 / w)).map fun i => if i = n.v.toNat % (4096 / w) then some ⟨v.v.toNat % 2 ^ w, v.p⟩ else none)
        exec (.vins t ty d x k) s = .next (({ s with ctx := s.ctx.setV d (if n.p then ⟨y.v, BitVec.allOnes 128⟩ else y) }).passed .V t 1))) ∧
    (∀ n : SVal, a.toNat < s.ctx.demand → s.readS k = .ok n →
      let y := (s.ctx.getV a).elem w (n.v.toNat % (4096 / w))
      exec (.vext t ty d a k) s = .next ((s.setCtx (s.ctx.setV d
        (scalarForm (if ty.isFloat then y.code else intCode 64 (intVal w true y.code)) (y.p || n.p)))).passed .V t 1))

/-- R178, R179: a contiguous load of the own scratchpad, its range inside the allocation, fills the active elements of vD from their
bytes and changes neither memory nor another register; a contiguous store writes the bytes of the active elements and no other. -/
def Obligations.VectorScratchLoadsAndStores : Prop :=
  ∀ (t : Tok) (d : VReg) (a b : SReg) (z : BitVec 2) (s : State) (x y : Dword) (off : Nat), s.issues .V t → d.toNat < s.ctx.demand →
    s.ctx.gated .V = false → s.readS a = .ok ⟨x, false⟩ → s.readS b = .ok ⟨y, false⟩ → s.ctx.mask.p = false → s.ctx.prog.velem = 0 →
    s.ctx.vplan = none → s.ctx.slow = false → (x + y).toNat = off → off % 2 ^ z.toNat = 0 → off + 512 ≤ s.ctx.scrBytes → s.ctx.scrBytes ≤ 2097152 →
    let n := 2 ^ z.toNat
    let at_ := scrAt s.ctx.core (s.ctx.scrBase + off)
    (∃ u, exec (.vlds t d a b z) s = .next u ∧ u.mem = s.mem ∧ (u.ctx.stream .V).pos = (s.ctx.stream .V).pos + 1 ∧
      (∀ i, i < 512 / n → ((u.ctx.getV d).elem (8 * n) i).code = if s.ctx.mask.v.getLsbD i
        then leNat (s.mem.scrBytes s.ctx.core (s.ctx.scrBase + off + n * i) n) else ((s.ctx.getV d).elem (8 * n) i).code) ∧
      (∀ e, e ≠ d → u.ctx.getV e = s.ctx.getV e)) ∧
    (∃ u, exec (.vsts t d a b z) s = .next u ∧ u.ctx.v = s.ctx.v ∧ (u.ctx.stream .V).pos = (s.ctx.stream .V).pos + 1 ∧ u.mem.hbm = s.mem.hbm ∧
      (∀ k, k < 512 → cellRead u.mem.scr (at_ + k) =
        if s.ctx.mask.v.getLsbD (k / n) then elem 8 (s.ctx.getV d).v k else cellRead s.mem.scr (at_ + k)) ∧
      (∀ k, k < at_ ∨ at_ + 512 ≤ k → cellRead u.mem.scr k = cellRead s.mem.scr k))

/-- R178 to R181: with element k the only active one, a V memory word makes the checks of that element alone and then reads, stores or
updates its bytes in memory of the own package. Under any mask, a word checks its active elements in ascending order, those of one sector
as one piece in a contiguous word and each by itself in an indexed one; it performs the pieces up to the first element that fails, in
ascending order in an indexed word, and then completes with what they bring, or traps at that element; while a piece of another package is
unanswered it waits with STALL 11. -/
def Obligations.VectorMemoryWordsAtOneElement : Prop :=
  (∀ (t : Tok) (d : VReg) (a b : SReg) (e : VReg) (z : BitVec 2) (w64 : Bool) (op : VAtomOp) (s u w : State) (x y : Dword) (p : VPlan) (l : List VPiece),
    s.issues .V t → d.toNat < s.ctx.demand → s.ctx.gated .V = false → s.readS a = .ok ⟨x, false⟩ → s.ctx.mask.p = false →
    s.ctx.prog.velem = 0 → s.ctx.vplan = none → s.ctx.slow = false →
    let size := if w64 then 8 else 4
    let ends := fun (k : VKind) =>
      let c := if k.writes.isEmpty then w.ctx else w.ctx.putElems (8 * k.size) d (l.flatMap fun q => q.results k.size)
      match p.bad with
      | none => (w.setCtx c.vClear).passed .V t 1
      | some (tr, j) => (w.setCtx { c with vplan := none, prog := { c.prog with velem := j } }).takeTrap 1 (tr.atElem j)
    let runs := fun (i : Instr) (k : VKind) => u.vPieces k p.pieces = (w, l) →
      (l.all (fun q => q.got.isSome) = true → exec i s = .next (ends k)) ∧
      (l.any (fun q => q.req.isSome && q.got.isNone) = true → p.bad = none → exec i s = .next (w.setCtx
        ((({ w.ctx with vplan := some { p with pieces := l } } : Ctx).holds .V t t none (!k.inOrder && !k.writes.isEmpty)).stalled .V 11)))
    (s.readS b = .ok ⟨y, false⟩ → ∀ i ∈ ([(.vldg t d a b z, .load (2 ^ z.toNat) d), (.vstg t d a b z, .store (2 ^ z.toNat) d)] : List (Instr × VKind)),
      s.planFrom i.2 false s.ctx.mask (x + y) 512 0 [] = (u, p) → runs i.1 i.2) ∧
    (e.toNat < s.ctx.demand → ∀ i ∈ ([(.vgath t d a e w64, true, .gather size d), (.vgathg t d a e w64, false, .gather size d),
        (.vatom t op d a e, false, .atom op d)] : List (Instr × Bool × VKind)),
      s.planIdx i.2.2 i.2.1 e s.ctx.mask x 512 0 [] = (u, p) → runs i.1 i.2.2) ∧
    (e.toNat < s.ctx.demand → ∀ at_ : Nat → ScrPlace,
      (∀ i, i < 512 / size → s.ctx.mask.v.getLsbD i = true → ((s.ctx.getV e).elem 32 i).p = false ∧
        s.scratch (x + BitVec.ofNat 64 (((s.ctx.getV e).elem 32 i).code * size)) .load size size = .ok (at_ i)) →
      ∃ v, exec (.vgath t d a e w64) s = .next v ∧ v.mem = s.mem ∧
        v.ctx.getV d = (s.ctx.getV d).write (8 * size) ((upTo (4096 / (8 * size))).map fun i => if s.ctx.mask.v.getLsbD i
          then some ⟨leNat (s.mem.scrBytes (at_ i).core (at_ i).off size), s.mem.scrRangePoison (at_ i).core (at_ i).off size⟩ else none))) ∧
  (∀ (d e : VReg) (z : BitVec 2) (scr : Bool) (m : MVal) (a : Dword) (s : State),
    (∀ k ∈ [VKind.load (2 ^ z.toNat) d, VKind.store (2 ^ z.toNat) d],
      let r := s.planFrom k scr m a 512 0 []
      r.2.bad = none → (r.2.pieces.flatMap fun q => q.elems.map fun x => x.1) = (upTo (512 / k.size)).filter m.v.getLsbD ∧
        ∀ q ∈ r.2.pieces, ∀ x ∈ q.elems, x.2 = (x.1 - (q.elems.headD (0, 0)).1) * k.size ∧
          (a.toNat + x.1 * k.size) / 32 = (a.toNat + (q.elems.headD (0, 0)).1 * k.size) / 32) ∧
    (∀ k ∈ [VKind.gather 4 d, VKind.gather 8 d, VKind.atom .i32add d],
      let r := s.planIdx k scr e m a 512 0 []
      r.2.bad = none → r.2.pieces.all (fun q => !r.1.far q.place) = true →
        r.2.pieces.map (fun q => q.elems) = ((upTo (512 / k.size)).filter m.v.getLsbD).map fun i => [(i, 0)])) ∧
  (∀ (k : VKind) (q : VPiece) (rest : List VPiece) (s : State), q.untouched = true → (s.vPiece k q).2.got.isSome = true →
    s.vPieces k (q :: rest) = (((s.vPiece k q).1.vPieces k rest).1, (s.vPiece k q).2 :: ((s.vPiece k q).1.vPieces k rest).2)) ∧
  ∀ (t : Tok) (d : VReg) (a b : SReg) (e : VReg) (z : BitVec 2) (s u : State) (x y : Dword) (k : Nat) (g : Global), s.issues .V t →
    d.toNat < s.ctx.demand → s.ctx.gated .V = false → s.readS a = .ok ⟨x, false⟩ → s.ctx.mask = ⟨BitVec.ofNat 1024 (2 ^ k), false⟩ →
    s.ctx.prog.velem = 0 → s.ctx.vplan = none → s.ctx.slow = false → u.remote g = false →
    let write := fun (v : State) (n : Nat) (c : VElem) => ({ v with ctx := (v.ctx.putElems (8 * n) d [(k, c)]).vClear }).passed .V t 1
    (s.readS b = .ok ⟨y, false⟩ → k < 512 / 2 ^ z.toNat →
      (s.access (x + y + BitVec.ofNat 64 (k * 2 ^ z.toNat)) .load (2 ^ z.toNat) = (u, .ok g) →
        let r := u.loadBytes g (2 ^ z.toNat)
        exec (.vldg t d a b z) s = .next (write r.2.2 (2 ^ z.toNat) ⟨leNat (r.1.take (2 ^ z.toNat)), r.2.1⟩)) ∧
      (s.access (x + y + BitVec.ofNat 64 (k * 2 ^ z.toNat)) .store (2 ^ z.toNat) = (u, .ok g) →
        let c := (s.ctx.getV d).elem (8 * 2 ^ z.toNat) k
        let v := u.storeBytes g (natBytes (2 ^ z.toNat) c.code) c.p
        exec (.vstg t d a b z) s = .next (({ v with ctx := v.ctx.vClear }).passed .V t 1))) ∧
    (e.toNat < s.ctx.demand →
      let i := (s.ctx.getV e).elem 32 k
      let at_ := fun (n : Nat) => x + BitVec.ofNat 64 (i.code * n)
      i.p = false →
      (∀ w64 : Bool, let n := if w64 then 8 else 4
        k < 512 / n →
        (∀ q, s.scratch (at_ n) .load n n = .ok q → ∃ v, exec (.vgath t d a e w64) s = .next v ∧ v.mem = s.mem ∧
          v.ctx.getV d = (s.ctx.getV d).write (8 * n) ((upTo (4096 / (8 * n))).map fun j => if j = k
            then some ⟨leNat (s.mem.scrBytes q.core q.off n), s.mem.scrRangePoison q.core q.off n⟩ else none)) ∧
        (s.access (at_ n) .load n = (u, .ok g) → s.samePackage x (at_ n) = true → ∃ v, exec (.vgathg t d a e w64) s = .next v ∧
          v.mem = (u.loadBytes g n).2.2.mem ∧ v.ctx.getV d = (s.ctx.getV d).write (8 * n) ((upTo (4096 / (8 * n))).map fun j => if j = k
            then some ⟨leNat (u.loadBytes g n).1, (u.loadBytes g n).2.1⟩ else none))) ∧
      (∀ op : VAtomOp, let n := vatomSize op
        k < 512 / n → s.access (at_ n) .atomic n = (u, .ok g) → s.samePackage x (at_ n) = true →
        let w := u.atomicSite g
        ∃ v, exec (.vatom t op d a e) s = .next v ∧
          v.mem = (w.siteWrite g n (vatomNew op (w.siteRead g n).1 ((s.ctx.getV d).elem (8 * n) k).code)
            ((w.siteRead g n).2 || ((s.ctx.getV d).elem (8 * n) k).p)).mem ∧
          v.ctx.getV d = (s.ctx.getV d).write (8 * n) ((upTo (4096 / (8 * n))).map fun j => if j = k
            then some ⟨(w.siteRead g n).1, (w.siteRead g n).2⟩ else none)))

/-! Words of M (08) -/

/-- R214, R215, R217, R218, R227: a product whose checks find nothing, and which has its leave where it needs it, takes its tile and its place
among the array words under way. R82, R83, R220 to R225, R228, R235: a turn of the array multiplies it into its tile: each element of a
row takes its K products in ascending k, A and B read and scaled where the rules place them, and no other tile changes; the word's last turn
applies its pushes. A group of float products is added exactly and rounded once; integer products wrap. That issuing, and working in the
array, are turns of their own is the model's reading (log 25). -/
def Obligations.ProductsIssueAndComplete : Prop :=
  (∀ (t : Tok) (ty : MTy) (tile : TileNo) (a b sc ct : SReg) (va vb : VReg) (z : Bool) (k : KLen) (g : Gran) (gm1 : BitVec 6)
     (s : State) (xs es ys : List Dword), s.issues .M t → tile.toNat < s.ctx.tiles → ys.length = (if g = .none then 0 else 1) → s.ctx.held = [] →
     (s.ctx.tileBusy [tile.toNat] = false ∨ s.ctx.jobs.length < 2) →
     let scs := if g = .none then [] else [sc]
     let product := fun (fam : MFam) (regs : List Dword) => Product.mk fam ty tile.toNat z k.toNat g regs (ys.getD 0 0)
     let array := fun (w : Product) (counts : List Nat) => Host.Outcome.next (φ := Fault) (ρ := Refusal) (({ s with ctx := { s.ctx with
       leaves := s.ctx.leaves.filter (·.e != .M)
       jobs := s.ctx.jobs ++ ([⟨s.ctx.streams.m.pos, w, counts, Vector.replicate 6 NestLevel.zero, 0, 1, 0, t, [tile.toNat], s.ctx.leaveHeld .M⟩] :
         List MJob) } } : State).issued .M t 2)
     ((∀ r ∈ mmaRegs ty va k ++ mmaRegs ty vb k, r.toNat < s.ctx.demand) → (g ≠ .none → s.ctx.gated .M = false) → s.reads scs ys →
       s.ctx.vOwes (mmaRegs ty va k ++ mmaRegs ty vb k) = false → s.productChecks (product (.mma va vb) []) .zero = none →
       exec (.mma t ty tile va vb z k g sc) s = array (product (.mma va vb) []) [64]) ∧
     (∀ p ∈ ([(.mmas t ty tile a b z k g sc, [], fun _ => .mmas, fun _ => [64]),
         (.mgrp t ty tile a b z k g sc gm1 ct, [ct], fun e => .mgrp gm1.toNat (e.getD 0 0), fun e =>
           (s.mem.scrBytes s.ctx.core (s.ctx.scrBase + (e.getD 0 0).toNat % 2 ^ 32) (gm1.toNat + 1)).map (·.toNat))] :
         List (Instr × List SReg × (List Dword → MFam) × (List Dword → List Nat))),
       s.ctx.gated .M = false → xs.length = 4 → es.length = p.2.1.length → s.reads ([a, a + 1, b, b + 1] ++ p.2.1 ++ scs) (xs ++ es ++ ys) →
       s.productChecks (product (p.2.2.1 es) xs) .zero = none →
       (512 < k.toNat → ∃ r, s.ctx.leaves.find? (·.e == .M) = some r ∧ r.granted = true) → exec p.1 s = array (product (p.2.2.1 es) xs) (p.2.2.2 es))) ∧
  (∀ (s : State) (n : Nat) (j : MJob), s.ctx.jobs[n]? = some j → (∀ i ∈ s.ctx.jobs.take n, ∀ x ∈ j.tiles, x ∉ i.tiles) →
     let u := s.runProduct j.product j.counts (nestShift j.levels j.n j.it)
     (j.it + 1 < j.total → s.runJob n = u.setCtx { u.ctx with jobs := u.ctx.jobs.set n { j with it := j.it + 1 } }) ∧
     (j.total ≤ j.it + 1 → (s.runJob n).ctx = { u.ctx with tok := pushAll u.ctx.tok .M j.push, jobs := u.ctx.jobs.eraseIdx n } ∧
       { s.runJob n with ctx := s.ctx, pkg := s.pkg } = { u with ctx := s.ctx, pkg := s.pkg })) ∧
  (∀ (s : State) (w : Product) (h : Shift) (counts : List Nat), w.fam ≠ .mmar → s.productChecks w h = none → counts.sum ≤ 64 → w.tileAt h < 96 →
     let u := s.runProduct w counts h
     let old := s.ctx.getA (w.tileAt h)
     let new := u.ctx.getA (w.tileAt h)
     u = s.setCtx u.ctx ∧ u.ctx = { s.ctx with a := u.ctx.a, regs := { s.ctx.regs with flags := u.ctx.regs.flags } } ∧
     (∀ x, x ≠ w.tileAt h → u.ctx.getA x = s.ctx.getA x) ∧
     ∀ i c, i < 64 → c < 64 →
       (counts.sum ≤ i → new.get i c = old.get i c ∧ new.p.getLsbD i = old.p.getLsbD i) ∧
       ∀ x ∈ groupRows counts, x.2.2 ≤ i → i < x.2.2 + x.2.1 →
         new.get i c = accumulate w.ty (if w.z then 0 else old.get i c) (upTo w.k) (w.codeA s.mem s.ctx h i) (w.codeB s.mem s.ctx h x.1 c)
           (w.valA s.mem s.ctx h i) (w.valB s.mem s.ctx h x.1 c) ∧
         (new.p.getLsbD i = true ↔ (w.z = false ∧ old.p.getLsbD i = true) ∨ ∃ sl, sl < sliceCount w.k ∧
           ((w.linesA s.mem s.ctx h i sl (sliceLen w.k sl)).p = true ∨ ∃ l, l < 64 ∧ (w.linesB s.mem s.ctx h x.1 l sl (sliceLen w.k sl)).p = true))) ∧
  (∀ (g acc : Nat) (ps qs : List (Val × Val)), (0 < g → g ∣ ps.length → (dotFloat g acc (ps ++ qs)).1 = (dotFloat g (dotFloat g acc ps).1 qs).1) ∧
     ∀ (l : List ((Bool × Nat × Int) × Bool × Nat × Int)) (n : Bool) (m : Nat) (e q : Int), l ≠ [] → l.length ≤ g → FFmt.fp32.val acc = .fin n m e false →
       ps = l.map (fun x => (.fin x.1.1 x.1.2.1 x.1.2.2 false, .fin x.2.1 x.2.2.1 x.2.2.2 false)) → q ≤ 0 → q ≤ e → (∀ x ∈ l, q ≤ x.1.2.2 + x.2.2.2) →
       ∃ (n' : Bool) (m' : Nat) (e' : Int), q ≤ e' ∧ (dotFloat g acc ps).1 = (rne .fp32 (.fin n' m' e' false)).1 ∧ alignInt n' m' e' q =
         alignInt n m e q + (l.map fun x => alignInt (x.1.1 != x.2.1) (x.1.2.1 * x.2.2.1) (x.1.2.2 + x.2.2.2) q).sum) ∧
  (∀ (acc : Nat) (ps : List (Int × Int)), (dotInt acc ps : Int) = (acc + (ps.map fun x => x.1 * x.2).sum) % 2 ^ 32) ∧
  (let v := fun (x : Int) => Val.ofInt x
   (dotFloat 4 0 ([(4096, 4096), (1, 1), (1, 1), (1, 1), (-4096, 4096), (1, 1), (1, 1), (1, 1)].map fun (x : Int × Int) => (v x.1, v x.2))).1 = 0x40E00000)

/-- R107, R217, R231 to R234: MMAQ issues by taking its hold, entering its core's queue with its pops made, and then waits there with STALL 14; an
MMAR issues where it sees M_PREFETCH by taking its hold, and a turn of it then zeroes its tile once, reads a slice of A-lines and multiplies it
in; before its last slice it goes on holding, and with the last it raises its flags and completes. That both hold M until they complete, that
a turn of an MMAR takes one slice, that Z goes with the first, and that its flags are raised as it completes are the model's choices (log 25). -/
def Obligations.QueuedAndRemoteProducts : Prop :=
  (∀ (t : Tok) (ty : MTy) (tile : TileNo) (a b sc : SReg) (z : Bool) (k : KLen) (g : Gran) (seq : BitVec 9) (s : State) (xs ys : List Dword),
     tile.toNat < s.ctx.tiles → s.ctx.gated .M = false → xs.length = 4 → ys.length = (if g = .none then 0 else 1) →
     s.reads ([a, a + 1, b, b + 1] ++ (if g = .none then [] else [sc])) (xs ++ ys) →
     let product := fun (fam : MFam) => Product.mk fam ty tile.toNat z k.toNat g xs (ys.getD 0 0)
     let taken : Ctx := (({ s.ctx with held := [tile] } : Ctx).holds .M t t none false).stalled .M 14
     let word : QuartetWord := ⟨s.ctx.core, s.ctx.inst, s.ctx.asid, t, ty, tile, z, k.toNat, g, seq, xs, ys.getD 0 0⟩
     (s.issues .M t → s.ctx.held = [] → (512 < k.toNat → ∃ r, s.ctx.leaves.find? (·.e == .M) = some r ∧ r.granted = true) →
       (s.productChecks (product (.mmaq seq)) .zero = none →
         exec (.mmaq t ty tile a b z k g sc seq) s = .next ({ s with quartet := s.quartet ++ [word] }.setCtx taken)) ∧
       (s.productChecks (product .mmar) .zero = none →
         (∀ d, s.ctx.seen .M 0x008 (BitVec.ofNat 64 s.ctx.regs.mpref) = .ok d → exec (.mmar t ty tile a b z k g sc) s = .next (s.setCtx taken)) ∧
         (∀ e, s.ctx.seen .M 0x008 (BitVec.ofNat 64 s.ctx.regs.mpref) = .error e →
           exec (.mmar t ty tile a b z k g sc) s = .next (s.setCtx (s.ctx.stalled .M e))))) ∧
     (∀ r, s.running .M r → s.ctx.held ≠ [] →
       exec (.mmaq t ty tile a b z k g sc seq) s = .next (s.holding .M r 14) ∧
       (s.ctx.tileBusy [tile.toNat] = false → s.ctx.slow = false →
         let w := product .mmar
         let v := if s.ctx.prog.miter = 0 then s.setCtx { (if z then s.ctx.setA tile.toNat ((s.ctx.getA tile.toNat).zeroRows fun _ => true) else s.ctx)
           with prog := { s.ctx.prog with miter := 1 } } else s
         let asked := if v.ctx.slices = [] then v.askAhead w 0 else v
         ∀ x rest, asked.ctx.slices = x :: rest → x.fault = none →
           ((∃ p ∈ x.parts, p.got = none) → exec (.mmar t ty tile a b z k g sc) s = .next (asked.holding .M r 14)) ∧
           ((∀ p ∈ x.parts, p.got ≠ none) →
             let u := asked.applyMmar w x
             (u.ctx.prog.mslice < sliceCount k.toNat → exec (.mmar t ty tile a b z k g sc) s = .next (u.holding .M r 14)) ∧
             (sliceCount k.toNat ≤ u.ctx.prog.mslice →
               exec (.mmar t ty tile a b z k g sc) s = .next ((u.setCtx (u.ctx.raise u.ctx.prog.mflags)).mDone.finished .M r 2)))))) ∧
  (∀ (s : State) (w : Product) (x : MSlice), w.fam = .mmar → s.productChecks w .zero = none → w.tile < 96 → s.ctx.prog.mslice < sliceCount w.k →
     let u := s.applyMmar w x
     let sl := s.ctx.prog.mslice
     let n := sliceLen w.k sl
     let old := s.ctx.getA w.tile
     let code := fun (i k : Nat) => (x.line w.ty n i).1.getD (k - 64 * sl) 0
     let scale := fun (i k : Nat) => (w.scale .zero).map fun y => s.mem.scaleAt s.ctx.scrBaseOf y.g (y.a + match y.g with
       | .b48 => i * y.count + k / 48
       | .row => 4 * i
       | _ => 0)
     u = s.setCtx u.ctx ∧ u.ctx = { s.ctx with a := u.ctx.a, prog := u.ctx.prog, slices := s.ctx.slices.drop 1 } ∧ u.ctx.prog.mslice = sl + 1 ∧
     u.ctx.prog.miter = s.ctx.prog.miter ∧ (∀ y, y ≠ w.tile → u.ctx.getA y = s.ctx.getA y) ∧
     ∀ i c, i < 64 → c < 64 → (u.ctx.getA w.tile).get i c = accumulate w.ty (old.get i c) ((upTo n).map (64 * sl + ·)) (code i)
       (w.codeB s.mem s.ctx .zero 0 c) (fun k => underScale (w.ty.fmt.float.val (code i k)) (scale i k)) (w.valB s.mem s.ctx .zero 0 c))

/-- R217, R236, R237: MNCFG writes a level of the shadow table; MNEST with the MMAS after it does nothing where a count is 0, else it makes the
shadow table the active one and takes its place in the array with its tiles, to run its iterations there (log 25). -/
def Obligations.NestWords : Prop :=
  ∀ (t : Tok) (l n : BitVec 3) (a b sc : SReg) (count : BitVec 16) (acc : Byte) (ty : MTy) (tile : TileNo) (z : Bool) (k : KLen) (g : Gran) (s : State)
    (x y : Dword), s.issues .M t →
    (s.reads [a, b] [x, y] → l.toNat < 6 → ∃ u : State, exec (.mncfg t l a b count acc) s = .next (u.passed .M t 2) ∧
      u = s.setCtx { s.ctx with shadow := u.ctx.shadow } ∧ nestLevel u.ctx.shadow l.toNat =
        ⟨x.extractLsb' 0 32, x.extractLsb' 32 32, y.extractLsb' 0 32, y.extractLsb' 32 32, count, acc⟩ ∧
      ∀ i, i ≠ l.toNat → nestLevel u.ctx.shadow i = nestLevel s.ctx.shadow i) ∧
    (∀ (u : State) (w lit : Word) (xs ys : List Dword), s.codeAt (s.ctx.streams.m.pc + 4) = (u, .ok (w, lit)) →
      decodeWord w lit = .ok (.mmas Tok.none ty tile a b z k g sc) → Engine.ofCode (Header.unpack w).eng = .M →
      (Header.unpack w).op.extractLsb' 4 3 = 1 → isWide w = true → u.issues .M t → tile.toNat < u.ctx.tiles → u.ctx.gated .M = false →
      let v := u.ctx.shadow
      let total := nestTotal v n.toNat
      (total = 0 → exec (.mnest t n) s = .next ((u.setCtx { u.ctx with active := v }).passed .M t 3)) ∧
      (xs.length = 4 → ys.length = (if g = .none then 0 else 1) → u.reads ([a, a + 1, b, b + 1] ++ (if g = .none then [] else [sc])) (xs ++ ys) →
        let p : Product := ⟨.mmas, ty, tile.toNat, z, k.toNat, g, xs, ys.getD 0 0⟩
        let tiles := (upTo 96).filter fun c => (upTo total).any fun it => p.tileAt (nestShift v n.toNat it) == c
        total ≠ 0 → u.nestChecks p v n.toNat total 0 = none → (∃ r, u.ctx.leaves.find? (·.e == .M) = some r ∧ r.granted = true) →
        (u.ctx.tileBusy tiles = false ∨ u.ctx.jobs.length < 2) →
        exec (.mnest t n) s = .next (({ u with ctx := { u.ctx with
          active := v
          leaves := u.ctx.leaves.filter (·.e != .M)
          jobs := u.ctx.jobs ++ ([⟨u.ctx.streams.m.pos, p, [64], v, n.toNat, total, 0, t, tiles, u.ctx.leaveHeld .M⟩] : List MJob) } } : State).issued
            .M t 3)))

/-- R217, R238 to R242: MZERO zeroes its tiles; MTOV, MFROMV, MSTORE and MLOADACC move rows between a tile and a register or scratchpad, once no
array word under way holds or reads what they need. -/
def Obligations.TileMoves : Prop :=
  ∀ (t : Tok) (tile : TileNo) (d : VReg) (a b : SReg) (s : State) (v : Dword), s.issues .M t → tile.toNat < 96 → tile.toNat < s.ctx.tiles →
    (∀ nm1 : BitVec 5, tile.toNat + nm1.toNat < s.ctx.tiles → s.ctx.tiles ≤ 96 →
      let ts := (upTo (nm1.toNat + 1)).map (tile.toNat + ·)
      ts.all (fun k => !s.ctx.copyaHolds k) = true → s.ctx.tileBusy ts = false →
      ∃ u : State, exec (.mzero t tile nm1) s = .next (u.passed .M t 1) ∧ u = s.setCtx { s.ctx with a := u.ctx.a } ∧
        ∀ k, u.ctx.getA k = if tile.toNat ≤ k ∧ k ≤ tile.toNat + nm1.toNat then ⟨0, 0⟩ else s.ctx.getA k) ∧
    (∀ x : ConvDesc, convDesc v = some x →
      (s.reads [b] [v] → d.toNat < s.ctx.demand → s.ctx.tileBusy [tile.toNat] = false → s.ctx.jobReadsV [d] = false →
        exec (.mtov t tile d b) s = .next ((s.setCtx ((s.ctx.setV d ((s.ctx.getV d).write
        x.fmt.regBits ((upTo x.fmt.tileRows).flatMap fun j => (((s.ctx.getA tile.toNat).convRow x (x.row0 + j)).1.map fun c =>
          some ⟨c, (s.ctx.getA tile.toNat).p.getLsbD (x.row0 + j)⟩)))).raise (Flags.all ((upTo x.fmt.tileRows).map fun j =>
            ((s.ctx.getA tile.toNat).convRow x (x.row0 + j)).2)))).passed .M t 1)) ∧
      (s.reads [b] [v] → d.toNat < s.ctx.demand → x.rm = .rne → x.sinv = false → x.fmt ≠ .fp8e4 → x.fmt ≠ .fp8e5 → s.ctx.copyaHolds tile.toNat = false →
        s.ctx.vOwes [d] = false → s.ctx.tileBusy [tile.toNat] = false →
        ∀ ad : Bool, ∃ u : State, exec (.mfromv t tile d b ad) s = .next (u.passed .M t 1) ∧ u.mem = s.mem ∧ u.ctx.v = s.ctx.v ∧
          (∀ i, i < 64 → (i < x.row0 ∨ x.row0 + x.fmt.tileRows ≤ i) → (u.ctx.getA tile.toNat).row i = (s.ctx.getA tile.toNat).row i) ∧
          (∀ i j, x.row0 ≤ i → i < x.row0 + x.fmt.tileRows → i < 64 → j < 64 →
            let c := (widenTile x.fmt ((s.ctx.getV d).elem x.fmt.regBits (64 * (i - x.row0) + j)).code).1
            let o := (s.ctx.getA tile.toNat).get i j
            (u.ctx.getA tile.toNat).get i j = (if !ad then c else if x.fmt.isInt then o + c else (fpAdd .fp32 o c).1) % 2 ^ 32) ∧
          (let old := s.ctx.getA tile.toNat
           let el := fun (i j : Nat) => (s.ctx.getV d).elem x.fmt.regBits (64 * (i - x.row0) + j)
           let hot := fun (i : Nat) => (upTo 64).any (fun j => (el i j).p) || (ad && (old.row i).2)
           (∀ i, x.row0 ≤ i → i < x.row0 + x.fmt.tileRows → i < 64 → ((u.ctx.getA tile.toNat).row i).2 = hot i) ∧
           u = s.setCtx ((s.ctx.setA tile.toNat (u.ctx.getA tile.toNat)).raise (Flags.all ((upTo 64).map fun i =>
            if x.row0 ≤ i ∧ i < x.row0 + x.fmt.tileRows ∧ hot i = false then Flags.all ((upTo 64).map fun j =>
              (widenTile x.fmt (el i j).code).2 ||| (if ad && !x.fmt.isInt then (fpAdd .fp32 (old.get i j) (widenTile x.fmt (el i j).code).1).2 else 0))
            else 0)))) ∧
          (∀ k, k ≠ tile.toNat → u.ctx.getA k = s.ctx.getA k)) ∧
      (∀ (y0 y1 : Dword) (o : MOperand), s.ctx.gated .M = false → s.reads [a, a + 1, b] [y0, y1, v] → x.row0 = 0 →
        s.placeChecks y0 y1 .store (x.fmt.regBits / 8) = .ok o → s.ctx.tileBusy [tile.toNat] = false →
        s.ctx.jobsRead ((upTo 64).flatMap (rowChunks o (x.fmt.regBits / 8))) = false →
        let m := (upTo 64).foldl (fun (m : Memory) i =>
          (rowChunks o (x.fmt.regBits / 8) i).zipIdx.foldl (fun (m : Memory) c => m.scrWrite s.ctx.core (s.ctx.scrBase + c.1.1)
            (((((s.ctx.getA tile.toNat).convRow x i).1.flatMap (natBytes (x.fmt.regBits / 8))).drop (32 * c.2)).take c.1.2)
            ((s.ctx.getA tile.toNat).p.getLsbD i)) m) s.mem
        exec (.mstore t tile a b) s = .next (({ s with
          mem := m
          ctx := s.ctx.raise (Flags.all ((upTo 64).map fun i => ((s.ctx.getA tile.toNat).convRow x i).2)) } : State).passed .M t 1))) ∧
    (∀ (y0 y1 : Dword) (o : MOperand), s.ctx.gated .M = false → s.reads [a, a + 1] [y0, y1] → s.placeChecks y0 y1 .load 4 = .ok o →
      s.ctx.copyaHolds tile.toNat = false → s.ctx.tileBusy [tile.toNat] = false →
      exec (.mloadacc t tile a) s = .next ((s.setCtx (s.ctx.setA tile.toNat (Tile.ofRows ((upTo 64).map fun i =>
        let r := s.mem.chunkBytes s.ctx.scrBaseOf (rowChunks o 4 i)
        ((upTo 64).map fun c => natField (leNat r.1) (32 * c) 32, r.2))))).passed .M t 1))

/-! Control words (05) and words of Harius threads (14) -/

/-- R116, R117, R121 to R124: NOP, PREP, END, TRAP and the two rendezvous on S. A rendezvous lets every active stream pass at once
when all stand at S's position and nothing is outstanding; YIELD parks the context where the wait ahead does not yet hold. -/
def Obligations.ControlWordsOnS : Prop :=
  ∀ (r : BReg) (lit : Word) (n : BitVec 4) (s : State), s.agent = .stream .S →
    exec .nop s = .next (s.setCtx (s.ctx.onStream .S (·.advance 1))) ∧
    (let dest := s.ctx.streams.s.pc + lit.signExtend 64
     (lit.extractLsb' 0 2 = 0 → s.ctx.code.toNat ≤ dest.toNat → dest.toNat < s.ctx.code.toNat + 2 ^ 33 →
       exec (.prep r lit) s = .next (s.setCtx { s.ctx.onStream .S (·.advance 2) with sf := s.ctx.sf.setB r dest })) ∧
     (lit.extractLsb' 0 2 = 0 → (dest.toNat < s.ctx.code.toNat ∨ s.ctx.code.toNat + 2 ^ 33 ≤ dest.toNat) →
       exec (.prep r lit) s = .next (s.takeTrap 2 (memTrap 0x31 .fetch false 7 dest))) ∧
     (lit.extractLsb' 0 2 ≠ 0 → exec (.prep r lit) s = .next (s.takeTrap 2 (Trap.withDetail 0x03 (Instr.firstWord (.prep r lit)).toNat)))) ∧
    exec .endTask s = .next (s.setCtx (s.ctx.passEnd .S)) ∧
    exec (.trap n) s = .next (s.takeTrap 1 (Trap.withDetail (BitVec.ofNat 8 (0x70 + n.toNat)) n.toNat)) ∧
    (s.ctx.met = true →
      exec .align s = .next (s.setCtx s.ctx.passAll) ∧
      ((s.waitAhead 64 (s.ctx.streams.s.pc + 4)).bind ({ s with agent := .stream .Y } : State).waitOf = none →
        exec .yield s = .next (s.setCtx s.ctx.passAll)) ∧
      (∀ w t, (s.waitAhead 64 (s.ctx.streams.s.pc + 4)).bind ({ s with agent := .stream .Y } : State).waitOf = some (w, t) →
        exec .yield s = .next (({ t with agent := s.agent, ctx := t.ctx.passAll } : State).park w))) ∧
    (s.ctx.met = false → exec .align s = .next (s.setCtx (s.ctx.stalled .S 4)) ∧ exec .yield s = .next (s.setCtx (s.ctx.stalled .S 4)))

/-- R116, R117, R121, R123, R125, R347: the control words of a Harius thread. END ends it; so does ERET, which resumes the trapped
context that TARGET names. R118 to R120 on a Harius thread. -/
def Obligations.ControlWordsOfThreads : Prop :=
  (∀ (r : BReg) (lit : Word) (n : BitVec 4) (s : State), s.agent = .thread →
     exec .nop s = .next s.afterN ∧
     (lit.extractLsb' 0 2 = 0 → inBound s.thr.entry (s.thr.pc + lit.signExtend 64) = true →
       exec (.prep r lit) s = .next { s with thr := { s.thr.advance 2 with sf := s.thr.sf.setB r (s.thr.pc + lit.signExtend 64) } }) ∧
     (lit.extractLsb' 0 2 = 0 → inBound s.thr.entry (s.thr.pc + lit.signExtend 64) = false → exec (.prep r lit) s = .next
       (s.endThread (some (memTrap 0x31 .fetch false 7 (s.thr.pc + lit.signExtend 64))))) ∧
     (lit.extractLsb' 0 2 ≠ 0 → exec (.prep r lit) s = .next (s.endThread (some (Trap.withDetail 0x03 (Instr.firstWord (.prep r lit)).toNat)))) ∧
     exec .endTask s = .next (s.endThread none) ∧
     exec (.trap n) s = .next (s.endThread (some (Trap.withDetail (BitVec.ofNat 8 (0x70 + n.toNat)) n.toNat))) ∧
     (∀ c, s.target = some c → c.regs.trapped = true → exec .eret s = .next ((s.onCtx c.inst Ctx.resume).endThread none)) ∧
     (s.target = none → exec .eret s = .next (s.endThread (some (whyTrap 12))))) ∧
  (∀ (r : BReg) (q : PReg) (k : SReg) (s : State), s.agent = .thread →
     (∀ p ∈ ([(.br r, false, true), (.brl r, true, true), (.checkP r q, false, (s.thr.sf.getP q).p),
         (.checkS r k, false, (s.thr.sf.getS k).p)] : List (Instr × Bool × Bool)),
       exec p.1 s = .next { s with thr := s.thr.branched r p.2.1 p.2.2 }) ∧
     ((s.thr.sf.getP q).p = false →
       ∀ p ∈ ([(.brT r q, false, (s.thr.sf.getP q).v), (.brF r q, false, !(s.thr.sf.getP q).v), (.brlT r q, true, (s.thr.sf.getP q).v),
           (.brlF r q, true, !(s.thr.sf.getP q).v)] : List (Instr × Bool × Bool)),
         exec p.1 s = .next { s with thr := s.thr.branched r p.2.1 p.2.2 }) ∧
     ((s.thr.sf.getS k).p = false →
       let t : Thread := { s.thr with sf := s.thr.sf.setS k ⟨(s.thr.sf.getS k).v - 1, false⟩ }
       ∀ p ∈ ([(.brDnz r k, false), (.brlDnz r k, true)] : List (Instr × Bool)),
         exec p.1 s = .next { s with thr := t.branched r p.2 ((s.thr.sf.getS k).v - 1 != 0) }))

/-- R94, R118 to R120: a branch on S goes to the target where its condition holds and to the next word where not, leaves the
decision for the streams behind it, and writes b7 with the next address where it is a taken BRL. CHECK tests poison alone. -/
def Obligations.BranchesDecideForAllStreams : Prop :=
  ∀ (r : BReg) (q : PReg) (k : SReg) (v : VReg) (m : MReg) (s : State), s.agent = .stream .S → s.ctx.fifo.length < 256 →
    (∀ p ∈ ([(.br r, false, true), (.brl r, true, true), (.checkP r q, false, (s.ctx.sf.getP q).p)] : List (Instr × Bool × Bool)),
      exec p.1 s = .next (s.setCtx (s.ctx.branched r p.2.1 p.2.2))) ∧
    ((s.ctx.sf.getP q).p = false →
      ∀ p ∈ ([(.brT r q, false, (s.ctx.sf.getP q).v), (.brF r q, false, !(s.ctx.sf.getP q).v), (.brlT r q, true, (s.ctx.sf.getP q).v),
          (.brlF r q, true, !(s.ctx.sf.getP q).v)] : List (Instr × Bool × Bool)),
        exec p.1 s = .next (s.setCtx (s.ctx.branched r p.2.1 p.2.2))) ∧
    ((s.ctx.sf.getP q).p = true →
      ∀ i ∈ ([.brT r q, .brF r q, .brlT r q, .brlF r q] : List Instr), exec i s = .next (s.takeTrap 1 (fretTrap 0 q.toNat 1 none))) ∧
    (s.sWaits [k] = false → (s.ctx.sf.getS k).p = false → s.ctx.versionsFull k = false →
      let x := (s.ctx.sf.getS k).v
      let c : Ctx := { s.ctx with hist := if k = 0 then s.ctx.hist else s.ctx.histAfter k, sf := s.ctx.sf.setS k ⟨x - 1, false⟩ }
      exec (.brDnz r k) s = .next (s.setCtx (c.branched r false (x - 1 != 0))) ∧
      exec (.brlDnz r k) s = .next (s.setCtx (c.branched r true (x - 1 != 0)))) ∧
    (s.sWaits [k] = false → exec (.checkS r k) s = .next (s.setCtx (s.ctx.branched r false (s.ctx.sf.getS k).p))) ∧
    (v.toNat < s.ctx.demand → s.ctx.vmOwed v.toNat = false →
      exec (.checkV r v) s = .next (s.setCtx (s.ctx.branched r false ((s.ctx.getV v).p != 0)))) ∧
    (s.ctx.vmOwed (32 + m.toNat) = false → exec (.checkM r m) s = .next (s.setCtx (s.ctx.branched r false (s.ctx.getM m).p)))

/-- R34, R375: S of a compute core traps at every N word with ILLEGAL_ENGINE; on a Harius thread a poisoned operand of one, the first
in the order of the word, is a fret that ends the thread. That order, and SITE 1 for an operand that is no address, are the model's
choice (log 69). -/
def Obligations.TaskWordsRunOnThreadsOnly : Prop :=
  ∀ (d a b : SReg) (f : PegField) (k : RegKind) (o : MapOp) (x : Bool) (s : State),
    let words : List (Instr × List SReg) := [(.narm a b, [a, b]), (.ndisarm d a, [a]), (.pegset a b f, [a, b]), (.pegadd d a b, [a, b]),
      (.pegrd d a f, [a]), (.nlaunch d a b, [a, b]), (.ngang d a b, [a, b]), (.nfreeze, []), (.nthaw, []), (.nsave d a x, [a]), (.nload d a, [a]),
      (.nmap a b o, [a, b]), (.nreg d a b k, [a, b]), (.nrevoke a b k, [a, b]), (.nsend a b, [a, b]), (.npost a b, [a, b]), (.nrmaw a b, [a, b]),
      (.nrmar a b, [a, b]), (.natom a b x, [a, b]), (.ncoll a x, [a]), (.nrearm a b, [a, b]), (.nhash a b, [a, b]), (.nsign d a b, [a, b, d]),
      (.nrand d, [])]
    (s.agent = .stream .S → ∀ w ∈ words, exec w.1 s = .next (s.takeTrap 1 (Trap.withDetail causeEngine (Instr.firstWord w.1).toNat))) ∧
    (s.agent = .thread → ∀ w ∈ words, ∀ vs y, s.readAll w.2 = .ok vs → (w.2.zip vs).find? (fun p => p.2.p) = some y →
      exec w.1 s = .next (s.endThread (some (fretTrap 1 y.1.toNat 0 none))))

/-- R375 to R377, R354: NARM installs a checked entry, NDISARM removes one, waits for the arrivals that it has taken, and answers whether it was
valid; peg words write, add to and
read a field, and a peg whose count has reached its threshold then acts. R352 to R354: a peg whose count stays below its
threshold, or that is not armed, does nothing but change its field. -/
def Obligations.PegboardWords : Prop :=
  (∀ (d a b : SReg) (s : State) (i v : Dword), i.toNat < 2 ^ 16 →
     (∀ p x, s.operands [a, b] [i, v] → s.record v 32 32 p x → entryOk x = true →
       exec (.narm a b) s = .next ({ s.touched p 32 with har := s.har.arm i.toNat (BitVec.ofNat 256 x) } : State).afterN) ∧
     (s.operands [a] [i] →
       (let u : State := { s with har := { s.har with entries := s.har.entries.filter (·.1 != i.toNat) } }
        let was := s.har.entries.any (·.1 == i.toNat)
        let ids := s.net.atEntry i.toNat
        (s.thr.disarm = none → ids = [] → exec (.ndisarm d a) s = .next (u.wroteN d (if was then 1 else 0))) ∧
        (s.thr.disarm = none → ids ≠ [] → exec (.ndisarm d a) s = .next { u with thr := { u.thr with disarm := some (was, ids), waits := true } })) ∧
       (∀ (was : Bool) (ids : List Nat), s.thr.disarm = some (was, ids) → exec (.ndisarm d a) s = .next
         (if s.net.inflows.any fun f => ids.contains f.id then { s with thr := { s.thr with waits := true } }
          else ({ s with thr := { s.thr with disarm := none } } : State).wroteN d (if was then 1 else 0))))) ∧
  (∀ (d a b : SReg) (f : PegField) (s : State) (i v : Dword), i.toNat < 2 ^ 14 →
     (s.operands [a] [i] →
       exec (.pegrd d a f) s = .next (s.wroteN d ((s.har.peg i.toNat).field f))) ∧
     (s.operands [a, b] [i, v] →
       ((f = .act → actionOk v = true) →
         exec (.pegset a b f) s = .next (({ s with har := s.har.setPeg i.toNat ((s.har.peg i.toNat).put v f) } : State).pegEval i.toNat).afterN) ∧
       exec (.pegadd d a b) s = .next
         ((({ s with har := s.har.setPeg i.toNat { s.har.peg i.toNat with count := (s.har.peg i.toNat).count + v } } : State).pegEval i.toNat).wroteN d
           (s.har.peg i.toNat).count))) ∧
  (∀ (s : State) (i : Nat) (n : Dword), let p := s.har.peg i
     ((p.armed = false ∨ (p.count + n).toNat < p.thresh.toNat) → s.pegAdd i n = { s with har := s.har.setPeg i { p with count := p.count + n } }) ∧
     (p.armed = true → p.kind = 6 → p.thresh ≠ 0 → p.thresh.toNat ≤ (p.count + n).toNat →
       ((s.pegAdd i n).har.peg i).count = BitVec.ofNat 64 ((p.count + n).toNat % p.thresh.toNat)))

/-- R357, R378, R373, R379: an accepted NLAUNCH answers the instance number that its launch takes; a refused one ends the thread with
WHY 13. NGANG answers the gang's slot once its members have their records, and all ones where no slot is free. -/
def Obligations.LaunchWords : Prop :=
  ∀ (d a b : SReg) (s : State) (v asid : Dword) (p : Phys) (x : Nat), s.operands [a, b] [v, asid] → asid.toNat < 2 ^ 12 →
    (s.record v 16 16 p x → launchOk (BitVec.ofNat 128 x) = true →
      (∀ u n, (s.touched p 16).accept (BitVec.ofNat 128 x) (asid.setWidth 12) .word none = (u, some n) →
        n = s.har.nextInst ∧ exec (.nlaunch d a b) s = .next (u.wroteN d (BitVec.ofNat 64 n))) ∧
      (∀ u, (s.touched p 16).accept (BitVec.ofNat 128 x) (asid.setWidth 12) .word none = (u, none) →
        exec (.nlaunch d a b) s = .next (u.endThread (some (whyTrap 13))))) ∧
    (∀ q y, let l : BitVec 128 := BitVec.ofNat 128 x
      let n := natField x 128 16
      let ms := (upTo n).map fun i => natField y (16 * i) 16
      let u := (s.touched p 32).touched q (2 * n)
      s.record v 32 32 p x → launchOk l = true → 1 ≤ n → n ≤ 1024 → pegIndexOk (natField x 144 16) = true → natField x 160 96 = 0 →
      (s.touched p 32).record (v + 32) (2 * n) 2 q y → ms.all (fun m => decide (m < 1024)) = true → distinct ms = true →
      u.mem.asidState u.pkg (asid.setWidth 12) = 1 → (u.typeEntry (launchType l)).isSome = true →
      (u.har.freeGangs = [] → exec (.ngang d a b) s = .next (u.wroteN d (BitVec.allOnes 64))) ∧
      (u.har.freeGangs ≠ [] → ∃ (g : Nat) (gang : Gang) (w : State), g ∈ u.har.freeGangs ∧ gang.id = g ∧ gang.launch = l ∧ gang.acked = [] ∧
        gang.members = ms.map (fun m => BitVec.ofNat 10 m) ∧ w = { u with fresh := u.fresh + 1, har := { u.har with gangs := u.har.gangs ++ [gang] } } ∧
        exec (.ngang d a b) s = .next ((w.sendGang g l (asid.setWidth 12) gang.members).wroteN d (BitVec.ofNat 64 g))))

/-- R371, R375, R381, R382: NFREEZE freezes and NTHAW thaws the context that TARGET names; without one they end the thread. NMAP drops the
translations it names at once and completes when every access that used one has been performed; it takes an address space that is being
removed and refuses an absent one. NFREEZE completes once the streams have stopped. R368, R380: NSAVE writes the image of a stopped, quiet context and answers its length, and with
release takes the context off its core; NLOAD puts a saved context back, held, where there is room, in the lowest free slot, and answers
all ones where there is none. The model's choices: the lowest free slot (log 58), what NMAP waits for (log 60), that NMAP.asid of an address
space in STATE 2 is what counts for R371 (log 29), and the image's inner layout (log 31). -/
def Obligations.FreezeMapSaveAndLoad : Prop :=
  (∀ (a b : SReg) (s : State), s.agent = .thread →
     (s.target = none → exec .nfreeze s = .next (s.endThread (some (whyTrap 12))) ∧ exec .nthaw s = .next (s.endThread (some (whyTrap 12)))) ∧
     (∀ c, s.target = some c →
       (let t := s.onCtx c.inst (·.freeze true)
        (s.stilled c = true → exec .nfreeze s = .next t.afterN) ∧
        (s.stilled c = false → exec .nfreeze s = .next { t with thr := { t.thr with waits := true } })) ∧
       (c.regs.frozen = true → exec .nthaw s = .next (s.onCtx c.inst (·.freeze false)).afterN)) ∧
     (∀ (x y : Dword) (op : MapOp), s.reads [a, b] [x, y] →
       (match op with
         | .page => y.toNat < 2 ^ 12
         | .asid => y.toNat < 2 ^ 12 ∧ x = 0
         | .all => x = 0 ∧ y = 0) →
       let asid : Asid := y.setWidth 12
       (op ≠ .all → s.mem.asidState s.pkg asid = 0 → exec (.nmap a b op) s = .next (s.endThread (some (whyTrap 13)))) ∧
       ((op ≠ .all → s.mem.asidState s.pkg asid ≠ 0) → (op = .page → (globalForm s.mem.own x).isSome = true) →
         let va : Dword := if op = .page then ((globalForm s.mem.own x).getD 0).setWidth 64 else x
         let ids := s.thr.maps.getD (s.mapUses op va asid)
         let u : State := if s.thr.maps.isSome then s else s.setMem { s.mem with tlb := s.mem.tlb.filter fun e => !mapDrops op va asid e }
         (u.mapBusy op asid ids = true → exec (.nmap a b op) s = .next { u with thr := { u.thr with maps := some ids, waits := true } }) ∧
         (u.mapBusy op asid ids = false → exec (.nmap a b op) s = .next
           ({ u with
              thr := { u.thr with maps := none }
              har := { u.har with mapped := if op = .asid ∧ s.mem.asidState s.pkg asid = 2 ∧ s.har.mapped.contains asid = false then
                asid :: u.har.mapped else u.har.mapped } } : State).afterN)))) ∧
  (∀ (d a : SReg) (rel : Bool) (s : State) (v : Dword) (c : Ctx) (p : Phys), s.operands [a] [v] →
     (s.target = some c → (c.regs.trapped = true ∨ c.regs.frozen = true ∨ c.regs.hold = true) → s.place v c.imageLen 4096 p →
       let u := s.touched p c.imageLen
       (u.quiet c = false → exec (.nsave d a rel) s = .next { u with thr := { u.thr with waits := true } }) ∧
       (u.quiet c = true → exec (.nsave d a rel) s = .next
         ((if rel then (u.physWrite p (u.imageBytes c)).unload c.inst .saved else u.physWrite p (u.imageBytes c)).wroteN d
           (BitVec.ofNat 64 c.imageLen)))) ∧
     (∀ core x, s.targetCore = some core → s.record v 16384 4096 p x → s.findCtx (natField x 128 64) = some c → c.place = .saved →
       let u := s.touched p 16384
       (roomIn (u.uses core) c.demand c.tiles c.scrBytes = [] → exec (.nload d a) s = .next (u.wroteN d (BitVec.allOnes 64))) ∧
       (∀ q, roomIn (u.uses core) c.demand c.tiles c.scrBytes ≠ [] → u.place v c.imageLen 4096 q →
         anyPoison ((u.physRead q c.imageLen).take imageScr) = false →
         ∃ (base n : Nat), (base ∈ roomIn (u.uses core) c.demand c.tiles c.scrBytes) ∧
           let t := { u.touched q c.imageLen with fresh := n }
           let w := t.reload c (u.physRead q c.imageLen) core ((t.freeSlots core).headD 0) base true
           exec (.nload d a) s = .next (w.wroteN d (((w.findCtx c.inst).map fun c => c.id).getD 0)))))

/-- R391, R393, R402: NREG answers the key or index that the registration takes; NREVOKE marks one revoked and queues what completes
it. R391: a registered region's key is its index and generation, an endpoint takes the lowest free index of its address space, and
both are live. -/
def Obligations.RegistrationWords : Prop :=
  (∀ (d a b : SReg) (k : RegKind) (s : State) (v y : Dword) (asid : Asid),
     (∀ p x, s.operands [a, b] [v, asid.setWidth 64] → s.record v (regBytes k) 1 p x →
       let u := s.touched p (regBytes k)
       u.mem.asidState u.pkg asid = 1 →
       let bad := fun (_ : Unit) => badField (.nreg d a b k) u
       ∀ w : State, (match k with
         | .region => u.regRegion d v asid x bad
         | .endpoint => u.regEndpoint d v asid x bad
         | .object => u.regObject d v asid x bad
         | .connection => u.regConn d v asid x bad) = .done false w → exec (.nreg d a b k) s = .next w.afterN) ∧
     (∀ i n, s.operands [a, b] [v, y] → natField y.toNat 12 4 = 0 → natField y.toNat 32 32 = 0 → pegIndexOk (natField y.toNat 16 16) = true →
       s.mem.asidState s.pkg (y.setWidth 12) = 1 → s.revoke k v (y.setWidth 12) s.net.nextId = .ok (i, n) →
       exec (.nrevoke a b k) s = .next ({ s with net := { n with
         nextId := s.net.nextId + 1,
         revokes := n.revokes ++ ([⟨s.net.nextId, k, y.setWidth 12, i, BitVec.ofNat 16 (natField y.toNat 16 16)⟩] : List Revocation) } } : State).afterN)) ∧
  (∀ (d : SReg) (at_ : Dword) (asid : Asid) (x : Nat) (bad : Unit → Res) (s w : State), s.agent = .thread → (∀ u, bad () ≠ .done false u) →
     (s.regRegion d at_ asid x bad = .done false w → ∃ g, g ∈ w.net.regions ∧ g.live = true ∧ g.asid = asid ∧ g.len = natField x 64 64 ∧
       (∀ r ∈ s.net.regions, r.index = g.index → r.held = false) ∧ (d ≠ 0 → (w.thr.sf.getS d).v = g.key.setWidth 64)) ∧
     (s.regEndpoint d at_ asid x bad = .done false w → ∃ e, e ∈ w.net.endpoints ∧ e.live = true ∧ e.asid = asid ∧
       (∀ f ∈ s.net.endpoints, f.asid = asid → f.index ≠ e.index) ∧
       (∀ i < e.index, ∃ f ∈ s.net.endpoints, f.asid = asid ∧ f.index = i) ∧ (d ≠ 0 → (w.thr.sf.getS d).v = BitVec.ofNat 64 e.index)))

/-- R395, R400, R401: NSEND sends a checked record's message in a live address space; NPOST lists a receive buffer. R397 to R399: an
RMA word with a checked descriptor and a registered endpoint queues its operation; its payload is read as its packets of at most 4,096
bytes leave, which is after the word. An operation in an address space that is not live ends the thread. -/
def Obligations.MessageAndRmaWords : Prop :=
  (∀ (a b : SReg) (s : State) (v asid : Dword) (p : Phys) (x : Nat), s.operands [a, b] [v, asid] → asid.toNat < 2 ^ 12 →
     let u := s.touched p 32
     (∀ r, s.record v 32 16 p x → sendRec x = some r →
       (u.notLive asid = true → exec (.nsend a b) s = .next (u.endThread (some (whyTrap 13)))) ∧
       (∀ w, u.notLive asid = false → u.sendMessage r (asid.setWidth 12) = .ok w → exec (.nsend a b) s = .next w.afterN)) ∧
     (s.record v 32 32 p x → pegIndexOk (natField x 160 16) = true → natField x 176 16 = 0 → u.notLive asid = false →
       s.net.posts.length < 4096 →
       exec (.npost a b) s = .next ({ u with net := { u.net with
         posts := u.net.posts ++ ([⟨asid.setWidth 12, BitVec.ofNat 256 x, p.off, p.slot⟩] : List PostBuf) } } : State).afterN)) ∧
  (∀ (a b : SReg) (s : State) (v asid : Dword) (p : Phys) (x : Nat), s.operands [a, b] [v, asid] → asid.toNat < 2 ^ 12 → s.record v 32 32 p x →
     let u := s.touched p 32
     ∀ w ∈ ([(.nrmaw a b, .write, rmaLen x, ceilDiv (rmaLen x) 4096), (.nrmar a b, .read, rmaLen x, 1), (.natom a b false, .add, 24, 1),
         (.natom a b true, .cas, 24, 1)] : List (Instr × RmaOpKind × Nat × Nat)),
       rmaFieldsOk w.2.1.atomic x = true →
       (u.notLive asid = true → exec w.1 s = .next (u.endThread (some (whyTrap 13)))) ∧
       (u.notLive asid = false → (u.endpoint (asid.setWidth 12) (natField x 0 16)).isSome = true →
         (w.2.1.atomic = true → (rmaRaddr x).toNat % 8 = 0 ∧ (rmaLaddr x).toNat % 8 = 0) →
         let o : RmaOp := ⟨u.net.nextId, w.2.1, asid.setWidth 12, natField x 0 16, BitVec.ofNat 256 x, p.off, p.slot, some s.thr.num, s.thr.asid,
           s.thr.pc, 0, max 1 w.2.2.2, 0, [], ⟨[], []⟩, none⟩
         let queued := fun (o : RmaOp) => { u with net := { u.net with nextId := u.net.nextId + 1, ops := u.net.ops ++ [o] } }
         (w.2.2.1 = 0 → exec w.1 s = .next (queued o).afterN) ∧
         (∀ q, w.2.2.1 ≠ 0 → u.physRange (rmaLaddr x) w.2.2.1 = .ok q → exec w.1 s = .next (queued { o with localKey := q.slot }).afterN)))

/-- R403, R404: NCOLL loads a checked graph or unloads a loaded one; NREARM replays a loaded graph, with the bases it names replaced.
That NREARM with mask 0 reads and checks no list is the model's choice (log 36). -/
def Obligations.CollectiveWords : Prop :=
  ∀ (a b : SReg) (s : State) (v w : Dword) (g : Graph),
    (s.operands [a] [v] → v.toNat < 64 → s.har.graph v.toNat = some g → exec (.ncoll a true) s = .next (s.unloadGraph g).afterN) ∧
    (∀ p q x y, s.operands [a] [v] → s.record v 64 64 p x → graphHeadOk x = true →
      let n := natField x 16 16
      let u := (s.touched p 64).touched q (32 * n)
      (s.touched p 64).record (v + 64) (32 * n) 32 q y →
      let raw := (upTo n).map fun i => natField y (256 * i) 256
      let nodes : List (BitVec 256) := raw.map fun r => BitVec.ofNat 256 r
      let bases : List Dword := (upTo 4).map fun i => BitVec.ofNat 64 (natField x (64 + 64 * i) 64)
      raw.all nodeOk = true → distinct (((nodes.map nodeOf).filter fun k => k.kind == 1).map fun k => k.trigPeg) = true →
      u.basesOk bases (nodes.map nodeOf) (fun _ => true) = true → u.har.graph (natField x 0 8) = none →
      exec (.ncoll a false) s = .next (u.loadGraph ⟨natField x 0 8, natField x 32 16, bases, nodes, 1, [], [], [], u.pkg.time⟩).afterN) ∧
    (s.operands [a, b] [v, w] → natField v.toNat 6 2 = 0 → natField v.toNat 12 52 = 0 → s.har.graph (natField v.toNat 0 6) = some g →
      (natField v.toNat 8 4 = 0 → exec (.nrearm a b) s = .next (s.replay g g.bases).afterN) ∧
      (∀ p x, natField v.toNat 8 4 ≠ 0 → s.record w 32 32 p x →
        let u := s.touched p 32
        let mask := natField v.toNat 8 4
        let bases : List Dword := (upTo 4).map fun i => if mask.testBit i then BitVec.ofNat 64 (natField x (64 * i) 64) else g.bases.getD i 0
        u.basesOk bases (g.nodes.map nodeOf) (fun i => mask.testBit i) = true → exec (.nrearm a b) s = .next (u.replay g bases).afterN))

/-- R405 to R407: NHASH compresses a 64-byte block into a state of eight words, poisoned where either was; NSIGN queues a signature;
NRAND answers a random number, of which nothing is known, or a poisoned 0 while the entropy source's tests fail. -/
def Obligations.HashSignAndRandom : Prop :=
  ∀ (d a b : SReg) (s : State) (v w r : Dword),
    (∀ p q, s.operands [a, b] [v, w] → s.place v 32 32 p → (s.touched p 32).place w 64 64 q →
      let u := (s.touched p 32).touched q 64
      let st := s.physRead p 32
      let bl := (s.touched p 32).physRead q 64
      let words : List Word := (upTo 8).map fun i => BitVec.ofNat 32 (natField (valueOf st) (32 * i) 32)
      let poison := anyPoison st || anyPoison bl
      exec (.nhash a b) s = .next (if poison && u.inCtl p 32 ctlMailbox 1024 then u.takeTrap 1 (fretTrap 2 0 7 (some v))
        else (u.physWrite p (((shaCompress words (bl.map fun y => y.1)).flatMap fun w => natBytes 4 w.toNat).map fun y => (y, poison))).afterN)) ∧
    (∀ p q x, s.operands [a, b, d] [v, w, r] → r.toNat < 2 ^ 16 → pegIndexOk r.toNat = true → s.place w 384 64 q →
      (s.touched q 384).record v 32 32 p x → s.net.signs.length < 16 →
      let u := (s.touched q 384).touched p 32
      exec (.nsign d a b) s = .next ({ u with net := { u.net with
        signs := u.net.signs ++ ([⟨BitVec.ofNat 256 x, q.off, q.slot, r.setWidth 16, none⟩] : List SignReq) } } : State).afterN) ∧
    (s.agent = .thread →
      (s.net.entropyFailing = false →
        exec (.nrand d) s = .next (({ s with fresh := s.fresh + 1 } : State).wroteN d (Config.randomValue s.fresh))) ∧
      (s.net.entropyFailing = true → exec (.nrand d) s = .next (s.writeS d ⟨0, true⟩).afterN))

/-! Events (95): what the package does besides executing words -/

/-- R103, R109, R256, R320, R361, R40, R146, R420: what happens to a context from outside its words. A deadlock traps a context of which
every stream stalls for another and which nothing outstanding can move. SKIP moves the failing stream past its word, once; HOLD stops the
issue of words, and a context that is no longer stopped tries its suspended transfers again; a Harius write of a register reaches every
stream at its next word, also one that has yet to pass an earlier SETS (the model's choice, log 61); the host writes its ring registers; a delivered trap, once the issued words have completed, becomes a TRAP event with the
record's first bytes. That a wait for a scalar counts among the stalls is the model's choice (log 7). -/
def Obligations.ContextEvents : Prop :=
  ∀ (i : Nat) (c : Ctx) (v : Dword) (n : SysNum) (on : Bool) (s : State), s.findCtx i = some c →
    (s.deadlocked c = true →
      (∀ e, (c.stream e).inact = false → (c.stream e).stall ∈ ([1, 2, 3, 4, 5, 6, 13] : List (BitVec 4))) ∧ c.xfers = [] ∧ c.loads = [] ∧
      (∀ w ∈ s.net.wires, w.muted = false → w.origin.inst ≠ i) ∧ c.regs.trapped = false ∧ c.regs.frozen = false ∧ c.regs.hold = false ∧
      ∃ t : State, exec (.streamDeadlock i) s = .next t ∧ s.onlyCtx t i (c.takeTrap none 0 ⟨0x11, 0, none, none, none⟩ s.pkg.time)) ∧
    (s.deadlocked c = false → ∃ t : State, exec (.streamDeadlock i) s = .next t ∧ s.onlyCtx t i c) ∧
    (∃ t : State, exec (.errqPop i) s = .next t ∧ s.onlyCtx t i { c with errq := c.errq.drop 1 }) ∧
    (∃ t : State, exec (.ctxHold i on) s = .next t ∧ s.onlyCtx t i { c with
      regs := { c.regs with hold := on }
      xfers := if c.regs.trapped || c.regs.frozen || on then c.xfers else c.xfers.map fun x => { x with fault := none } }) ∧
    (∀ r e, c.regs.trapped = true → c.record = some r → r.eng = some e →
      ∃ (t : State) (d : Ctx), exec (.ctxSkip i) s = .next t ∧ t.findCtx i = some d ∧ t.mem = s.mem ∧
        (r.size = 0 → d = c) ∧
        (r.size ≠ 0 → (d.stream e).pc = (c.stream e).pc + BitVec.ofNat 64 (4 * r.size) ∧ (d.stream e).pos = (c.stream e).pos + r.size ∧
          (∀ k, k ≠ e → d.stream k = c.stream k) ∧ d.record = some { r with size := 0 } ∧ d.regs = c.regs ∧ d.sf = c.sf ∧ d.tok = c.tok)) ∧
    (∃ u : State, s.focus i = some u ∧ exec (.ctxAbandon i) s =
      .next { ((u.ctx.xfers.filter fun x => x.fault.isSome).foldl State.abandonOne u) with agent := s.agent }) ∧
    (assigned n = true → readOnly n = false →
      (n.toNat < 0x200 → n ≠ 0x100 → ∃ t : State, exec (.registerWrite i n v) s = .next t ∧
        s.onlyCtx t i { (c.latch s.pkg.time n).setReg n v with sysHist := c.sysHist.filter fun h => h.2.1 != n }) ∧
      (0x200 ≤ n.toNat → exec (.registerWrite 0 n v) s = .next (s.setPackageReg n v))) ∧
    (exec (.registerWrite 0 0x020 v) s = .next { s with pkg := { s.pkg with hrbase := v &&& ~~~(0x3F : Dword) } } ∧
      exec (.registerWrite 0 0x028 v) s = .next { s with pkg := { s.pkg with hrlen := v } } ∧
      exec (.registerWrite 0 0x038 v) s = .next { s with pkg := { s.pkg with hrtail := v } }) ∧
    (∀ r, c.undelivered = true → c.record = some r →
      ((8192 ≤ s.har.queue.length ∨ c.unsettled = true) → exec (.trapDeliver i) s = .next s) ∧
      (s.har.queue.length < 8192 → c.unsettled = false →
        let q : TrapRecord := { r with
          pcs := streamOrder.map fun e => (c.stream e).pc, poss := streamOrder.map fun e => (c.stream e).pos
          status := streamOrder.map c.status, tokens := c.tok, fifo := c.fifo.length }
        let done := fun (c : Ctx) => { c with undelivered := false, record := some q }
        let event := fun (written : Bool) => ([⟨2, c.asid, r.ctxid, BitVec.ofNat 64 (leNat ((q.bytes written).take 8)), r.trap.faddr.getD 0,
          r.trap.detail, s.pkg.time, none, none⟩] : List Event)
        (c.regs.trapEn = false → ∃ t : State, exec (.trapDeliver i) s = .next t ∧ t.findCtx i = some (done c) ∧ t.mem = s.mem ∧
          t.har.queue = s.har.queue ++ event false) ∧
        (∀ u, s.writeRecord c q = some u → ∃ t : State, exec (.trapDeliver i) s = .next t ∧ t.findCtx i = some (done c) ∧ t.mem = u.mem ∧
          t.har.queue = s.har.queue ++ event true)))

/-- R164 to R168, R170, R172, R417: what banks, dies and the error counters do. A write of FSPLIT makes its die busy with the rounded
split, or is held while it is busy; the adoption empties the die's lists, then takes the PROMOTEs that waited. An uncorrected error is
counted by its stack and by its row of the table, with the frame that is retired, and reported; the bank drops a promotion that it hits,
data that is lost is poisoned, and a consumer of data with a clean source stops. The precedence of the rows of R170, when frames are counted
and the stop of the consumer of row 0 are the model's choices (log 30), and so is that all banks adopt at one event (log 52). R165: a promotion enters a bank's list last, in the
lowest slot that no entry has; into a full list it takes the oldest entry's slot; a listed row keeps its place, and a row that is no
slow row, or a bank without slots, changes nothing. -/
def Obligations.MemoryEvents : Prop :=
  (∀ (die : BitVec 2) (v : Dword) (bank row line i : Nat) (s : State),
     let d := s.mem.dieOf (3 * die.toNat)
     let slots := min 4096 (natField v.toNat 0 13 / 16 * 16)
     (∃ m : Memory, exec (.fsplitWrite die v) s = .next (s.setMem m) ∧ m = { s.mem with dies := m.dies } ∧
       (∀ k : Fin 4, k.val ≠ die.toNat → m.dies[k] = s.mem.dies[k]) ∧
       m.dieOf (3 * die.toNat) = if d.busy then { d with heldSets := d.heldSets ++ [v] } else if slots = d.slots then d else
         { d with busy := true, newSlots := slots }) ∧
     (d.busy = true → d.heldSets = [] → (∀ h ∈ d.heldPromotes, dieOfStack (paStack h.addr) = die.toNat) →
       ∃ m : Memory, exec (.fsplitAdopt die) s = .next { s.banksAccepted die.toNat with mem := m } ∧
         m = { s.mem with dies := m.dies, banks := m.banks } ∧
         m.dieOf (3 * die.toNat) = { d with busy := false, slots := d.newSlots, heldPromotes := [] } ∧
         m.banks = (d.heldPromotes.foldl (fun (x : Memory) h => x.setPromos (paBank h.addr) (promoteIn d.newSlots (paRow h.addr) (x.promos (paBank h.addr))))
           { s.mem with banks := s.mem.banks.filter fun b => dieOfStack (b.num / 1024) != die.toNat }).banks) ∧
     (d.busy = false → exec (.fsplitAdopt die) s = .next s) ∧
     (∃ m : Memory, exec (.promoteEpoch die) s = .next (s.setMem m) ∧ m = { s.mem with dies := m.dies } ∧
       m.dieOf (3 * die.toNat) = { d with acts := [] }) ∧
     (exec (.autoPromotion bank row) s = .next (if s.mem.hot bank row then s.setMem (s.mem.promote (rowAddr bank row)) else s)) ∧
     (exec (.leaseExpire line) s = .next (s.setMem { s.mem with leases := s.mem.leases.filter (· != line) })) ∧
     (exec (.errorCounterClear i v) s = .next (if i ≤ 47 ∧ v = 0 then s.setMem (s.mem.counterPut s.pkg i 0) else s)) ∧
     (∀ (sector : Nat) (who : Option Nat), paOk (sector * 32) = true →
       let a := sector * 32
       let row := s.eccRow a who
       let lost := row == 1 || row == 3 || (row == 4 && !s.sourced a)
       let counted := (s.mem.count s.pkg (12 + a / 2 ^ 36 % 16)).count s.pkg (24 + row)
       let retired := if row = 2 ∨ row = 3 then counted.demote a else counted.count s.pkg 29
       (match (s.mem.promos (paBank a)).find? fun p => p.row == paRow a with
         | some p => row = if p.dirty then 3 else 2
         | none => row = if who = none then 4 else if s.sourced a then 0 else 1) ∧
       ∃ t : State, exec (.eccError sector who) s = .next t ∧ t.mem = (if lost then retired.poisonSector sector else retired) ∧
         (lost = true → t.mem.sectorPoison sector = true) ∧
         (∀ k c, who = some k → s.findCtx k = some c → t.findCtx k = some (if row = 0 then c.eccStop s.pkg.time else c)) ∧
         t.har.queue = s.har.queue ++ ([⟨6, ((who.bind s.findCtx).map fun c => c.asid).getD 0, BitVec.ofNat 64 (s.mem.own.toNat * 2 ^ 44 + a),
           BitVec.ofNat 64 row, ((who.bind s.findCtx).map fun c => c.id).getD (BitVec.allOnes 64), 0, s.pkg.time, none, none⟩] : List Event))) ∧
  (∀ (slots row : Nat) (l : List Promotion),
     (slots = 0 ∨ row < 4096 → promoteIn slots row l = l) ∧
     (slots ≠ 0 → 4096 ≤ row → (∃ p ∈ l, p.row = row) →
       promoteIn slots row l = l.map fun p => if p.row = row then { p with dirty := p.dirty || p.cached != 0, cached := 0 } else p) ∧
     (4096 ≤ row → (∀ p ∈ l, p.row ≠ row) → l.length < slots → ∃ k, k < slots ∧ (∀ p ∈ l, p.slot ≠ k) ∧
       (∀ j < k, ∃ p ∈ l, p.slot = j) ∧ promoteIn slots row l = l ++ ([⟨row, k, false, 0⟩] : List Promotion)) ∧
     (∀ old rest, 4096 ≤ row → (∀ p ∈ l, p.row ≠ row) → l = old :: rest → 0 < slots → slots ≤ l.length →
       promoteIn slots row l = rest ++ ([⟨row, old.slot, false, 0⟩] : List Promotion))) ∧
  (∀ (m : Memory) (a bank : Nat), (m.demote a).promos bank = if bank = paBank a then (m.promos bank).filter (·.row != paRow a) else m.promos bank)

/-- R252, R254 to R256, R318: a transfer whose pieces have all landed and been answered completes: its core's L1 drops the lines that it wrote,
its due pushes apply, its flag is added to, its ID counts as completed and it leaves the list; one that faults, or whose flag no longer
translates (log 63), is suspended and traps its context, which a context
that is stopped already does not. R231, R232, R243: the four heads of a quartet that agree run their joint product, each into its own tile, and
complete; heads that differ all trap QUARTET_MISMATCH with the first field that differs; a timeout traps the head of its queue, with the
members that are present. That the words' operands and scales are read at the join is the model's choice (log 25). -/
def Obligations.TransferAndQuartetEvents : Prop :=
  (∀ (r : XferRef) (s u t : State) (x y : Xfer), s.focus r.c = some u → u.ctx.xfer r = some x → u.ctx.runsXfers = true → x.fault = none →
     (∀ v flag, u.runXfer x = (t, .ok y) → y.moved = true → t.frettedPiece y = none → (y.flagDue || t.answered y) = true →
       t.flagPhys y = (v, .ok flag) → (v.copyfFlag y flag).1.answered (v.copyfFlag y flag).2 = true →
       exec (.transferComplete r) s = .next ((v.copyfFlag y flag).1.finish (v.copyfFlag y flag).2 flag) ∧ exec (.transferFault r) s = .next u) ∧
     (∀ v tr, u.runXfer x = (t, .ok y) → y.moved = true → t.frettedPiece y = none → (y.flagDue || t.answered y) = true →
       t.flagPhys y = (v, .error tr) → exec (.transferComplete r) s = .next (v.suspend y (y.trap 6 y.pieces tr))) ∧
     (y.rel = none → t.flagPhys y = (t, .ok none)) ∧
     (∀ flag, y.kind ≠ .copyf → t.copyfFlag y flag = (t, y)) ∧
     (∀ flag, y.ref = r → y.name = none → y.failed = none → y.kind ≠ .rred → y.kind ≠ .copyf → y.leave = 0 →
       let tok := if y.pfDue then pushAll t.ctx.tok y.eng ⟨false, true, false, false⟩ else t.ctx.tok
       let c : Ctx := { t.ctx with tok := if y.pbDue then pushAll tok y.eng ⟨false, false, false, true⟩ else tok }
       let v := t.setMem (t.mem.l1DropAll t.ctx.core (hbmRanges t.mem.own y.wrote))
       let w := match flag with
         | none => v
         | some p => v.flagAdd t.ctx.core p
       t.finish y flag = w.setCtx { (c.onChan r.w r.ch fun h => h.complete r.id y.wrote) with xfers := t.ctx.xfers.filter (·.ref != r) }) ∧
     (∀ tr, u.runXfer x = (t, .error (tr, y)) → exec (.transferFault r) s = .next (t.suspend y tr) ∧ exec (.transferComplete r) s = .next u) ∧
     (∀ tr, (∀ z ∈ (t.suspend y tr).ctx.xfers, z.ref = y.ref → z.fault = some tr) ∧
       (t.ctx.isStopped = true → (t.suspend y tr).ctx.regs = t.ctx.regs ∧ (t.suspend y tr).ctx.record = t.ctx.record) ∧
       (t.ctx.isStopped = false → (t.suspend y tr).ctx.regs.trapped = true ∧
         ∃ q, (t.suspend y tr).ctx.record = some q ∧ q.trap = tr ∧ q.eng = some y.eng ∧ q.size = 0)) ∧
     (∀ id p, s.har.rred.find? (fun p => p.id == id && p.faults == 1 && !p.sent) = some p →
       (∀ k ∈ s.thr :: s.threads, (k.running && k.rred == some id) = false) → (∀ e ∈ s.har.queue, e.rred ≠ some id) →
       exec (.rredRetry id) s = .next (s.rredTry p))) ∧
  (∀ (q core : Nat) (s : State) (w0 w1 w2 w3 : QuartetWord) (c0 c1 c2 c3 : Ctx),
     let heads := [(w0, c0), (w1, c1), (w2, c2), (w3, c3)]
     (∀ p ∈ heads.zipIdx, s.quartetHead (memberCore q p.2) = some p.1.1 ∧ s.findCtx p.1.1.inst = some p.1.2 ∧
       p.1.2.tileBusy [p.1.1.tile.toNat] = false) →
     ((∀ w ∈ [w1, w2, w3], w0.differs w = none) →
       exec (.quartetJoin q) s = .next
         (heads.zipIdx.foldl (fun (t : State) (p : (QuartetWord × Ctx) × Nat) =>
           ((t.quartetDrop p.1.1).endGrant (dieOfCore p.1.2.core) (p.1.2.leaveHeld .M)).onCtx p.1.1.inst fun c =>
             c.joined p.1.1 (joinTile s.mem heads p.2 p.1.1 p.1.2) t.pkg.time) s) ∧
       ((∀ p ∈ heads, (s.setCtx p.2).productChecks p.1.product .zero = none) → ∀ p ∈ heads.zipIdx, ∀ i c, i < 64 → c < 64 →
         let w := p.1.1
         let a := heads.getD (2 * (p.2 / 2) + i / 32) (w0, c0)
         let b := heads.getD (2 * (p.2 % 2) + c / 32) (w0, c0)
         (joinTile s.mem heads p.2 w p.1.2).1.get i c = accumulate w.ty (if w.z then 0 else (p.1.2.getA w.tile.toNat).get i c) (upTo w.k)
           (a.1.product.codeA s.mem a.2 .zero (i % 32)) (b.1.product.codeB s.mem b.2 .zero 0 (c % 32))
           (a.1.product.valA s.mem a.2 .zero (i % 32)) (b.1.product.valB s.mem b.2 .zero 0 (c % 32)))) ∧
     (∀ f, f ∈ [w1, w2, w3].filterMap w0.differs → (∀ g ∈ [w1, w2, w3].filterMap w0.differs, f ≤ g) → exec (.quartetJoin q) s = .next
       (heads.foldl (fun (t : State) (p : QuartetWord × Ctx) =>
         t.quartetTrap p.1 (Trap.withDetail 0x42 (15 + p.1.seq.toNat * 16 + f * 8192))) s)) ∧
     (∀ w, s.quartetHead core = some w → exec (.quartetTimeout core) s = .next (s.quartetTrap w (Trap.withDetail 0x41
       (((upTo 4).map fun i => if (s.quartetHead (memberCore (quartetOf core) i)).isSome then 2 ^ i else 0).sum + w.seq.toNat * 16))))) ∧
  (∀ (s : State) (w : QuartetWord) (tr : Trap) (c : Ctx), s.findCtx w.inst = some c →
     (s.quartetTrap w tr).quartet = s.quartet.filter (·.inst != w.inst) ∧
     ∃ d, (s.quartetTrap w tr).findCtx w.inst = some d ∧ d.held = [] ∧ d.regs.trapped = true ∧
       (c.regs.trapped = false → ∃ r, d.record = some r ∧ r.trap = tr ∧ r.eng = some .M ∧ r.size = 2))

/-- R305, R385, R386, R418, R423 to R426: the clock never falls, and the first lock to a port that carries PTP steps it forward; a governor
grants its head request, a word's or a collective step's, where base, grants and the request fit under the cap in force, and counts a refusal
once; heat lowers that cap, halves the clock and stops the package at its limits. That a SET_CAP before START is kept (log 38), and that the
first lock takes the greater of the two times (log 40), are the model's choices. -/
def Obligations.PowerAndTimeEvents : Prop :=
  ∀ (die : BitVec 2) (n port : Nat) (domain : Byte) (ns : Dword) (cap : Word) (s : State),
    let g := s.pkg.gov die.toNat
    (exec (.timeNsReached ns) s = .next (if s.pkg.time.toNat < ns.toNat then { s with pkg := { s.pkg with time := ns } } else s)) ∧
    (let e := s.net.port port
     let carries := s.net.portsUp.contains port && e.getLsbD 0 && e.getLsbD 1 && e.extractLsb' 16 8 == domain
     exec (.ptpSync ⟨port, domain, ns⟩) s = .next (if s.pkg.ptpLocked = true ∨ carries = false then s else
       { s with pkg := { s.pkg with ptpLocked := true, time := if s.pkg.time.toNat < ns.toNat then ns else s.pkg.time } })) ∧
    (let w := max 1600 (min cap.toNat 3200)
     exec (.setCap cap) s = .next (if s.pkg.started then
       s.setMem ((s.mem.ctlPut s.pkg 0x42AC0 4 w).ctlPut s.pkg 0x42AC4 4 ((w - 1055) / 4)) else { s with pkg := { s.pkg with preCap := w } })) ∧
    (∃ t : State, exec (.governorSample die n) s = .next t ∧ t.pkg.gov die.toNat = { g with base := n } ∧ t.ctx = s.ctx ∧ t.others = s.others) ∧
    (∃ t : State, exec (.thermalCapStep die) s = .next t ∧
      t.pkg.gov die.toNat = { g with dropPct := if g.hot then min 50 (g.dropPct + 5) else g.dropPct - 5 } ∧ t.mem = s.mem ∧ t.ctx = s.ctx) ∧
    (∃ t : State, exec (.thermalSample die n) s = .next t ∧ (t.pkg.gov die.toNat).hot = decide (1000 < n) ∧ (t.pkg.gov die.toNat).temp = n ∧
      ((t.pkg.gov die.toNat).halfClock = true ↔ 1100 < n ∨ (1050 < n ∧ g.halfClock = true)) ∧
      (t.pkg.stopped = true ↔ 1200 < n ∨ s.pkg.stopped = true)) ∧
    (∀ i e c r, s.findCtx i = some c → c.leaves.find? (fun r => r.e == e && !r.granted) = some r →
      s.leaveWanted (.word i e) = some (r.milliwatts, r.refused)) ∧
    (∀ k b, s.har.steps.find? (fun b => b.stack == k) = some b → b.granted = false → s.leaveWanted (.step k) = some (300, b.refused)) ∧
    (∀ w rest, g.queue = w :: rest → s.leaveWanted w = none → exec (.leaveGrant die) s =
      .next { s with pkg := s.pkg.onGov die.toNat fun g => { g with queue := rest } }) ∧
    (∀ w rest mw refused, g.queue = w :: rest → s.leaveWanted w = some (mw, refused) →
      (g.base + g.grants + mw ≤ s.effectiveCap s.cap die.toNat → ∃ t : State, exec (.leaveGrant die) s = .next t ∧
        t.pkg.gov die.toNat = { g with queue := rest, grants := g.grants + mw } ∧ t.mem = s.mem ∧ t.leaveWanted w = none) ∧
      (s.effectiveCap s.cap die.toNat < g.base + g.grants + mw → refused = true → exec (.leaveGrant die) s = .next s) ∧
      (s.effectiveCap s.cap die.toNat < g.base + g.grants + mw → refused = false → ∃ t : State, exec (.leaveGrant die) s = .next t ∧
        t.pkg.gov die.toNat = g ∧ t.mem = s.mem.count s.pkg 42 ∧ (t.leaveWanted w).any (fun x => x.2) = true ∧
        ∀ i e c, w = .word i e → s.findCtx i = some c → ∃ d, t.findCtx i = some d ∧ d.regs.refuse = min (c.regs.refuse + 1) 65535))

/-- R20 to R23, R35, R105, R275, R344 to R347, R351, R355, R360, R367, R371, R374: a task's way through the package and the events of Harius.
A launch waits for conflicting earlier ones; its core is an eligible one with the fewest contexts, then the lowest number; its context starts
as the tables say. An event starts on the lowest free thread. A message is taken by the lowest entry that takes it, else by a buffer, else
dropped and counted; its deposit lands in pieces, then its peg is added to. A copy moves its bytes, then adds to its peg. A gang completes
with its last acknowledgement inside the window, and breaks after it. The watchdog ends a thread, one that waits once its word has completed
(the model's choice, log 62); the place of the acknowledgement bitmap (log 32) and the lowest free slot (log 58) are its choices too. -/
def Obligations.TaskAndHariusEvents : Prop :=
  (∀ (i n : Nat) (t : Task) (c : Ctx) (e : Event) (rest : List Event) (s : State),
    (s.har.tasks.find? (fun t => t.phase == .untracked) = some t →
      exec .launchTrack s = .next (if s.har.tracked < 8192 then s.reachScheduler t else s)) ∧
    (s.hasTask i t → t.phase = .scheduled →
      let held := ∃ u ∈ s.har.tasks, u.asid = t.asid ∧ u.inst < t.inst ∧ u.phase.tracked = true ∧ t.conflicts u = true
      (launchNodep t.launch = true ∨ ¬held → exec (.schedulerAdmit i) s = .next (s.onTask i fun t => { t with phase := .admitted })) ∧
      (launchNodep t.launch = false → held → exec (.schedulerAdmit i) s = .next s)) ∧
    (s.hasTask i t → t.waiting = true → s.othersFirst t (s.preferred t) = false →
      ∀ core, s.bestCore (s.eligible (s.preferred t) (s.demandOf t)) = some core →
        exec (.placement i) s = .next (s.placeOn t core (s.demandOf t)) ∧
        core < 512 ∧ core / 128 ∈ s.preferred t ∧
        let load := fun (k : Nat) => ((s.uses k).filter (·.holdsSlot)).length
        load core < 4 ∧ ((s.uses core).map (·.demand)).sum + (s.demandOf t).1 ≤ 128 ∧ ((s.uses core).map (·.tiles)).sum + (s.demandOf t).2.1 ≤ 96 ∧
        ∀ k ∈ s.eligible (s.preferred t) (s.demandOf t), load core < load k ∨ (load core = load k ∧ core ≤ k)) ∧
    (∀ core base x, s.hasTask i t → t.phase = .placed core base → s.typeEntry (launchType t.launch) = some x →
      ∃ (v : State) (d : Ctx), exec (.contextStart i) s = .next v ∧ v.others = s.others ++ [d] ∧ v.mem = s.mem.l1DropClean core ∧
        d.inst = i ∧ d.place = .resident ∧ d.core = core ∧ d.slot = (s.freeSlots core).headD 0 ∧ d.scrBase = base ∧ d.asid = t.asid ∧
        d.code = typeCode x ∧ d.demand = typeDemand x ∧ d.tiles = typeTiles x ∧ d.scrBytes = typeScr x ∧
        (∀ p ∈ ([(1, BitVec.ofNat 64 (launchXYZ t.launch).1), (2, BitVec.ofNat 64 (launchXYZ t.launch).2.1), (3, BitVec.ofNat 64 (launchXYZ t.launch).2.2),
            (4, launchArg t.launch), (5, BitVec.ofNat 64 i)] : List (SReg × Dword)), d.sf.getS p.1 = ⟨p.2, false⟩) ∧
        (∀ r : SReg, r = 0 ∨ 5 < r.toNat → d.sf.getS r = ⟨0, false⟩) ∧ (∀ r : PReg, d.sf.getP r = ⟨r == 0, false⟩) ∧
        (∀ r : BReg, d.sf.getB r = typeCode x) ∧ (∀ r : VReg, d.getV r = ⟨0, 0⟩) ∧
        (∀ r : MReg, d.getM r = ⟨if r = 0 then BitVec.allOnes 1024 else 0, false⟩) ∧ d.msel = 0 ∧ (∀ k, d.getA k = ⟨0, 0⟩) ∧
        (∀ k, d.stream k = Stream.start (typeCode x)) ∧ d.fifo = [] ∧ d.tok = d.regs.tokInit ∧
        (∀ k : Fin 4, d.lch[k] = ⟨1, 0, [], []⟩ ∧ d.wch[k] = ⟨1, 0, [], []⟩) ∧
        d.regs = { CtxRegs.zero with
          slip := typeField x 12 16 + 1, tokCeil := BitVec.ofNat 32 (typeField x 16 32), tokInit := BitVec.ofNat 32 (typeField x 20 32)
          domain := 4, remain := BitVec.ofNat 48 (typeField x 24 48), lfsr := if i % 2 ^ 32 = 0 then 1 else BitVec.ofNat 32 i, mpref := 4
          ptok := launchPtok t.launch, prio := typePrio x, root := s.mem.asidRoot s.pkg t.asid }) ∧
    (s.findCtx i = some c → s.canRetire c = true → exec (.taskRetire i) s = .next
      (let v := (((s.setMem (s.mem.l1CleanAll c.core)).dropRegs c).orphan c true).dropTask i
       (match v.typeEntry c.ttype.toNat with
        | some x => v.pegDone (typeDonePeg x)
        | none => v).removeCtx i)) ∧
    (∀ w, s.fireWaits.findCtx i = some c → c.place = .parked w true →
      (s.fireWaits.har.parkOrder.find? fun j => (s.fireWaits.findCtx j).any fun d => d.core == c.core) = some i →
      hasSlot (s.fireWaits.uses c.core) c.demand = true → ∃ (v : State) (d : Ctx), exec (.parkedReturn i) s = .next v ∧
        v.findCtx i = some d ∧ d.place = .resident ∧ d.core = c.core ∧ d.slot = (s.fireWaits.freeSlots c.core).headD 0 ∧
        v.har.parkOrder = s.fireWaits.har.parkOrder.erase i) ∧
    (∀ im core, s.findCtx i = some c → s.hasTask i t → s.poolImage i = some im → c.place = .checkpointed → (s.har.ckptOrder.takeWhile (· != i)) = [] →
      s.bestCore (s.eligible (s.preferred t) (c.demand, c.tiles, c.scrBytes)) = some core → ∃ (v : State) (d : Ctx),
        exec (.checkpointReturn i) s = .next v ∧ v.findCtx i = some d ∧ d.place = .resident ∧ d.core = core ∧
        v.har.ckptOrder = s.har.ckptOrder.erase i) ∧
    (∀ asid : Asid, exec (.asidFree asid) s = .next
      (if s.mem.asidState s.pkg asid = 2 ∧ (∀ u ∈ s.har.tasks, u.asid = asid → u.phase.tracked = false) ∧
          s.mem.ctlNat s.pkg (64 * asid.toNat + 0x20) 8 = 0 ∧ asid ∈ s.har.mapped then
        { s with mem := s.mem.ctlPut s.pkg (64 * asid.toNat + 0x18) 1 0, har := { s.har with mapped := s.har.mapped.filter (· != asid) } } else s)) ∧
    (s.har.queue = e :: rest → (upTo 512).find? s.threadFree = some n →
      let v : State := { s with har := { s.har with queue := rest } }
      (v.handlerOf e = none → exec .eventDispatch s = .next (v.defaultEffect e)) ∧
      (∀ entry, v.handlerOf e = some entry →
        exec .eventDispatch s = .next { v.focusThread n with thr := Thread.start n e entry })) ∧
    (s.threadFree n = false →
      let u := s.focusThread n
      let v := (if u.thr.waits then { u with thr := { u.thr with ending := true } } else u.endThread none).countErr 38
      (u.thr.ending = true → exec (.threadWatchdog n) s = .next u) ∧
      (u.thr.ending = false → exec (.threadWatchdog n) s = .next
        (v.setMem (v.mem.packageLog v.pkg (logRecord 2 0 n u.thr.pc.toNat v.pkg.time.toNat u.thr.s2.toNat))))) ∧
    (∀ src l asid,
      let u : State := { s with har := { s.har with nextInst := s.har.nextInst + 1 } }
      ((s.typeEntry (launchType l) = none ∨ s.mem.asidState s.pkg asid ≠ 1) →
        exec (.gangMemberLaunch src n l asid) s = .next (u.actionFault asid .word (.access 13 0))) ∧
      (s.mem.asidState s.pkg asid = 1 → ∀ x, s.typeEntry (launchType l) = some x →
        let t : Task := ⟨s.har.nextInst, l, asid, .word, .untracked, false, [], [], some (src, n), none⟩
        let v : State := { u with har := { u.har with tasks := u.har.tasks ++ [t] } }
        exec (.gangMemberLaunch src n l asid) s = .next
          (if s.har.tracked < 8192 ∧ (∀ q ∈ s.har.tasks, q.phase ≠ .untracked) then v.reachScheduler t else v))) ∧
    (∀ g, s.har.gangs.find? (fun g => g.id == n) = some g →
      (∀ p, s.pkg.time.toNat ≤ g.deadline.toNat → p ∈ g.members →
        ((∀ q ∈ g.members, q = p ∨ q ∈ g.acked) → exec (.gangAck n p) s = .next
          (({ s with har := { s.har with gangs := s.har.gangs.filter (·.id != n) } } : State).pegDone g.donePeg))) ∧
      (s.pkg.time.toNat < g.deadline.toNat → exec (.gangWindowExpire n) s = .next s) ∧
      (g.deadline.toNat ≤ s.pkg.time.toNat →
        let missing := g.members.filter fun p => !g.acked.contains p
        let v := missing.foldl (fun (s : State) p => s.markSilent p 4) { s with har := { s.har with gangs := s.har.gangs.filter (·.id != g.id) } }
        ∃ off low fresh : Nat, 0x43000 ≤ off ∧ off % 128 = 0 ∧ off + 128 ≤ 0x100000 ∧ (∀ p ∈ missing, low ≤ p.toNat) ∧
          (missing ≠ [] → ∃ p ∈ missing, low = p.toNat) ∧
          exec (.gangWindowExpire n) s = .next (({ v with fresh := fresh, mem := (v.mem.packageLog v.pkg
            (logRecord 4 0 0xFFFF g.id v.pkg.time.toNat g.id)).ctlPut v.pkg off 128 (bitsOf 1024 fun i => g.acked.contains (BitVec.ofNat 10 i)) } : State).raise 4
              g.asid (BitVec.ofNat 64 g.id) (BitVec.ofNat 64 missing.length) (BitVec.ofNat 64 low)
              (BitVec.ofNat 64 (v.mem.own.toNat * 2 ^ 44 + (v.pkg.ctl.getD 0) + off)))))) ∧
  (∀ (id : Nat) (k : HCopy) (p q : Phys) (s : State), s.har.copies.find? (fun k => k.id == id) = some k → k.raw.getLsbD 160 = false →
    k.raw.getLsbD 161 = false → physForm s.mem (k.raw.extractLsb' 0 64) = .ok p → physForm s.mem (k.raw.extractLsb' 64 64) = .ok q →
    let u : State := { s with har := { s.har with copies := s.har.copies.filter (·.id != k.id) } }
    let l := s.physRead p (k.raw.extractLsb' 128 32).toNat
    exec (.pegCopyComplete id) s = .next
      (if anyPoison l then u.actionFault k.asid (.peg k.peg 3) (.fret 1 (k.raw.extractLsb' 0 64)) else (u.physWrite q l).pegDone (k.raw.extractLsb' 176 16))) ∧
  (∀ (m : PhaserMsg) (s : State),
    let n : PhaserName := ⟨m.scope, m.at_, m.num⟩
    ∀ w ∈ ([(.signal, holdSignal s.har.phasers n m.asid m.party, true), (.next, holdNext s.har.phasers n m.asid m.party, true),
        (.wait, holdWait false s.har.phasers n m.asid m.party, false), (.drop, holdDrop s.har.phasers n m.asid m.party, false),
        (.register 1, holdRegister s.har.phasers n m.asid m.party 1, false), (.register 2, holdRegister s.har.phasers n m.asid m.party 2, false),
        (.register 3, holdRegister s.har.phasers n m.asid m.party 3, false)] : List (PhaserEv × (List Phaser × HolderAns) × Bool)), m.ev = w.1 →
      (∀ ph, w.2.1.2 = .done ph → exec (.phaserEvent m) s = .next ((s.setPhasers w.2.1.1).answerParty m.party (.phaser 0 ph)).serveHeld) ∧
      (∀ cause more, w.2.1.2 = .fault cause more →
        exec (.phaserEvent m) s = .next ((s.setPhasers w.2.1.1).answerParty m.party (.phaser cause (BitVec.ofNat 64 more))).serveHeld) ∧
      (w.2.1.2 = .held → exec (.phaserEvent m) s = .next (s.noteHeld n m.party w.2.2).serveHeld)) ∧
  (∀ (e : BitVec 256) (m : Message), entryTakes e m = true ↔ (e.getLsbD 79 = true ∨ m.src = some (e.extractLsb' 64 10)) ∧
    m.tag &&& e.extractLsb' 32 32 = e.extractLsb' 0 32 &&& e.extractLsb' 32 32 ∧ (e.extractLsb' 80 8 = 0xFF ∨ e.extractLsb' 80 8 = m.coll) ∧
    (e.getLsbD 88 = true ∨ e.extractLsb' 96 32 = m.gen)) ∧
  (∀ (m : Message) (s : State), m.via = none →
    ((∀ x ∈ s.har.entries, entryTakes x.2 m = false) → s.net.bufferFor m = none → exec (.messageArrival m) s = .next (s.countErr 34)) ∧
    (∀ slot e, s.har.matchEntry m = some (slot, e) → (slot, e) ∈ s.har.entries ∧ entryTakes e m = true ∧
      (∀ x ∈ s.har.entries, entryTakes x.2 m = true → slot ≤ x.1) ∧
      (s.net.inflows = [] →
        let limit := 64 * (e.extractLsb' 240 16).toNat
        let peg := (e.extractLsb' 224 14).toNat
        let adds : Dword := if e.getLsbD 91 then BitVec.ofNat 64 m.payload.length else 1
        let at_ : Dword := e.extractLsb' 128 64 + m.off.setWidth 64 + BitVec.ofNat 64 ((s.har.peg peg).count.toNat * (e.extractLsb' 192 32).toNat)
        let l := (withSectorPoison m.payload m.poison).take limit
        let u : State := { s with net := { s.net with nextId := s.net.nextId + 1 } }
        (e.extractLsb' 89 2 = 0 → exec (.messageArrival m) s = .next (u.pegAdd peg adds)) ∧
        (∀ p, e.extractLsb' 89 2 = 1 → l ≠ [] → s.physRange at_ l.length = .ok p →
          let v := if limit < m.payload.length then u.countErr 34 else u
          let f : Inflow := ⟨s.net.nextId, none, .deposit slot e m, true, .hbm p, p.off, l.length, (⟨[], []⟩ : Landing).arrive p.off 0 l⟩
          exec (.messageArrival m) s = .next { v with net := { v.net with inflows := [f] } }) ∧
        (e.extractLsb' 89 2 = 1 → l ≠ [] → (∀ p, s.physRange at_ l.length ≠ .ok p) →
          exec (.messageArrival m) s = .next ((u.countErr 34).pegAdd peg adds)))) ∧
    (∀ (f : Inflow) (slot k off len : Nat) (e : BitVec 256) (p : Phys) (l : List (Byte × Bool)), f.work = .deposit slot e m → f.spot = .hbm p →
      f.begun = true → (s.mem.keyOf p.slot).isSome = true → runAt f.base f.len k = (off, len) → f.land.piece f.base f.len k = some l →
        s.landInflow f k = (s.physWrite ⟨p.pa + off, p.slot⟩ l).setInflow { f with land := f.land.wrote f.base f.len k } ∧
        s.endInflow f = ({ s with net := { s.net with inflows := s.net.inflows.filter fun g => g.id != f.id } } : State).pegAdd (e.extractLsb' 224 14).toNat
          (if e.getLsbD 91 then BitVec.ofNat 64 m.payload.length else 1)))

/-- R308 to R312, R317, R323 to R329, R334 to R341, R412: a request that names memory of this package is performed and answered, any other is
rejected without effect; a reply ends its request once; mute replies are counted and mark their peer silent; a link whose digests agree comes
up, one that never agrees or reports another own number fails, and one that fails, or drops where none else carries traffic, has what is
outstanding on it muted; a chunk of the current generation enters its node, an early one is held, a stale one refused and counted; a
base die performs the head command of its queue once it has leave. That a probe is answered by an accept reply (log 36), that a mute reply to
a message counts and marks its peer, is kept for its late answer and is Harius's (log 46), how a first link gives the own number (log 12) and
when a link drops (log 70) are the model's choices. -/
def Obligations.FabricEvents : Prop :=
  (∀ (r : RemoteReq) (s : State),
    let off := (r.pa.extractLsb' 0 44).toNat
    let key := s.mem.key r.key.toNat
    let old := fun (n : Nat) => s.mem.hbmReadP key off n
    let told := fun (m : Memory) (a : Reply) => exec (.remoteRequest r) s = .next { s with mem := m, out := s.out ++ [.reply r.src a] }
    let leased : Memory := { s.mem with leases := (off / 64 :: s.mem.leases.filter (· != off / 64)).take 4096 }
    (r.kind ≠ .probe → s.ingressOk r.pa r.key = false → told s.mem .reject) ∧
    (r.kind = .probe → told s.mem .accept) ∧
    (s.ingressOk r.pa r.key = true →
      (∀ n, r.kind = .read n → told s.mem (.data ((old n).map (·.1)) (anyPoison (old n)))) ∧
      (∀ d p, r.kind = .write d p → told (s.mem.hbmWrite key off d p) .accept) ∧
      (∀ l p, r.kind = .masked l p → told (l.foldl (fun (m : Memory) x => m.hbmWrite key (off + x.1) x.2 p) s.mem) .accept) ∧
      (∀ o opd cmp p cp, r.kind = .atom o opd cmp p cp →
        let new := amoNew o (BitVec.ofNat 64 (valueOf (old 8))) opd cmp
        told (if new.2 then leased.hbmWrite key off (natBytes 8 new.1.toNat) (amoPoison o (anyPoison (old 8)) p cp) else leased)
          (.old (BitVec.ofNat 64 (valueOf (old 8))) (anyPoison (old 8)))) ∧
      (∀ o opd p, r.kind = .vatom o opd p →
        let l := old (vatomSize o)
        told (leased.hbmWrite key off (natBytes (vatomSize o) (vatomNew o (valueOf l) opd.toNat)) (anyPoison l || p))
          (.old (BitVec.ofNat 64 (valueOf l)) (anyPoison l))) ∧
      (r.kind = .promote → (s.mem.dieOf (paStack off)).busy = false → told (s.mem.promote off) .accept) ∧
      (r.kind = .promote → (s.mem.dieOf (paStack off)).busy = true →
        exec (.remoteRequest r) s = .next (s.setMem (s.mem.promoteFor (some r.src) none off))) ∧
      (r.kind = .demote → told (s.mem.demote off) .accept) ∧
      (∀ d p flag fk, r.kind = .flagged d p flag fk →
        (s.ingressOk flag fk = false → told s.mem .reject) ∧
        (s.ingressOk flag fk = true →
          let m := s.mem.hbmWrite key off d p
          let at_ := (flag.extractLsb' 0 44).toNat
          let was := m.hbmReadP (m.key fk.toNat) at_ 8
          told (m.hbmWrite (m.key fk.toNat) at_ (natBytes 8 (valueOf was + 1)) (anyPoison was)) .accept)) ∧
      (∀ ty o d p, r.kind = .reduce ty o d p →
        told (s.mem.hbmWrite key off (redBytes ty o ((old d.length).map (·.1)) d) (anyPoison (old d.length) || p)) .accept) ∧
      (r.kind = .increment → told (s.mem.hbmWrite key off (natBytes 8 (valueOf (old 8) + 1)) (anyPoison (old 8))) .accept))) ∧
  (∀ (id : Nat) (a : Reply) (w : Wire) (p : BitVec 10) (s : State),
    (s.wire id = some w → w.muted = false →
      ((∀ reason, a ≠ .mute reason) → exec (.remoteReply id a) s = .next
        (({ s with net := { s.net with wires := s.net.wires.filter fun x => x.id != w.id } } : State).takeReply w a)) ∧
      (∀ reason, exec (.remoteReply id (.mute reason)) s = .next (s.muted w reason reason.toNat)) ∧
      exec (.switchMute id) s = .next (s.muted w 0 0) ∧ exec (.hariusBackstop id) s = .next (s.muted w 0 2)) ∧
    (s.wire id = some w → w.muted = true → exec (.switchMute id) s = .next s ∧ exec (.hariusBackstop id) s = .next s ∧
      (∀ reason, exec (.remoteReply id (.mute reason)) s = .next (s.countLate w.pkg)) ∧
      ((∀ reason, a ≠ .mute reason) → exec (.remoteReply id a) s = .next
        (({ s with net := { s.net with wires := s.net.wires.filter fun x => x.id != id } } : State).countLate w.pkg))) ∧
    (∀ i x c l, w.origin = .sload i x → s.findCtx i = some c → c.loads.find? (fun l => l.req == w.id) = some l →
      let done := fun (v : SVal) => { c with
        sf := c.sf.setS l.reg v, loads := c.loads.filter fun k => k.req != w.id
        tok := if l.push then pushAll c.tok .S ⟨false, true, false, false⟩ else c.tok }
      (∀ d q m, l.mode = some m → (s.takeReply w (.data d q)).findCtx i = some (done ⟨loadValue m (leNat (d.drop (w.addr.toNat % 32))), q⟩)) ∧
      (∀ v q, (s.takeReply w (.old v q)).findCtx i = some (done ⟨v, q⟩)) ∧
      (s.takeReply w .reject).findCtx i = some (done ⟨0, true⟩) ∧
      ∀ reason, (s.takeReply w (.mute reason)).findCtx i = some (done ⟨0, true⟩)) ∧
    (∀ i pos c, w.origin = .store i pos → s.findCtx i = some c → s.takeReply w .accept = s ∧
      (pos ∉ c.failedWords → c.errq.length < 16 → ∃ d, (s.takeReply w .reject).findCtx i = some d ∧
        d.errq = c.errq ++ [BitVec.ofNat 64 (2 ^ 56 + w.addr.toNat)] ∧ pos ∈ d.failedWords)) ∧
    (∀ reason why,
      let maker := match w.origin with
        | .probe _ _ => 2
        | _ => why
      s.muted w reason why = (if reason = 0 ∨ reason = 1 then (s.countMute w.pkg).markSilent w.pkg maker else s.countMute w.pkg).answerWire w (.mute reason)) ∧
    (let e := s.mem.peer s.pkg p
     s.countMute p = s.setMem ((s.mem.peerPut s.pkg p (BitVec.ofNat 64 (satField e.toNat 32 32))).count s.pkg 31) ∧
     ∀ why, (e.getLsbD 0 = true → s.markSilent p why = s) ∧
       (e.getLsbD 0 = false → s.har.graphs = [] → s.har.ingress = [] → s.markSilent p why =
         { s with mem := s.mem.peerPut s.pkg p ((e &&& ~~~(0xF : Dword)) ||| BitVec.ofNat 64 (why * 2 + 1))
                  har := { s.har with phasers := phasersLosePkg s.har.phasers p } })) ∧
    (s.net.chunksOut = [] → s.net.sent = [] →
      exec (.linkDown p) s = .next ((s.net.wires.filter fun w => w.pkg == p && !w.muted).foldl (fun (s : State) w => s.muted w 1 1) s)) ∧
    (∀ m, s.wire id = none → s.net.chunksOut.find? (fun c => c.id == id) = none →
      s.net.sent.find? (fun m => m.id == id && m.fabric) = some m →
      let u := s.countMute m.dest
      exec (.remoteReply id (.mute 0)) s = .next ((u.markSilent m.dest 0).pastPost id m.dest true) ∧
        exec (.remoteReply id (.mute 2)) s = .next (u.pastPost id m.dest true)) ∧
    (∀ peer, s.wire id = none → s.net.chunksOut = [] → s.net.sent = [] →
      s.net.pastPosts.find? (fun x => x.1 == id) = some (id, peer, true) → s.net.pastPosts.all (fun x => x.1 != id || x.2.2) = true →
      exec (.remoteReply id a) s =
        .next (({ s with net := { s.net with pastPosts := s.net.pastPosts.filter (·.1 != id) } } : State).countLate peer))) ∧
  (∀ (link n : Nat) (lanes speed : Byte) (map : Word) (far : Dword) (p : BitVec 10) (s : State), s.pkg.link link = .down n → link < 18 →
    let own : Dword := BitVec.ofNat 64 (lanes.toNat + 2 ^ 8 * speed.toNat + 2 ^ 16 * map.toNat + 2 ^ 48 * ((n + 1) % 256))
    let u : State := { s with out := s.out ++ [.linkDigest link own] }
    let trained := fun (t : State) => exec (.linkTrained link ⟨lanes, speed, map⟩ far p) s = .next t
    let failed := (({ u with pkg := u.pkg.setLink link .failed } : State).muteLink link).countErr 33
    (own = far → (s.pkg.ownSet = true → p = s.mem.own) → ∃ t : State, trained t ∧ t.pkg.link link = .up ∧ t.mem = { s.mem with own := p } ∧
      t.pkg.ownSet = true ∧ t.out = s.out ++ [.linkDigest link own, .switchTimeout s.net.switchTimeout]) ∧
    (own = far → s.pkg.ownSet = true → p ≠ s.mem.own → trained failed) ∧
    (own ≠ far → trained (if 4 ≤ n + 1 then failed else { u with pkg := u.pkg.setLink link (.down (n + 1)) })) ∧
    (u.pkg.setLink link .failed).link link = .failed) ∧
  (∀ (link : Nat) (lanes speed : Byte) (map : Word) (far : Dword) (p : BitVec 10) (s : State),
    let down : State := { s with pkg := s.pkg.setLink link (.down 0) }
    s.turn (.linkDrop link) = .next (s.linkDrop link) ∧
    (s.pkg.link link = .up → s.linkDrop link = if down.pkg.linked then down else down.muteLink link) ∧
    ((s.linkDrop link).pkg.link link ≠ .up →
      exec (.linkTrained link ⟨lanes, speed, map⟩ far p) s = exec (.linkTrained link ⟨lanes, speed, map⟩ far p) (s.linkDrop link)) ∧
    (s.pkg.link link ≠ .up → s.linkDrop link = s) ∧
    (s.net.chunksOut = [] → s.net.sent = [] →
      s.muteLink link = (s.net.wires.filter fun w => w.link == some link && !w.muted).foldl (fun (s : State) w => s.muted w 2 2) s)) ∧
  (∀ (k : Chunk) (s : State),
    let told := fun (t : State) (f : ChunkFate) => exec (.collectiveChunk k) s = .next (t.answerChunk k f)
    (∀ f, f ≠ .waits → k.src ≠ s.mem.own → s.answerChunk k f = { s with out := s.out ++ [.chunkAnswer k.src (f == .accepted) (f == .ahead)] }) ∧
    (s.har.graph k.coll.toNat = none → told (s.countErr 45) .refused) ∧
    ∀ g, s.har.graph k.coll.toNat = some g →
      (g.node k.node = none → told (s.countErr 45) .refused) ∧
      ∀ d, g.node k.node = some d →
        (((d.kind ≠ 2 ∧ d.kind ≠ 3) ∨ d.peer ≠ k.src ∨ d.len ≠ k.data.length) → told (s.countErr 45) .refused) ∧
        ((d.kind = 2 ∨ d.kind = 3) → d.peer = k.src → d.len = k.data.length →
          (2 ^ 31 ≤ (k.gen - g.gen).toNat → told (s.countErr 45) .refused) ∧
          (0 < (k.gen - g.gen).toNat → (k.gen - g.gen).toNat < 2 ^ 31 →
            (g.held.length < 64 → told (s.onGraph g.coll fun g => { g with held := g.held ++ [k] }) .accepted) ∧ (64 ≤ g.held.length → told s .ahead)) ∧
          (k.gen = g.gen → (k.node ∈ g.taken ∨ k.node ∈ g.done) → told (s.countErr 45) .refused) ∧
          (k.gen = g.gen → k.node ∉ g.taken → k.node ∉ g.done →
            (s.ingressFull g d k false = true → exec (.collectiveChunk k) s = .next { s with har := { s.har with ingress := s.har.ingress ++ [(k, false)] } }) ∧
            (s.ingressFull g d k false = false →
              let u := s.onGraph g.coll fun g => { g with taken := k.node :: g.taken }
              let stack := paStack (natField (g.addr d).toNat 0 44)
              (d.kind = 2 → told (({ u with har := { u.har with steps := u.har.steps ++ ([⟨stack, g.coll, k.node, g.gen, g.addr d, d.len,
                BitVec.ofNat 8 d.optype, d.donePeg, k.data, k.poison, false, false⟩] : List BaseStep) } } : State).askStep stack) .accepted) ∧
              (∀ p, d.kind = 3 → s.physRange (g.addr d) d.len = .ok p →
                told ((u.physWrite p (withSectorPoison k.data k.poison)).nodeDone g.coll k.node g.gen) .accepted))))) ∧
  (∀ (id stack coll node : Nat) (s : State),
    (∀ c, s.net.chunksOut.find? (fun c => c.id == id) = some c → exec (.chunkRetry id) s = .next
      (if c.dest = s.mem.own then { s with agenda := s.agenda ++ [.deliver (.chunk c.chunk)] }
       else { s with out := s.out ++ [.chunk c.dest c.chunk] })) ∧
    (∀ b, s.har.steps.find? (fun b => b.stack == stack) = some b →
      (b.granted = false → exec (.baseDieStep stack) s = .next s) ∧
      (∀ p ty o, b.granted = true → s.physRange b.base b.len = .ok p → redOf (natField b.optype.toNat 2 2) (natField b.optype.toNat 0 2) = some (ty, o) →
        let u := s.physWrite p (redWithPoison ty o (s.physRead p b.len) (withSectorPoison b.data b.poison))
        exec (.baseDieStep stack) s = .next (((u.nodeDone b.coll b.node b.gen).dropStep b).feedIngress))) ∧
    (∀ g d, s.har.graph coll = some g → g.node node = some d → (d.kind = 2 ∨ d.kind = 3) → node ∉ g.done → g.probe ≠ 0 → d.peer ≠ s.mem.own →
      exec (.collProbe coll node) s = .next
        (let u := s.request ⟨0, ⟨d.peer.toNat * 2 ^ 44, 0⟩⟩ .probe (.probe coll node)
         u.onGraph coll fun g => { g with since := u.pkg.time })))

/-- R384, R387 to R389, R391 to R394, R397 to R400, R402, R406, R407, R422: the network's, storage's and signature service's events. A packet out
of order is refused and one already seen discarded; an operation whose key, address space, range and permission agree is admitted as a whole,
any other refused with its reason and reported. An operation of this package ends with its STATUS and DONEPEG, a read once all of it has landed.
A port that is down or not enabled takes no packet, and an answer leaves as its traffic class may. That a command on a path not yet established
waits without effect is the model's choice (log 37). -/
def Obligations.NetworkEvents : Prop :=
  (∀ (r : RmaReq) (s : State),
    let v := r.via
    let t := s.net.receiver v
    let first := ∀ f ∈ s.net.inflows, ∀ g q, f.work = .rma g q → ¬(q.via.op = v.op ∧ sameFlow q.via v = true)
    (s.net.portRuns v.port = false → exec (.rmaRequest r) s = .next s) ∧
    (∀ o : Out, s.net.answers.all (·.1 != v.tc) = true →
      (s.net.carries v.tc = true → s.answerVia v o = { s with out := s.out ++ [o] }) ∧
      (s.net.carries v.tc = false → s.answerVia v o = { s with net := { s.net with answers := s.net.answers ++ [(v.tc, o)] } })) ∧
    (s.net.portRuns v.port = true → t.resident = true →
      (t.ordered = true → v.psn ≠ t.expect → exec (.rmaRequest r) s = .next (s.answerVia v (.nak v (.sequence t.expect)))) ∧
      (t.ordered = false → (v.psn < t.expect ∨ v.psn ∈ t.seen) → exec (.rmaRequest r) s = .next s) ∧
      (∀ t' g, t.take v.psn 1 = .ok t' → first → v.op ∉ t.bad → s.rmaCheck r = .ok g →
        exec (.rmaRequest r) s = .next (((s.putTransport t').takeIn (some v) (.rma g r) r.raddr.toNat r.len
          ((⟨[], []⟩ : Landing).arrive r.raddr.toNat r.off (rmaData r))).pumpAll)) ∧
      (∀ t' reason, t.take v.psn 1 = .ok t' → first → v.op ∉ t.bad → s.rmaCheck r = .error reason → ∃ u : State,
        exec (.rmaRequest r) s = .next u ∧ u.mem = s.mem ∧ u.net.inflows = s.net.inflows ∧
          (s.net.carries v.tc = true → s.net.answers.all (·.1 != v.tc) = true → u.out = s.out ++ [.nak v (.violation reason)]) ∧
          (s.net.carries v.tc = false → u.out = s.out ∧ u.net.answers = s.net.answers ++ [(v.tc, .nak v (.violation reason))]) ∧
          u.har.queue = s.har.queue ++ ([⟨7, v.asid, BitVec.allOnes 64, r.key.setWidth 64, r.raddr,
            reason.setWidth 64 ||| (v.pid.setWidth 64 <<< 16), s.pkg.time, none, none⟩] : List Event))) ∧
    (match s.net.regions.find? fun g => g.index == (r.key.extractLsb' 0 16).toNat && (g.live || g.revokeId.isSome) with
      | none => s.rmaCheck r = .error 1
      | some g => s.rmaCheck r = (if g.gen ++ BitVec.ofNat 16 g.index ≠ r.key then .error 1 else if g.asid ≠ v.asid then .error 2
        else if g.holds s.mem.own r.raddr (rmaBytes r) = false then .error 3
        else if g.perms.getLsbD (match r.kind with
          | .read => 0
          | .write _ _ => 1
          | _ => 2) = false then .error 4
        else if g.live = false then .error 5 else .ok g))) ∧
  (∀ (id : Nat) (o : RmaOp) (s : State), s.net.ops.find? (fun o => o.id == id) = some o → o.ended = none →
    let d := o.desc.toNat
    let status := fun (s : State) (v : Nat) =>
      (s.lateWrite o.descKey (o.descAt + 0x1E) (natBytes 1 v) false).pegDone (o.desc.extractLsb' 224 16)
    let arrived := fun (l : List (Byte × Bool)) (v : Nat) => { o with land := o.land.arrive (rmaLaddr d).toNat 0 l, ended := some v }
    (o.sent < o.packets → ∀ data poison, exec (.rmaComplete id (.done data poison)) s = .next s) ∧
    (o.packets ≤ o.sent → ∀ data poison,
      (o.kind = .write → exec (.rmaComplete id (.done data poison)) s = .next (status (s.dropOp o) 0)) ∧
      ((o.kind = .add ∨ o.kind = .cas) →
        exec (.rmaComplete id (.done data poison)) s = .next (status ((s.dropOp o).atomResult o (sizedBytes 8 data poison)) 0)) ∧
      (o.kind = .read →
        let o' := arrived (sizedBytes (rmaLen d) data poison) 0
        exec (.rmaComplete id (.done data poison)) s = .next (((s.dropPackets o.id).onOp o.id fun _ => o').readDone o'))) ∧
    (o.sent ≠ 0 →
      (o.kind = .write → exec (.rmaComplete id .gaveUp) s = .next (status (s.dropOp o) 1)) ∧
      ((o.kind = .add ∨ o.kind = .cas) →
        exec (.rmaComplete id .gaveUp) s = .next (status ((s.dropOp o).atomResult o (List.replicate 8 (0, true))) 1)) ∧
      (o.kind = .read → ∃ (l : List (Byte × Bool)) (u : State), l.length = rmaLen d ∧ (∀ b ∈ l, b.2 = true) ∧ u = { s with fresh := u.fresh } ∧
        exec (.rmaComplete id .gaveUp) s = .next (((u.dropPackets o.id).onOp o.id fun _ => arrived l 1).readDone (arrived l 1))) ∧
      (∀ reason, o.kind = .write ∨ o.kind = .read ∨ o.kind = .add ∨ o.kind = .cas → exec (.rmaComplete id (.violation reason)) s =
        .next ((status (s.dropOp o) 2).raise 7 o.asid (BitVec.allOnes 64) ((o.desc.extractLsb' 32 32).setWidth 64) (rmaRaddr d)
          (reason.setWidth 64 ||| (o.asid.setWidth 64 <<< 16))))) ∧
    (∀ (x : RmaOp) (v : Nat), x.ended = some v → (x.kind = .write ∨ x.kind = .read ∨ x.kind = .add ∨ x.kind = .cas) →
      s.readDone x = if x.land.done (rmaLaddr x.desc.toNat).toNat (rmaLen x.desc.toNat) then (s.dropOp x).rmaStatus x v else s)) ∧
  (∀ (id tc psn : Nat) (s : State),
    (∀ m, s.net.sent.find? (fun m => m.id == id) = some m →
      let u := s.dropPackets id
      exec (.messageAck id) s = .next (({ u with net := { u.net with sent := u.net.sent.filter (·.id != id) } } : State).pegDone m.donePeg)) ∧
    (∀ t, s.net.transports.find? (fun t => t.id == tc) = some t →
      (∀ e, t.ordered = true → exec (.packetNak tc psn (.sequence e)) s = .next (s.resend t fun n => decide (e ≤ n))) ∧
      (t.ordered = false → exec (.packetNak tc psn .single) s = .next (s.resend t fun n => n == psn) ∧
        exec (.packetNak tc psn .contextMiss) s = .next (s.resend t fun n => n == psn)) ∧
      (∀ p, t.packets.find? (fun p => p.psn == psn) = some p →
        (∀ reason, exec (.packetNak tc psn (.violation reason)) s = .next (s.endPacketOp p.op (.violation reason))) ∧
        (7 ≤ p.timeouts → exec (.retransmitTimeout tc psn) s = .next (s.endPacketOp p.op .gaveUp)) ∧
        (p.timeouts < 7 →
          let t' : Transport := { t with packets := t.packets.map fun q => if q.psn = psn then { q with timeouts := q.timeouts + 1 } else q }
          exec (.retransmitTimeout tc psn) s =
            .next ((s.onTransport tc fun _ => t').resend t' fun n => if t.ordered then decide (psn ≤ n) else n == psn))) ∧
      (∀ which, s.net.transports = [t] → (∀ p ∈ t.packets, p.due = false) → s.net.answers = [] → s.net.carries t.tc = true →
        (s.resend t which).out = s.out ++ (t.packets.filter fun p => which p.psn).map fun p => .packetAgain t.id p.psn) ∧
      (t.resident = true → exec (.contextFetch tc) s = .next s) ∧
      (t.resident = false → t.held = [] → exec (.contextFetch tc) s = .next ((s.countErr 36).putTransport { t with resident := true }))) ∧
    (∀ r, s.net.revokes.find? (fun r => r.id == id) = some r →
      (s.revokeBusy r = true → exec (.revokeComplete id) s = .next s) ∧
      (s.revokeBusy r = false → exec (.revokeComplete id) s = .next
        { s.pegDone r.donePeg with net := (s.pegDone r.donePeg).net.free r }))) ∧
  (∀ (id port prio conn : Nat) (on : Bool) (data : List Byte) (s : State),
    (exec (.pfcPause port prio on) s = .next (if s.net.lossless port prio then
      ({ s with net := { s.net with paused := (if on then [(port, prio)] else []) ++ s.net.paused.filter fun p => p != (port, prio) } } : State).flushDue
      else s)) ∧
    (∀ c, s.net.nvme.find? (fun c => c.id == id) = some c →
      (∀ ok, s.net.pathState c.path = .waiting → exec (.nvmeCompletion id ok data) s = .next s) ∧
      (∀ ok, s.net.pathState c.path = .dead → exec (.nvmeCompletion id ok data) s = .next (s.failCmd c)) ∧
      (s.net.pathState c.path = .up →
        (c.retries < 3 → ∃ u : State, exec (.nvmeCompletion id false data) s = .next u ∧ { c with retries := c.retries + 1 } ∈ u.net.nvme ∧
          u.out = s.out ++ [.nvme c.id c.isWrite c.path c.nsid c.lba c.len c.fua c.data]) ∧
        (3 ≤ c.retries → exec (.nvmeCompletion id false data) s = .next (s.failCmd c)) ∧
        (c.isWrite = true → exec (.nvmeCompletion id true data) s = .next ((s.dropCmd c).settle c.ref)) ∧
        (c.isWrite = false → exec (.nvmeCompletion id true data) s = .next ((s.dropCmd c).arriveIn c.ref c.off (sizedBytes c.len data []))))) ∧
    (port < 16 → port ∉ s.net.deadDrives → exec (.driveFailure port) s = .next
      (({ s with net := { s.net with deadDrives := port :: s.net.deadDrives } } : State).failPath port)) ∧
    (∃ l, exec (.connectionEstablished conn) s = .next { s with net := { s.net with conns := l } } ∧
      ∀ c ∈ l, c.index = conn → c.up = true ∨ c.failed = true) ∧
    (∃ l, exec (.connectionFailure conn) s = .next (({ s with net := { s.net with conns := l } } : State).failPath (256 + conn)) ∧
      ∀ c ∈ l, c.index = conn → c.up = false ∧ c.failed = true) ∧
    (port < 8 → ∃ t : State, exec (.portUp port) s = .next t ∧ port ∈ t.net.portsUp ∧ t.mem = s.mem) ∧
    (∀ r rest, s.net.signs = r :: rest → r.reply = none → (s.mem.keyOf r.dstKey).isSome = true → exec .signatureComplete s = .next
      ((({ s with net := { s.net with signs := rest } } : State).setMem
        (s.mem.dieWrite r.dstKey r.dst (padTo 384 (Config.signature r.digest)) false)).pegDone r.donePeg)) ∧
    (∃ t : State, exec (.healthTestFailure on) s = .next t ∧ t.net = { s.net with entropyFailing := on } ∧ t.ctx = s.ctx))

/-- R409 to R416, R420, R421, R428 to R431: reset forgets what ran; the package waits for an image once its links have trained; an
image is checked after its doorbell and runs only where its checks find nothing; the management port and attestation answer; host messages and records pass through their rings.
The response codes of attestation (log 33) are presumed; the boot ROM's turns (log 38) and what a reset keeps (log 40) are the model's choices. -/
def Obligations.BootAndManagementEvents : Prop :=
  ∀ (len v : Dword) (data : List Byte) (off n slot idx cmd : Nat) (nonce : BitVec 256) (m : BitVec 512) (peer : BitVec 10) (port : Nat) (s : State),
    (∃ t : State, exec .packageReset s = .next t ∧ t.pkg.bootState = 0 ∧ t.pkg.ownSet = false ∧ t.pkg.started = false ∧ t.ctx = State.reset.ctx ∧ t.others = [] ∧
      t.har = State.reset.har ∧ t.mem.hbm = s.mem.hbm ∧ t.mem.keyOf 0 = some s.mem.nextBootKey ∧ exec (.reload 0x5A5A) s = .next t) ∧
    (v ≠ 0x5A5A → exec (.reload v) s = .next s) ∧
    (s.pkg.bootState ≠ 1 → exec (.doorbell len) s = .next s ∧ exec (.stagingWrite off data) s = .next s) ∧
    (s.pkg.bootState = 1 →
      (off + data.length ≤ 0x10000000 →
        exec (.stagingWrite off data) s = .next (s.setMem (s.mem.dieWrite 0 (0x200000000 + off) data false)) ∧
        (data.length ≤ 4096 → exec (.stage off data none) s = .next (s.setMem (s.mem.dieWrite 0 (0x200000000 + off) data false)))) ∧
      exec (.doorbell len) s = .next { s with pkg := { s.pkg with bootState := 2, bootLen := len.toNat }, agenda := s.agenda ++ [.boot] }) ∧
    (s.pkg.bootState = 0 → (s.mem.keyOf 0).isSome = true →
      s.turnBoot.pkg = { s.pkg with bootState := 1, ownSet := true } ∧ s.turnBoot.mem = s.mem) ∧
    (s.pkg.bootState = 2 →
      let u : State := { s with pkg := s.pkg.extend 1 (sha256 (s.staged 0x200 384)) }
      let g := u.image s.pkg.bootLen
      (∀ code i, u.imageCheck g = (code, i) → code ≠ 0 →
        s.turnBoot = { u with pkg := { u.pkg with bootState := 4, bootCode := code, bootIndex := i % 65536 } }) ∧
      (∀ i l, u.imageCheck g = (0, i) → headAddrs u.mem.own g.head = some l → s.turnBoot = u.install g l)) ∧
    (exec .readStatus s = .next { s with out := s.out ++
      [.management (natBytes 8 (s.pkg.bootState + s.pkg.bootCode * 2 ^ 8 + s.pkg.bootIndex * 2 ^ 32) ++ s.powerBlock)] }) ∧
    (off + n ≤ 256 → exec (.readCounters off n) s =
      .next { s with out := s.out ++ [.management ((upTo n).flatMap fun i => natBytes 8 (s.mem.counter s.pkg (off + i)))] }) ∧
    (s.pkg.started = true → ∀ i, s.mem.counter s.pkg i = s.mem.ctlNat s.pkg (0x42200 + 8 * i) 8) ∧
    (∃ t : State, exec (.clearCounters off n) s = .next t ∧ { t with mem := s.mem } = s) ∧
    (∃ l, exec (.readLog off n) s = .next { s with out := s.out ++ [.management (natBytes 8 (s.mem.ctlNat s.pkg 0x42F00 8) ++ l)] }) ∧
    (∃ l, exec (.mgmtUnknownCommand cmd) s = .next { s with out := s.out ++ [.management l] }) ∧
    (∀ p ∈ ([(.getVersion, 0x04), (.getCapabilities, 0x61), (.negotiateAlgorithms, 0x63), (.getDigests, 0x01), (.getCertificate 0 off n, 0x02),
        (.spdmUnsupportedRequest cmd, 0x7F)] : List (Instr × Nat)), ∃ l, exec p.1 s = .next { s with out := s.out ++ [.spdm p.2 l] }) ∧
    (∃ (t : State) (q : SignReq), exec (.challenge 0 nonce) s = .next t ∧ t.net.signs = s.net.signs ++ [q] ∧
      ∃ own, q.reply = some (0x03, sha256 Config.certificateChain ++ own)) ∧
    (1 ≤ idx → idx ≤ 8 → ∃ (t : State) (q : SignReq) (l : List Byte), exec (.getMeasurements idx nonce) s = .next t ∧
      t.net.signs = s.net.signs ++ [q] ∧ q.reply = some (0x60, l) ∧ l.drop 7 = bytesOf (s.pkg.meas.toList.getD (idx - 1) 0) 0 32) ∧
    (s.pkg.started = true → s.pkg.hostMsgs.length < 64 →
      exec (.hostMessage m) s = .next { s with pkg := { s.pkg with hostMsgs := s.pkg.hostMsgs ++ [m] } }) ∧
    (∀ r rest, s.pkg.mailbox = r :: rest → ringOk s.pkg.hrlen = true → s.pkg.hrhead - s.pkg.hrtail ≠ s.pkg.hrlen →
      exec .hostRecordSend s = .next { s with
        pkg := { s.pkg with mailbox := rest, hrhead := s.pkg.hrhead + 1 }
        out := s.out ++ [.hostRecord (s.pkg.hrbase + BitVec.ofNat 64 (64 * (s.pkg.hrhead.toNat % s.pkg.hrlen.toNat))) r, .msix 0] }) ∧
    (s.pkg.started = true → exec .keyLoad s = .next s.keyWritten ∧ ∃ t : State, exec .meas7Extend s = .next t ∧ t.mem = s.mem ∧
      t.pkg.meas[7] = extendMeas s.pkg.meas[7] (s.ctlBytes 0x42A80 32)) ∧
    (exec (.peerTableWrite peer v) s = .next
      ((s.setMem (s.mem.peerPut s.pkg peer (v &&& ~~~(0xFFF0 : Dword)))).peerWritten peer (s.mem.peer s.pkg peer) (v &&& ~~~(0xFFF0 : Dword)))) ∧
    (port < 8 → ∃ t : State, exec (.portTableWrite port) s = .next t ∧ t.mem = s.mem ∧
      t.net.ports.find? (fun p => p.1 == port) = some (port, BitVec.ofNat 512 (leNat (s.ctlBytes (0x42000 + 64 * port) 64))))

/-! Registers, tokens, traps (03, 04) -/

/-- R35, R36, R96, R97: a write to s0, p0 or m0 is discarded and s0 reads 0, p0 true and m0 all ones, clean; a register reads what was
last written to it and no write reaches another. A stream at or behind the position of a write still reads the register's older
value; one that has passed a write that S has yet to make waits. S waits before a write that would need a fifth version. -/
def Obligations.HardwiredAndTextOrderedRegisters : Prop :=
  (∀ (f : ScalarFile) (v : SVal) (q : PVal) (c : Ctx) (x : MVal), f.setS 0 v = f ∧ f.getS 0 = ⟨0, false⟩ ∧ f.setP 0 q = f ∧
    f.getP 0 = ⟨true, false⟩ ∧ c.setM 0 x = c ∧ c.getM 0 = ⟨BitVec.allOnes 1024, false⟩ ∧ c.writeS 0 v = c) ∧
  (∀ (f : ScalarFile) (c : Ctx),
    (∀ (r q : SReg) v, r ≠ 0 → (f.setS r v).getS q = if q = r then v else f.getS q) ∧
    (∀ (r q : PReg) v, r ≠ 0 → (f.setP r v).getP q = if q = r then v else f.getP q) ∧
    (∀ (r q : BReg) v, (f.setB r v).getB q = if q = r then v else f.getB q) ∧
    (∀ (r q : VReg) v, (c.setV r v).getV q = if q = r then v else c.getV q) ∧
    (∀ (r q : MReg) v, r ≠ 0 → (c.setM r v).getM q = if q = r then v else c.getM q) ∧
    (∀ (t u : Nat) v, t < 96 → (c.setA t v).getA u = if u = t then v else c.getA u)) ∧
  (∀ (c : Ctx) (e : StreamId) (r : SReg) (v : SVal), r ≠ 0 → e ≠ .S → (c.stream e).inact = false →
    ((c.stream e).pos ≤ c.streams.s.pos → (c.writeS r v).readS e r = .ok
      (match c.hist.find? fun h => h.2.1 == r && decide ((c.stream e).pos ≤ h.1) with
        | some h => h.2.2
        | none => c.sf.getS r)) ∧
    (c.streams.s.pos < (c.stream e).pos → (∀ h ∈ c.hist, h.2.1 = r → h.1 < (c.stream e).pos) → c.pending r = false →
      (c.writeS r v).readS e r = (if (c.stream e).writes.any (fun w => w.2 == r && decide (c.streams.s.pos ≤ w.1)) then .error 6 else .ok v))) ∧
  (∀ (t : Tok) (d : SReg) (i : BitVec 13) (s : State), s.issues .S t → s.ctx.pending d = false → s.ctx.versionsFull d = true →
    exec (.movi t d i) s = .next (s.setCtx (s.ctx.stalled .S 6)))

/-- R99 to R102: which counter each token bit of an engine's words pops or pushes; a word that pops a counter that is zero waits with
STALL 1, unless it has issued and made its pops; an S word whose forward push finds SL_F at its ceiling, counted with the pushes still pending, executes, does not push and
then traps TOKEN_OVERFLOW with the counter in its detail; otherwise SL_F goes up by 1. That the record has size 0 is the model's choice
(log 16). -/
def Obligations.TokensWaitPushAndOverflow : Prop :=
  (∀ p ∈ ([(.S, none, some 0, some 1, none), (.L, some 0, some 2, some 3, some 1), (.M, some 2, some 4, some 5, some 3),
      (.V, some 4, some 6, some 7, some 5), (.W, some 6, none, none, some 7), (.Y, none, none, none, none)] :
      List (StreamId × Option Nat × Option Nat × Option Nat × Option Nat)),
    popF p.1 = p.2.1 ∧ pushF p.1 = p.2.2.1 ∧ popB p.1 = p.2.2.2.1 ∧ pushB p.1 = p.2.2.2.2) ∧
  (∀ (w : Word) (i j : Nat), i < 8 → j < 8 → tokGet (tokAdd w i 1) j = (if j = i then (tokGet w j + 1) % 16 else tokGet w j) ∧
    tokGet (tokAdd w i 15) j = (if j = i then (tokGet w j + 15) % 16 else tokGet w j)) ∧
  (∀ (t : Tok) (d a b : BitVec 5) (ch : Chan) (n : BitVec 5) (s : State),
    ∀ p ∈ ([(.S, .add t d a b), (.L, .gath t d a b true ch), (.M, .mzero t 0 n), (.V, .vadd t .fp32 d a b), (.W, .copyf t d a b ch)] :
      List (StreamId × Instr)),
    s.agent = .stream p.1 → s.ctx.issued.all (·.e != p.1) = true → popReady s.ctx.tok p.1 t = false →
    exec p.2 s = .next (s.setCtx (s.ctx.stalled p.1 1))) ∧
  (∀ (d a b : SReg) (s : State), let t : Tok := ⟨false, true, false, false⟩
    let done := (s.writeS d ⟨(s.sf.getS a).v + (s.sf.getS b).v, (s.sf.getS a).p || (s.sf.getS b).p⟩)
    let full := tokGet s.ctx.tok 0 + ((s.ctx.loads.filter (·.push)).length + (s.ctx.banks.filter (·.push)).length) = tokGet s.ctx.regs.tokCeil 0
    s.agent = .stream .S → s.ctx.issued.all (·.e != .S) = true → s.sWaits [a, b] = false → s.dstReady d →
      (full → exec (.add t d a b) s = .next ((done.setCtx (done.ctx.onStream .S (·.advance 1))).takeTrap 0
        ⟨0x10, BitVec.ofNat 64 (16 * tokGet s.ctx.tok 0), none, none, none⟩)) ∧
      (¬full → exec (.add t d a b) s = .next (done.setCtx { done.ctx.onStream .S (·.advance 1) with tok := tokAdd s.ctx.tok 0 1 })))

/-- R34, R91, R92, R102, R107, R108, R110, R113, R347, R458: a stream passes another's word, reaching no further than its window; a word
of its own that does not decode, or that its core type lacks, traps; the trap that follows a word comes once nothing that the word
issued is outstanding; a stopped context's streams stay where they are. Taking a trap stops every stream where it stands, marks the
failing one and makes the record, drops the trap that would have followed another's word, and changes nothing else; resuming undoes the
stop and forgets what an open word saw unless that word is still under way. On a thread the trap is its end. A register word of V whose unit an
earlier word still takes waits with STALL 14. What the trap that follows a word of S or of M waits for, and with which STALL, is the model's
choice (log 16), as is when the vector unit is taken (log 6). -/
def Obligations.StreamsPassStopAndTrap : Prop :=
  (∀ (inst : Nat) (e : StreamId) (s u t v : State) (w lit : Word), s.nextTurn = (.word inst e, u) → u.pkg.stopped = false →
    u.focus inst = some t →
    let a : State := { t with agent := .stream e }
    let eng := Engine.ofCode (Header.unpack w).eng
    let done := fun (x : State) => (Host.Outcome.next (x.settleAll u (some (inst, e))) : Outcome)
    let kept := fun (x : State) => done (x.keepWord e (w, lit))
    (t.ctx.runs e = false → step s = done u) ∧
    (t.ctx.runs e = true → ∀ x, t.ctx.late.find? (·.1 == e) = some x →
      step s = done (if e = .S ∧ (t.ctx.loads ≠ [] ∨ t.ctx.banks ≠ []) then a.setCtx (t.ctx.stalled e 11)
        else if e = .M ∧ t.ctx.jobs ≠ [] then a.setCtx (t.ctx.stalled e 14) else a.takeTrap 0 x.2)) ∧
    (t.ctx.runs e = true → t.ctx.late.find? (·.1 == e) = none → t.ctx.midWord e = false →
      (∀ tr, a.codeAt (t.ctx.stream e).pc = (v, .error tr) →
        step s = done (if e = .S then v.takeTrap 1 tr else v.setCtx (v.ctx.stalled e 8))) ∧
      (a.codeAt (t.ctx.stream e).pc = (v, .ok (w, lit)) →
        (∀ code, v.ctx.slipHolds e (passSize e w lit) = some code → step s = kept (v.setCtx (v.ctx.stalled e code))) ∧
        (v.ctx.slipHolds e (passSize e w lit) = none →
          (ownerOf eng ≠ e → eng ≠ .A → ∃ c : Ctx, step s = kept (v.setCtx c) ∧
            (c.stream e).pc = (v.ctx.stream e).pc + BitVec.ofNat 64 (4 * wordSize w) ∧ (c.stream e).pos = (v.ctx.stream e).pos + wordSize w ∧
            (∀ k, k ≠ e → c.stream k = v.ctx.stream k) ∧ { c with streams := v.ctx.streams, covers := v.ctx.covers } = v.ctx) ∧
          (e = .S → eng = .N → step s = kept (v.takeTrap 1 (wordTrap 0x02 w))) ∧
          (e = .S → eng = .A → (Header.unpack w).op = 9 → step s = kept (v.takeTrap 1 (wordTrap 0x01 w))) ∧
          (ownerOf eng = e → e = .V → v.ctx.slow = true → ((Header.unpack w).op < 0x50 ∨ 0x56 < (Header.unpack w).op) →
            step s = kept (v.setCtx (v.ctx.stalled .V 14))) ∧
          (ownerOf eng = e → eng ≠ .N → (eng = .A → (Header.unpack w).op ≠ 9) →
            (e = .V → v.ctx.slow = true → 0x50 ≤ (Header.unpack w).op ∧ (Header.unpack w).op ≤ 0x56) →
            (decodeWord w lit = .error .illegalInstruction → step s = kept (v.takeTrap (wordSize w) (wordTrap 0x01 w))) ∧
            (decodeWord w lit = .error .reservedField → step s = kept (v.takeTrap (wordSize w) (wordTrap 0x03 w)))))))) ∧
  (∀ (s : State) (e : StreamId) (n : Nat) (tr : Trap), s.agent = .stream e →
    (s.ctx.regs.trapped = true → s.takeTrap n tr = s) ∧
    (s.ctx.regs.trapped = false → ∃ c : Ctx, s.takeTrap n tr = s.setCtx c ∧ c.regs = { s.ctx.regs with trapped := true } ∧
      (∀ k, c.stream k = { s.ctx.stream k with fail := k == e, stall := if k = e then 0 else (s.ctx.stream k).stall }) ∧
      c.record = some ⟨tr, some e, n, s.ctx.id, streamOrder.map fun k => (s.ctx.stream k).pc, streamOrder.map fun k => (s.ctx.stream k).pos,
        streamOrder.map c.status, s.pkg.time, s.ctx.tok, s.ctx.fifo.length⟩ ∧ c.undelivered = true ∧ c.late = [] ∧
      { c with streams := s.ctx.streams, regs := s.ctx.regs, record := s.ctx.record, late := s.ctx.late, undelivered := s.ctx.undelivered } =
        s.ctx)) ∧
  (∀ c : Ctx, c.resume.regs = { c.regs with trapped := false } ∧ (∀ k, c.resume.stream k = { c.stream k with fail := false }) ∧
    c.resume.xfers = c.xfers.map (fun x => { x with fault := none }) ∧ c.resume.sees = c.sees.filter (fun x => c.underWay x.1) ∧
    { c.resume with streams := c.streams, regs := c.regs, sees := c.sees, xfers := c.xfers } = c) ∧
  (∀ (s : State) (n : Nat) (tr : Trap), s.agent = .thread → (s.takeTrap n tr).thr = Thread.idle s.thr.num ∧
    (s.takeTrap n tr).ctx = s.ctx ∧ (s.takeTrap n tr).others = s.others ∧ (s.takeTrap n tr).threads = s.threads)

/-- R37: a Harius thread starts with its event record in s1 to s6. All its other s registers are 0 and clean. p0 is true and p1 to p7 are
false. Its b registers hold the handler's entry address. -/
def Obligations.ThreadStartsWithItsEvent : Prop :=
  ∀ (n : Nat) (e : Event) (rest : List Event) (entry : Dword) (s : State), s.har.queue = e :: rest → (upTo 512).find? s.threadFree = some n →
    ({ s with har := { s.har with queue := rest } } : State).handlerOf e = some entry →
    ∃ t : State, exec .eventDispatch s = .next t ∧ t.thr.num = n ∧ t.thr.running = true ∧ t.thr.pc = entry ∧
      (∀ p ∈ [((1 : SReg), e.s1), (2, e.s2), (3, e.s3), (4, e.s4), (5, e.s5), (6, e.time)], t.thr.sf.getS p.1 = ⟨p.2, false⟩) ∧
      (∀ r : SReg, r = 0 ∨ 6 < r.toNat → t.thr.sf.getS r = ⟨0, false⟩) ∧
      t.thr.sf.getP 0 = ⟨true, false⟩ ∧ (∀ r : PReg, r ≠ 0 → t.thr.sf.getP r = ⟨false, false⟩) ∧ ∀ r : BReg, t.thr.sf.getB r = entry

/-- R365, R366: PREEMPT_MARGIN's and DRAIN_LIMIT's fields as a thread writes and reads them, and their values at reset; and the policy
that Harius chooses from REMAIN_EST, the limit, the cost of a checkpoint and RESTART: drain, checkpoint, kill or checkpoint. -/
def Obligations.PreemptionRegistersAndPolicy : Prop :=
  State.reset.har.preemptMargin = 16 ∧ State.reset.har.drainLimit = 50000 ∧
  (∀ (t : Tok) (d : SReg) (s : State), s.agent = .thread →
    exec (.gets t d 0xC00) s = .next ((s.writeS d ⟨s.har.preemptMargin.setWidth 64, false⟩).after t 1) ∧
    exec (.gets t d 0xC01) s = .next ((s.writeS d ⟨s.har.drainLimit.setWidth 64, false⟩).after t 1) ∧
    ∀ v : Dword, s.readS d = .ok ⟨v, false⟩ →
      exec (.sets t d 0xC00) s = .next (({ s with har := { s.har with preemptMargin := v.extractLsb' 0 8 } } : State).after t 1) ∧
      exec (.sets t d 0xC01) s = .next (({ s with har := { s.har with drainLimit := v.extractLsb' 0 48 } } : State).after t 1)) ∧
  (∀ (s : State) (c : Ctx),
    let bytes := 16384 + 20480 + c.scrBytes + 16384 * c.tiles
    let cost := 2000 + (bytes + 127) / 128
    (c.regs.remain.toNat ≤ s.har.drainLimit.toNat → s.policy c = .drain) ∧
    (s.har.drainLimit.toNat < c.regs.remain.toNat → cost * 4 ≤ c.regs.remain.toNat → s.policy c = .checkpoint) ∧
    (s.har.drainLimit.toNat < c.regs.remain.toNat → c.regs.remain.toNat < cost * 4 →
      s.policy c = if (s.typeEntry c.ttype.toNat).any (fun e => e.getLsbD 57) then .kill else .checkpoint))

/-! Decoding, and the machine as a whole -/

/-- R27 to R34, R43 to R50: words written from the spec's encodings decode to the instructions they stand for, and words that R33 refuses
are refused with its cause: an unassigned opcode, a type that the opcode does not take, a reserved bit, a token bit that is not the
engine's, a tile above 95. -/
def Obligations.DecodesAndRejectsSpecWords : Prop :=
  (∀ p ∈ ([(0x0000C100, 0, .add ⟨false, false, false, false⟩ 6 1 0), (0x08006110, 0, .add ⟨false, true, false, false⟩ 3 1 2),
      (0x0090C006, 0, .shli ⟨false, false, false, false⟩ 6 6), (0x00A0E000, 0xFFFFFFFF, .movw ⟨false, false, false, false⟩ 7 0xFFFFFFFF),
      (0x72008536, 0, .vadd ⟨true, false, false, true⟩ .fp32 4 5 6), (0x800CC744, 0, .copyf ⟨false, false, false, false⟩ 6 7 8 0),
      (0x01A8E643, 0, .rstf ⟨false, false, false, false⟩ 7 6 8 3), (0xA0000838, 0, .nsend 8 7), (0xA0080638, 0, .nrmaw 6 7),
      (0xE0140000, 0, .endTask), (0xE0048000, 0, .prep 1 0), (0xE008B480, 0, .brDnz 1 9),
      (0x60C10204, 0x34, .vcvt ⟨false, false, false, false⟩ .bf16 8 2 false .rne true .fp4e2)] : List (Word × Word × Instr)),
    decodeWord p.1 p.2.1 = .ok p.2.2) ∧
  (∀ p ∈ ([(0x01FC0000, .illegalInstruction), (0x60108530, .illegalInstruction), (0xE0000001, .reservedField), (0xA2000838, .reservedField),
      (0x41480003, .reservedField)] : List (Word × Reject)),
    decodeWord p.1 0 = .error p.2)

/-- Decode and encode agree: every well-formed word of the machine, encoded, decodes to itself, so no bit of any operand is lost (R27 to
R31, R43 to R50). -/
def Obligations.WellFormedWordsRoundTrip : Prop :=
  ∀ i : Instr, i.wellFormed = true → i.isWord = true → ∃ (w : Word) (rest : List Word), encode i = w :: rest ∧
    rest.length = (if isWide w then 1 else 0) ∧ decodeWord w (rest.headD 0) = .ok i ∧
    ∀ tail : List Byte, decode (encodeBytes i ++ tail) = .ok (i, tail)

/-- What decodes is a well-formed word of the machine, and encoding it gives the word and its literal back: no two encodings share an
instruction and no refused bit is dropped (R31 to R33). -/
def Obligations.DecodedWordsAreWellFormed : Prop :=
  ∀ (w lit : Word) (i : Instr), decodeWord w lit = .ok i →
    i.wellFormed = true ∧ i.isWord = true ∧ encode i = if isWide w then [w, lit] else [w]

/-- R22, R27, R30, R107, R458: a step runs the decoded instruction. When the bytes at a stream's place decode to an instruction of the
stream's own, the step is `exec` of it in that context, then what settles after every turn; so too for the word in whose middle the
stream stands, which is not fetched again; a turn in which a word goes on piece by piece is one of the same word (log 24); the same on a
Harius thread, which the watchdog may have end after it (log 62); a slice of the array and an event that have the turn happen. The
word at a code address is the four bytes there, the lowest first: for a thread those of memory, for a context those that its core's
instruction cache holds, else those of memory (log 48: how long a line is held is the model's choice). -/
def Obligations.StepRunsTheDecodedInstruction : Prop :=
  (∀ (inst : Nat) (e : StreamId) (s u t v : State) (w lit : Word) (i : Instr), s.nextTurn = (.word inst e, u) → u.pkg.stopped = false →
    u.focus inst = some t → t.ctx.runs e = true → t.ctx.late.find? (·.1 == e) = none →
    (if t.ctx.midWord e then t.ctx.words.find? (·.1 == e) = some (e, w, lit) ∧ v = { t with agent := .stream e }
      else ({ t with agent := .stream e } : State).codeAt (t.ctx.stream e).pc = (v, .ok (w, lit))) →
    v.ctx.slipHolds e (passSize e w lit) = none →
    ownerOf (Engine.ofCode (Header.unpack w).eng) = e → Engine.ofCode (Header.unpack w).eng ≠ .N →
    (Engine.ofCode (Header.unpack w).eng = .A → (Header.unpack w).op ≠ 9) →
    (e = .V → v.ctx.slow = true → 0x50 ≤ (Header.unpack w).op ∧ (Header.unpack w).op ≤ 0x56) → decodeWord w lit = .ok i →
    ∀ x : State, exec i v = .next x → step s = .next ((x.keepWord e (w, lit)).settleAll u (some (inst, e)))) ∧
  (∀ (inst : Nat) (e : StreamId) (s u x : State), s.nextTurn = (.piece inst e, u) → u.pkg.stopped = false →
    (u.onCtx inst fun c => { c with slow := true }).turn (.word inst e) = .next x →
    step s = .next ((x.onCtx inst fun c => { c with slow := false }).settleAll u (some (inst, e)))) ∧
  (∀ (n : Nat) (s u v : State) (w lit : Word) (i : Instr), s.nextTurn = (.thread n, u) → u.pkg.stopped = false → u.threadFree n = false →
    ({ u.focusThread n with agent := .thread } : State).codeAt (u.focusThread n).thr.pc = (v, .ok (w, lit)) →
    Engine.ofCode (Header.unpack w).eng ∉ [.L, .M, .V, .W] → (Header.unpack w).tok = 0 →
    computeOnly (Engine.ofCode (Header.unpack w).eng) (Header.unpack w).op.toNat ⟨(Header.unpack w).ops⟩ = false → decodeWord w lit = .ok i →
    ∀ x : State, exec i v = .next x → step s = .next (x.endIfDue.settleAll u none) ∧
      (x.thr.ending = false → x.endIfDue = x)) ∧
  (∀ (inst k : Nat) (s u : State), s.nextTurn = (.array inst k, u) → u.pkg.stopped = false →
    step s = .next ((u.turnArray inst k).settleAll u none)) ∧
  (∀ (i : Instr) (s u : State), s.nextTurn = (.event i, u) → u.pkg.stopped = false → i.isWord = false →
    ∀ x : State, exec i u = .next x → step s = .next (x.settleAll u none)) ∧
  (∀ (s v : State) (a : Dword) (g : Global), s.access a .fetch 1 = (v, .ok g) → v.remote g = false →
    let off := g.phys.off
    let key := v.mem.key g.phys.slot
    let line := v.mem.codeFind v.ctx.core (off / 64) key
    (s.agent = .thread → ∃ w : Word, s.codeWord a = (v.setMem (v.mem.endLeases off 4), .ok w) ∧ wordBytes w = v.mem.hbmBytes key off 4) ∧
    (∀ e, s.agent = .stream e → off % 64 ≤ 60 →
      (∀ x, line = some x → ∃ w : Word, s.codeWord a = (v, .ok w) ∧ wordBytes w = (upTo 4).map fun i => elem 8 x.data (off % 64 + i)) ∧
      (line = none → ∃ (w : Word) (y : State), s.codeWord a = (y, .ok w) ∧ wordBytes w = v.mem.hbmBytes key off 4 ∧
        (y.mem.codeFind v.ctx.core (off / 64) key).isSome = true ∧ y.mem.hbm = v.mem.hbm ∧ v.setMem y.mem = y)) ∧
    (∀ e, s.agent = .stream e → 60 < off % 64 →
      ∃ w : Word, s.codeWord a = (v.setMem (v.mem.endLeases off 4), .ok w) ∧ wordBytes w = v.mem.hbmBytes key off 4))

/-- R158, R160, R161, R169, R2: bytes written to a scratchpad or to HBM read back, and no other byte changes; a sector's poison follows
the data written to it and clears when it is wholly overwritten; a store through the L1 is seen by its core at once, byte by byte, and
changes no other byte that the core sees of that line, nor of any line where the L1 has room for it. -/
def Obligations.MemoryReadsAfterWrites : Prop :=
  (∀ (m : Memory) (core off : Nat) (l : List Byte) (p : Bool), m.wf = true →
    (∀ a, cellRead (m.scrWrite core off l p).scr a =
      if scrAt core off ≤ a ∧ a < scrAt core off + l.length then l.getD (a - scrAt core off) 0 else cellRead m.scr a) ∧
    (∀ sec, (m.scrWrite core off l p).scrPoison.contains sec =
      if sec ∈ sectorsOf (scrAt core off) l.length then
        p || (m.scrPoison.contains sec && !(decide (scrAt core off ≤ sec * 32) && decide (sec * 32 + 32 ≤ scrAt core off + l.length)))
      else m.scrPoison.contains sec) ∧
    { m.scrWrite core off l p with scr := m.scr, scrPoison := m.scrPoison } = m) ∧
  (∀ (m : Memory) (key a : Nat) (l : List Byte) (p : Bool), m.wf = true →
    (∀ b, (m.hbmWrite key a l p).hbmByte key b = if a ≤ b ∧ b < a + l.length then l.getD (b - a) 0 else m.hbmByte key b) ∧
    (∀ k b, b / 32 ∉ sectorsOf a l.length → (m.hbmWrite key a l p).hbmByte k b = m.hbmByte k b) ∧
    (∀ sec, (m.hbmWrite key a l p).sectorPoison sec =
      if sec ∈ sectorsOf a l.length then
        p || (m.sectorPoison sec && !(decide (a ≤ sec * 32) && decide (sec * 32 + 32 ≤ a + l.length)))
      else m.sectorPoison sec)) ∧
  (∀ (m : Memory) (core : Nat) (asid : Asid) (vline sec key : Nat) (l : List (Nat × Byte)) (p : Bool),
    m.wf = true → (∀ x, m.l1Find core (sec / 2) = some x → x.key = key) → (∀ x ∈ l, x.1 < 32) →
    ∀ a, (a / 64 = sec / 2 ∨ (m.l1.filter (·.core == core)).length < 1024 ∨ (m.l1Find core (sec / 2)).isSome = true) →
      (m.l1Store core asid vline sec key l p).sees core key a =
      if a / 32 = sec then ((l.find? fun x => x.1 == a % 32).map (·.2)).getD (m.sees core key a) else m.sees core key a) ∧
  (∀ (m : Memory) (core : Nat) (asid : Asid) (va a key n : Nat), m.wf = true → a % 64 + n ≤ 64 → 0 < n →
    (∀ x, m.l1Find core (a / 64) = some x → x.key = key) →
    (m.l1Load core asid va a key n).1 = (upTo n).map fun i => m.sees core key (a + i))

/-- The model's progress: whatever the state, the step answers a next state. Every trap (R107), every wait (R103) and every end of a
Harius thread (R347) is a state of the machine, and a word reaches only an agent that executes it (R34). That one turn at a time is taken
is the model's choice (log 1). -/
def Obligations.EveryStepGoesOn : Prop := ∀ s : State, ∃ t : State, step s = .next t

/-- R164, R169: every step keeps memory in its canonical form (bytes and poisoned sectors strictly rising, no byte listed that is zero)
and every die's split at a multiple of 16 of at most 4,096. The form is the model's (log 2); the split's values are R164's. -/
def Obligations.StepKeepsMemoryAndSplits : Prop := ∀ s t : State, s.safe = true → step s = .next t → t.safe = true

/-- R164, R167, R324, R365, R373, R412, R413: after reset the boot ROM is about to run, in a safe state: FSPLIT holds 1,024 slots and is
not busy, AUTO_PROMOTE 0, PREEMPT_MARGIN 16, DRAIN_LIMIT and GANG_WINDOW 50,000, TMO 7; measurements are 0, the queue is empty, and no
context, thread, task or promotion exists. -/
def Obligations.ResetState : Prop :=
  State.reset.safe = true ∧ State.reset.agenda = [.event .packageReset] ∧
  (∀ d : Fin 4, State.reset.mem.dies[d].slots = 1024 ∧ State.reset.mem.dies[d].busy = false ∧ State.reset.mem.dies[d].auto = 0) ∧
  State.reset.mem.banks = [] ∧ State.reset.har.preemptMargin = 16 ∧ State.reset.har.drainLimit = 50000 ∧ State.reset.har.gangWindow = 50000 ∧
  State.reset.net.switchTimeout = 7 ∧ (∀ k : Fin 8, State.reset.pkg.meas[k] = 0) ∧ State.reset.pkg.started = false ∧
  State.reset.har.queue = [] ∧ State.reset.har.tasks = [] ∧ State.reset.ctxs = [] ∧ State.reset.thr.running = false ∧ State.reset.threads = []
end

