-- ==== Sys2Proof/Laws/State.lean ====
section
/-!
SUPPORT. What each named update of a record leaves and what it sets, field by field, so that no proof unfolds one.
-/

namespace Sys2Proof.Machine

/-! State.setCtx -/

@[simp] theorem State.setCtx_ctx (s : State) (c : Ctx) : (s.setCtx c).ctx = c := rfl
@[simp] theorem State.setCtx_others (s : State) (c : Ctx) : (s.setCtx c).others = s.others := rfl
@[simp] theorem State.setCtx_thr (s : State) (c : Ctx) : (s.setCtx c).thr = s.thr := rfl
@[simp] theorem State.setCtx_threads (s : State) (c : Ctx) : (s.setCtx c).threads = s.threads := rfl
@[simp] theorem State.setCtx_agent (s : State) (c : Ctx) : (s.setCtx c).agent = s.agent := rfl
@[simp] theorem State.setCtx_mem (s : State) (c : Ctx) : (s.setCtx c).mem = s.mem := rfl
@[simp] theorem State.setCtx_har (s : State) (c : Ctx) : (s.setCtx c).har = s.har := rfl
@[simp] theorem State.setCtx_net (s : State) (c : Ctx) : (s.setCtx c).net = s.net := rfl
@[simp] theorem State.setCtx_pkg (s : State) (c : Ctx) : (s.setCtx c).pkg = s.pkg := rfl
@[simp] theorem State.setCtx_quartet (s : State) (c : Ctx) : (s.setCtx c).quartet = s.quartet := rfl
@[simp] theorem State.setCtx_out (s : State) (c : Ctx) : (s.setCtx c).out = s.out := rfl
@[simp] theorem State.setCtx_agenda (s : State) (c : Ctx) : (s.setCtx c).agenda = s.agenda := rfl
@[simp] theorem State.setCtx_fresh (s : State) (c : Ctx) : (s.setCtx c).fresh = s.fresh := rfl

/-! State.setMem -/

@[simp] theorem State.setMem_ctx (s : State) (m : Memory) : (s.setMem m).ctx = s.ctx := rfl
@[simp] theorem State.setMem_others (s : State) (m : Memory) : (s.setMem m).others = s.others := rfl
@[simp] theorem State.setMem_thr (s : State) (m : Memory) : (s.setMem m).thr = s.thr := rfl
@[simp] theorem State.setMem_threads (s : State) (m : Memory) : (s.setMem m).threads = s.threads := rfl
@[simp] theorem State.setMem_agent (s : State) (m : Memory) : (s.setMem m).agent = s.agent := rfl
@[simp] theorem State.setMem_mem (s : State) (m : Memory) : (s.setMem m).mem = m := rfl
@[simp] theorem State.setMem_har (s : State) (m : Memory) : (s.setMem m).har = s.har := rfl
@[simp] theorem State.setMem_net (s : State) (m : Memory) : (s.setMem m).net = s.net := rfl
@[simp] theorem State.setMem_pkg (s : State) (m : Memory) : (s.setMem m).pkg = s.pkg := rfl
@[simp] theorem State.setMem_quartet (s : State) (m : Memory) : (s.setMem m).quartet = s.quartet := rfl
@[simp] theorem State.setMem_out (s : State) (m : Memory) : (s.setMem m).out = s.out := rfl
@[simp] theorem State.setMem_agenda (s : State) (m : Memory) : (s.setMem m).agenda = s.agenda := rfl
@[simp] theorem State.setMem_fresh (s : State) (m : Memory) : (s.setMem m).fresh = s.fresh := rfl

/-! State.withPhasers -/

@[simp] theorem State.withPhasers_ctx (s : State) (l : List Phaser) : (s.withPhasers l).ctx = s.ctx := rfl
@[simp] theorem State.withPhasers_others (s : State) (l : List Phaser) : (s.withPhasers l).others = s.others := rfl
@[simp] theorem State.withPhasers_thr (s : State) (l : List Phaser) : (s.withPhasers l).thr = s.thr := rfl
@[simp] theorem State.withPhasers_threads (s : State) (l : List Phaser) : (s.withPhasers l).threads = s.threads := rfl
@[simp] theorem State.withPhasers_agent (s : State) (l : List Phaser) : (s.withPhasers l).agent = s.agent := rfl
@[simp] theorem State.withPhasers_mem (s : State) (l : List Phaser) : (s.withPhasers l).mem = s.mem := rfl
@[simp] theorem State.withPhasers_har (s : State) (l : List Phaser) : (s.withPhasers l).har = { s.har with phasers := l } := rfl
@[simp] theorem State.withPhasers_net (s : State) (l : List Phaser) : (s.withPhasers l).net = s.net := rfl
@[simp] theorem State.withPhasers_pkg (s : State) (l : List Phaser) : (s.withPhasers l).pkg = s.pkg := rfl
@[simp] theorem State.withPhasers_quartet (s : State) (l : List Phaser) : (s.withPhasers l).quartet = s.quartet := rfl
@[simp] theorem State.withPhasers_out (s : State) (l : List Phaser) : (s.withPhasers l).out = s.out := rfl
@[simp] theorem State.withPhasers_agenda (s : State) (l : List Phaser) : (s.withPhasers l).agenda = s.agenda := rfl
@[simp] theorem State.withPhasers_fresh (s : State) (l : List Phaser) : (s.withPhasers l).fresh = s.fresh := rfl

/-! State.passed -/

@[simp] theorem State.passed_ctx (s : State) (e : StreamId) (t : Tok) (n : Nat) : (s.passed e t n).ctx = s.ctx.complete e t t false n := rfl
@[simp] theorem State.passed_others (s : State) (e : StreamId) (t : Tok) (n : Nat) : (s.passed e t n).others = s.others := rfl
@[simp] theorem State.passed_thr (s : State) (e : StreamId) (t : Tok) (n : Nat) : (s.passed e t n).thr = s.thr := rfl
@[simp] theorem State.passed_threads (s : State) (e : StreamId) (t : Tok) (n : Nat) : (s.passed e t n).threads = s.threads := rfl
@[simp] theorem State.passed_agent (s : State) (e : StreamId) (t : Tok) (n : Nat) : (s.passed e t n).agent = s.agent := rfl
@[simp] theorem State.passed_mem (s : State) (e : StreamId) (t : Tok) (n : Nat) : (s.passed e t n).mem = s.mem := rfl
@[simp] theorem State.passed_har (s : State) (e : StreamId) (t : Tok) (n : Nat) : (s.passed e t n).har = s.har := rfl
@[simp] theorem State.passed_net (s : State) (e : StreamId) (t : Tok) (n : Nat) : (s.passed e t n).net = s.net := rfl
@[simp] theorem State.passed_pkg (s : State) (e : StreamId) (t : Tok) (n : Nat) : (s.passed e t n).pkg = s.pkg := rfl
@[simp] theorem State.passed_quartet (s : State) (e : StreamId) (t : Tok) (n : Nat) : (s.passed e t n).quartet = s.quartet := rfl
@[simp] theorem State.passed_out (s : State) (e : StreamId) (t : Tok) (n : Nat) : (s.passed e t n).out = s.out := rfl
@[simp] theorem State.passed_agenda (s : State) (e : StreamId) (t : Tok) (n : Nat) : (s.passed e t n).agenda = s.agenda := rfl
@[simp] theorem State.passed_fresh (s : State) (e : StreamId) (t : Tok) (n : Nat) : (s.passed e t n).fresh = s.fresh := rfl

/-! State.issued -/

@[simp] theorem State.issued_ctx (s : State) (e : StreamId) (t : Tok) (n : Nat) : (s.issued e t n).ctx = s.ctx.complete e t t true n := rfl
@[simp] theorem State.issued_others (s : State) (e : StreamId) (t : Tok) (n : Nat) : (s.issued e t n).others = s.others := rfl
@[simp] theorem State.issued_thr (s : State) (e : StreamId) (t : Tok) (n : Nat) : (s.issued e t n).thr = s.thr := rfl
@[simp] theorem State.issued_threads (s : State) (e : StreamId) (t : Tok) (n : Nat) : (s.issued e t n).threads = s.threads := rfl
@[simp] theorem State.issued_agent (s : State) (e : StreamId) (t : Tok) (n : Nat) : (s.issued e t n).agent = s.agent := rfl
@[simp] theorem State.issued_mem (s : State) (e : StreamId) (t : Tok) (n : Nat) : (s.issued e t n).mem = s.mem := rfl
@[simp] theorem State.issued_har (s : State) (e : StreamId) (t : Tok) (n : Nat) : (s.issued e t n).har = s.har := rfl
@[simp] theorem State.issued_net (s : State) (e : StreamId) (t : Tok) (n : Nat) : (s.issued e t n).net = s.net := rfl
@[simp] theorem State.issued_pkg (s : State) (e : StreamId) (t : Tok) (n : Nat) : (s.issued e t n).pkg = s.pkg := rfl
@[simp] theorem State.issued_quartet (s : State) (e : StreamId) (t : Tok) (n : Nat) : (s.issued e t n).quartet = s.quartet := rfl
@[simp] theorem State.issued_out (s : State) (e : StreamId) (t : Tok) (n : Nat) : (s.issued e t n).out = s.out := rfl
@[simp] theorem State.issued_agenda (s : State) (e : StreamId) (t : Tok) (n : Nat) : (s.issued e t n).agenda = s.agenda := rfl
@[simp] theorem State.issued_fresh (s : State) (e : StreamId) (t : Tok) (n : Nat) : (s.issued e t n).fresh = s.fresh := rfl

/-! State.afterN -/

@[simp] theorem State.afterN_ctx (s : State) : (s.afterN).ctx = s.ctx := rfl
@[simp] theorem State.afterN_others (s : State) : (s.afterN).others = s.others := rfl
@[simp] theorem State.afterN_thr (s : State) : (s.afterN).thr = s.thr.advance 1 := rfl
@[simp] theorem State.afterN_threads (s : State) : (s.afterN).threads = s.threads := rfl
@[simp] theorem State.afterN_agent (s : State) : (s.afterN).agent = s.agent := rfl
@[simp] theorem State.afterN_mem (s : State) : (s.afterN).mem = s.mem := rfl
@[simp] theorem State.afterN_har (s : State) : (s.afterN).har = s.har := rfl
@[simp] theorem State.afterN_net (s : State) : (s.afterN).net = s.net := rfl
@[simp] theorem State.afterN_pkg (s : State) : (s.afterN).pkg = s.pkg := rfl
@[simp] theorem State.afterN_quartet (s : State) : (s.afterN).quartet = s.quartet := rfl
@[simp] theorem State.afterN_out (s : State) : (s.afterN).out = s.out := rfl
@[simp] theorem State.afterN_agenda (s : State) : (s.afterN).agenda = s.agenda := rfl
@[simp] theorem State.afterN_fresh (s : State) : (s.afterN).fresh = s.fresh := rfl

/-! State.touched -/

@[simp] theorem State.touched_ctx (s : State) (p : Phys) (n : Nat) : (s.touched p n).ctx = s.ctx := rfl
@[simp] theorem State.touched_others (s : State) (p : Phys) (n : Nat) : (s.touched p n).others = s.others := rfl
@[simp] theorem State.touched_thr (s : State) (p : Phys) (n : Nat) : (s.touched p n).thr = s.thr := rfl
@[simp] theorem State.touched_threads (s : State) (p : Phys) (n : Nat) : (s.touched p n).threads = s.threads := rfl
@[simp] theorem State.touched_agent (s : State) (p : Phys) (n : Nat) : (s.touched p n).agent = s.agent := rfl
@[simp] theorem State.touched_mem (s : State) (p : Phys) (n : Nat) : (s.touched p n).mem = s.mem.endLeases p.off n := rfl
@[simp] theorem State.touched_har (s : State) (p : Phys) (n : Nat) : (s.touched p n).har = s.har := rfl
@[simp] theorem State.touched_net (s : State) (p : Phys) (n : Nat) : (s.touched p n).net = s.net := rfl
@[simp] theorem State.touched_pkg (s : State) (p : Phys) (n : Nat) : (s.touched p n).pkg = s.pkg := rfl
@[simp] theorem State.touched_quartet (s : State) (p : Phys) (n : Nat) : (s.touched p n).quartet = s.quartet := rfl
@[simp] theorem State.touched_out (s : State) (p : Phys) (n : Nat) : (s.touched p n).out = s.out := rfl
@[simp] theorem State.touched_agenda (s : State) (p : Phys) (n : Nat) : (s.touched p n).agenda = s.agenda := rfl
@[simp] theorem State.touched_fresh (s : State) (p : Phys) (n : Nat) : (s.touched p n).fresh = s.fresh := rfl

/-! State.countErr -/

@[simp] theorem State.countErr_ctx (s : State) (i : Nat) : (s.countErr i).ctx = s.ctx := rfl
@[simp] theorem State.countErr_others (s : State) (i : Nat) : (s.countErr i).others = s.others := rfl
@[simp] theorem State.countErr_thr (s : State) (i : Nat) : (s.countErr i).thr = s.thr := rfl
@[simp] theorem State.countErr_threads (s : State) (i : Nat) : (s.countErr i).threads = s.threads := rfl
@[simp] theorem State.countErr_agent (s : State) (i : Nat) : (s.countErr i).agent = s.agent := rfl
@[simp] theorem State.countErr_mem (s : State) (i : Nat) : (s.countErr i).mem = s.mem.count s.pkg i := rfl
@[simp] theorem State.countErr_har (s : State) (i : Nat) : (s.countErr i).har = s.har := rfl
@[simp] theorem State.countErr_net (s : State) (i : Nat) : (s.countErr i).net = s.net := rfl
@[simp] theorem State.countErr_pkg (s : State) (i : Nat) : (s.countErr i).pkg = s.pkg := rfl
@[simp] theorem State.countErr_quartet (s : State) (i : Nat) : (s.countErr i).quartet = s.quartet := rfl
@[simp] theorem State.countErr_out (s : State) (i : Nat) : (s.countErr i).out = s.out := rfl
@[simp] theorem State.countErr_agenda (s : State) (i : Nat) : (s.countErr i).agenda = s.agenda := rfl
@[simp] theorem State.countErr_fresh (s : State) (i : Nat) : (s.countErr i).fresh = s.fresh := rfl

/-! State.raise -/

@[simp] theorem State.raise_ctx (s : State) (k : Byte) (a : Asid) (b c d e : Dword) : (s.raise k a b c d e).ctx = s.ctx := rfl
@[simp] theorem State.raise_others (s : State) (k : Byte) (a : Asid) (b c d e : Dword) : (s.raise k a b c d e).others = s.others := rfl
@[simp] theorem State.raise_thr (s : State) (k : Byte) (a : Asid) (b c d e : Dword) : (s.raise k a b c d e).thr = s.thr := rfl
@[simp] theorem State.raise_threads (s : State) (k : Byte) (a : Asid) (b c d e : Dword) : (s.raise k a b c d e).threads = s.threads := rfl
@[simp] theorem State.raise_agent (s : State) (k : Byte) (a : Asid) (b c d e : Dword) : (s.raise k a b c d e).agent = s.agent := rfl
@[simp] theorem State.raise_mem (s : State) (k : Byte) (a : Asid) (b c d e : Dword) : (s.raise k a b c d e).mem = s.mem := rfl
@[simp] theorem State.raise_har (s : State) (k : Byte) (a : Asid) (b c d e : Dword) : (s.raise k a b c d e).har = { s.har with queue := s.har.queue ++ [⟨k, a, b, c, d, e, s.pkg.time, none, none⟩] } := rfl
@[simp] theorem State.raise_net (s : State) (k : Byte) (a : Asid) (b c d e : Dword) : (s.raise k a b c d e).net = s.net := rfl
@[simp] theorem State.raise_pkg (s : State) (k : Byte) (a : Asid) (b c d e : Dword) : (s.raise k a b c d e).pkg = s.pkg := rfl
@[simp] theorem State.raise_quartet (s : State) (k : Byte) (a : Asid) (b c d e : Dword) : (s.raise k a b c d e).quartet = s.quartet := rfl
@[simp] theorem State.raise_out (s : State) (k : Byte) (a : Asid) (b c d e : Dword) : (s.raise k a b c d e).out = s.out := rfl
@[simp] theorem State.raise_agenda (s : State) (k : Byte) (a : Asid) (b c d e : Dword) : (s.raise k a b c d e).agenda = s.agenda := rfl
@[simp] theorem State.raise_fresh (s : State) (k : Byte) (a : Asid) (b c d e : Dword) : (s.raise k a b c d e).fresh = s.fresh := rfl

/-! State.turnEvict -/

@[simp] theorem State.turnEvict_ctx (s : State) (a b : Nat) : (s.turnEvict a b).ctx = s.ctx := rfl
@[simp] theorem State.turnEvict_others (s : State) (a b : Nat) : (s.turnEvict a b).others = s.others := rfl
@[simp] theorem State.turnEvict_thr (s : State) (a b : Nat) : (s.turnEvict a b).thr = s.thr := rfl
@[simp] theorem State.turnEvict_threads (s : State) (a b : Nat) : (s.turnEvict a b).threads = s.threads := rfl
@[simp] theorem State.turnEvict_agent (s : State) (a b : Nat) : (s.turnEvict a b).agent = s.agent := rfl
@[simp] theorem State.turnEvict_mem (s : State) (a b : Nat) : (s.turnEvict a b).mem = s.mem.l1Evict a b := rfl
@[simp] theorem State.turnEvict_har (s : State) (a b : Nat) : (s.turnEvict a b).har = s.har := rfl
@[simp] theorem State.turnEvict_net (s : State) (a b : Nat) : (s.turnEvict a b).net = s.net := rfl
@[simp] theorem State.turnEvict_pkg (s : State) (a b : Nat) : (s.turnEvict a b).pkg = s.pkg := rfl
@[simp] theorem State.turnEvict_quartet (s : State) (a b : Nat) : (s.turnEvict a b).quartet = s.quartet := rfl
@[simp] theorem State.turnEvict_out (s : State) (a b : Nat) : (s.turnEvict a b).out = s.out := rfl
@[simp] theorem State.turnEvict_agenda (s : State) (a b : Nat) : (s.turnEvict a b).agenda = s.agenda := rfl
@[simp] theorem State.turnEvict_fresh (s : State) (a b : Nat) : (s.turnEvict a b).fresh = s.fresh := rfl

/-! State.turnActivate -/

@[simp] theorem State.turnActivate_ctx (s : State) (a b : Nat) : (s.turnActivate a b).ctx = s.ctx := rfl
@[simp] theorem State.turnActivate_others (s : State) (a b : Nat) : (s.turnActivate a b).others = s.others := rfl
@[simp] theorem State.turnActivate_thr (s : State) (a b : Nat) : (s.turnActivate a b).thr = s.thr := rfl
@[simp] theorem State.turnActivate_threads (s : State) (a b : Nat) : (s.turnActivate a b).threads = s.threads := rfl
@[simp] theorem State.turnActivate_agent (s : State) (a b : Nat) : (s.turnActivate a b).agent = s.agent := rfl
@[simp] theorem State.turnActivate_mem (s : State) (a b : Nat) : (s.turnActivate a b).mem = s.mem.activate a b := rfl
@[simp] theorem State.turnActivate_har (s : State) (a b : Nat) : (s.turnActivate a b).har = s.har := rfl
@[simp] theorem State.turnActivate_net (s : State) (a b : Nat) : (s.turnActivate a b).net = s.net := rfl
@[simp] theorem State.turnActivate_pkg (s : State) (a b : Nat) : (s.turnActivate a b).pkg = s.pkg := rfl
@[simp] theorem State.turnActivate_quartet (s : State) (a b : Nat) : (s.turnActivate a b).quartet = s.quartet := rfl
@[simp] theorem State.turnActivate_out (s : State) (a b : Nat) : (s.turnActivate a b).out = s.out := rfl
@[simp] theorem State.turnActivate_agenda (s : State) (a b : Nat) : (s.turnActivate a b).agenda = s.agenda := rfl
@[simp] theorem State.turnActivate_fresh (s : State) (a b : Nat) : (s.turnActivate a b).fresh = s.fresh := rfl

/-! State.turnTick -/

@[simp] theorem State.turnTick_ctx (s : State) (n : Nat) : (s.turnTick n).ctx = s.ctx := rfl
@[simp] theorem State.turnTick_others (s : State) (n : Nat) : (s.turnTick n).others = s.others := rfl
@[simp] theorem State.turnTick_thr (s : State) (n : Nat) : (s.turnTick n).thr = s.thr := rfl
@[simp] theorem State.turnTick_threads (s : State) (n : Nat) : (s.turnTick n).threads = s.threads := rfl
@[simp] theorem State.turnTick_agent (s : State) (n : Nat) : (s.turnTick n).agent = s.agent := rfl
@[simp] theorem State.turnTick_mem (s : State) (n : Nat) : (s.turnTick n).mem = s.mem := rfl
@[simp] theorem State.turnTick_har (s : State) (n : Nat) : (s.turnTick n).har = s.har := rfl
@[simp] theorem State.turnTick_net (s : State) (n : Nat) : (s.turnTick n).net = s.net := rfl
@[simp] theorem State.turnTick_quartet (s : State) (n : Nat) : (s.turnTick n).quartet = s.quartet := rfl
@[simp] theorem State.turnTick_out (s : State) (n : Nat) : (s.turnTick n).out = s.out := rfl
@[simp] theorem State.turnTick_agenda (s : State) (n : Nat) : (s.turnTick n).agenda = s.agenda := rfl
@[simp] theorem State.turnTick_fresh (s : State) (n : Nat) : (s.turnTick n).fresh = s.fresh := rfl

/-! Stream.advance -/

@[simp] theorem Stream.advance_pc (s : Stream) (n : Nat) : (s.advance n).pc = s.pc + BitVec.ofNat 64 (4 * n) := rfl
@[simp] theorem Stream.advance_pos (s : Stream) (n : Nat) : (s.advance n).pos = s.pos + n := rfl
@[simp] theorem Stream.advance_inact (s : Stream) (n : Nat) : (s.advance n).inact = s.inact := rfl
@[simp] theorem Stream.advance_fail (s : Stream) (n : Nat) : (s.advance n).fail = s.fail := rfl
@[simp] theorem Stream.advance_stall (s : Stream) (n : Nat) : (s.advance n).stall = 0 := rfl
@[simp] theorem Stream.advance_writes (s : Stream) (n : Nat) : (s.advance n).writes = s.writes := rfl
@[simp] theorem Stream.advance_sets (s : Stream) (n : Nat) : (s.advance n).sets = s.sets := rfl
@[simp] theorem Stream.advance_gates (s : Stream) (n : Nat) : (s.advance n).gates = s.gates := rfl
@[simp] theorem Stream.advance_mems (s : Stream) (n : Nat) : (s.advance n).mems = s.mems := rfl
@[simp] theorem Stream.advance_vmWrites (s : Stream) (n : Nat) : (s.advance n).vmWrites = s.vmWrites := rfl

/-! Thread.advance -/

@[simp] theorem Thread.advance_num (s : Thread) (n : Nat) : (s.advance n).num = s.num := rfl
@[simp] theorem Thread.advance_running (s : Thread) (n : Nat) : (s.advance n).running = s.running := rfl
@[simp] theorem Thread.advance_sf (s : Thread) (n : Nat) : (s.advance n).sf = s.sf := rfl
@[simp] theorem Thread.advance_pc (s : Thread) (n : Nat) : (s.advance n).pc = s.pc + BitVec.ofNat 64 (4 * n) := rfl
@[simp] theorem Thread.advance_entry (s : Thread) (n : Nat) : (s.advance n).entry = s.entry := rfl
@[simp] theorem Thread.advance_target (s : Thread) (n : Nat) : (s.advance n).target = s.target := rfl
@[simp] theorem Thread.advance_kind (s : Thread) (n : Nat) : (s.advance n).kind = s.kind := rfl
@[simp] theorem Thread.advance_asid (s : Thread) (n : Nat) : (s.advance n).asid = s.asid := rfl
@[simp] theorem Thread.advance_phasers (s : Thread) (n : Nat) : (s.advance n).phasers = s.phasers := rfl
@[simp] theorem Thread.advance_phAnswer (s : Thread) (n : Nat) : (s.advance n).phAnswer = s.phAnswer := rfl
@[simp] theorem Thread.advance_rred (s : Thread) (n : Nat) : (s.advance n).rred = s.rred := rfl
@[simp] theorem Thread.advance_s2 (s : Thread) (n : Nat) : (s.advance n).s2 = s.s2 := rfl
@[simp] theorem Thread.advance_maps (s : Thread) (n : Nat) : (s.advance n).maps = s.maps := rfl
@[simp] theorem Thread.advance_disarm (s : Thread) (n : Nat) : (s.advance n).disarm = s.disarm := rfl
@[simp] theorem Thread.advance_waits (s : Thread) (n : Nat) : (s.advance n).waits = false := rfl
@[simp] theorem Thread.advance_ending (s : Thread) (n : Nat) : (s.advance n).ending = s.ending := rfl

/-! Ctx.onStream -/

@[simp] theorem Ctx.onStream_inst (s : Ctx) (e : StreamId) (f : Stream → Stream) : (s.onStream e f).inst = s.inst := rfl
@[simp] theorem Ctx.onStream_place (s : Ctx) (e : StreamId) (f : Stream → Stream) : (s.onStream e f).place = s.place := rfl
@[simp] theorem Ctx.onStream_core (s : Ctx) (e : StreamId) (f : Stream → Stream) : (s.onStream e f).core = s.core := rfl
@[simp] theorem Ctx.onStream_slot (s : Ctx) (e : StreamId) (f : Stream → Stream) : (s.onStream e f).slot = s.slot := rfl
@[simp] theorem Ctx.onStream_asid (s : Ctx) (e : StreamId) (f : Stream → Stream) : (s.onStream e f).asid = s.asid := rfl
@[simp] theorem Ctx.onStream_ttype (s : Ctx) (e : StreamId) (f : Stream → Stream) : (s.onStream e f).ttype = s.ttype := rfl
@[simp] theorem Ctx.onStream_launch (s : Ctx) (e : StreamId) (f : Stream → Stream) : (s.onStream e f).launch = s.launch := rfl
@[simp] theorem Ctx.onStream_code (s : Ctx) (e : StreamId) (f : Stream → Stream) : (s.onStream e f).code = s.code := rfl
@[simp] theorem Ctx.onStream_demand (s : Ctx) (e : StreamId) (f : Stream → Stream) : (s.onStream e f).demand = s.demand := rfl
@[simp] theorem Ctx.onStream_tiles (s : Ctx) (e : StreamId) (f : Stream → Stream) : (s.onStream e f).tiles = s.tiles := rfl
@[simp] theorem Ctx.onStream_scrBase (s : Ctx) (e : StreamId) (f : Stream → Stream) : (s.onStream e f).scrBase = s.scrBase := rfl
@[simp] theorem Ctx.onStream_scrBytes (s : Ctx) (e : StreamId) (f : Stream → Stream) : (s.onStream e f).scrBytes = s.scrBytes := rfl
@[simp] theorem Ctx.onStream_sf (s : Ctx) (e : StreamId) (f : Stream → Stream) : (s.onStream e f).sf = s.sf := rfl
@[simp] theorem Ctx.onStream_hist (s : Ctx) (e : StreamId) (f : Stream → Stream) : (s.onStream e f).hist = s.hist := rfl
@[simp] theorem Ctx.onStream_v (s : Ctx) (e : StreamId) (f : Stream → Stream) : (s.onStream e f).v = s.v := rfl
@[simp] theorem Ctx.onStream_m (s : Ctx) (e : StreamId) (f : Stream → Stream) : (s.onStream e f).m = s.m := rfl
@[simp] theorem Ctx.onStream_msel (s : Ctx) (e : StreamId) (f : Stream → Stream) : (s.onStream e f).msel = s.msel := rfl
@[simp] theorem Ctx.onStream_a (s : Ctx) (e : StreamId) (f : Stream → Stream) : (s.onStream e f).a = s.a := rfl
@[simp] theorem Ctx.onStream_held (s : Ctx) (e : StreamId) (f : Stream → Stream) : (s.onStream e f).held = s.held := rfl
@[simp] theorem Ctx.onStream_streams (s : Ctx) (e : StreamId) (f : Stream → Stream) : (s.onStream e f).streams = s.streams.put e (f (s.streams.get e)) := rfl
@[simp] theorem Ctx.onStream_fifo (s : Ctx) (e : StreamId) (f : Stream → Stream) : (s.onStream e f).fifo = s.fifo := rfl
@[simp] theorem Ctx.onStream_tok (s : Ctx) (e : StreamId) (f : Stream → Stream) : (s.onStream e f).tok = s.tok := rfl
@[simp] theorem Ctx.onStream_regs (s : Ctx) (e : StreamId) (f : Stream → Stream) : (s.onStream e f).regs = s.regs := rfl
@[simp] theorem Ctx.onStream_sysHist (s : Ctx) (e : StreamId) (f : Stream → Stream) : (s.onStream e f).sysHist = s.sysHist := rfl
@[simp] theorem Ctx.onStream_sees (s : Ctx) (e : StreamId) (f : Stream → Stream) : (s.onStream e f).sees = s.sees := rfl
@[simp] theorem Ctx.onStream_lfsrSets (s : Ctx) (e : StreamId) (f : Stream → Stream) : (s.onStream e f).lfsrSets = s.lfsrSets := rfl
@[simp] theorem Ctx.onStream_errq (s : Ctx) (e : StreamId) (f : Stream → Stream) : (s.onStream e f).errq = s.errq := rfl
@[simp] theorem Ctx.onStream_lch (s : Ctx) (e : StreamId) (f : Stream → Stream) : (s.onStream e f).lch = s.lch := rfl
@[simp] theorem Ctx.onStream_wch (s : Ctx) (e : StreamId) (f : Stream → Stream) : (s.onStream e f).wch = s.wch := rfl
@[simp] theorem Ctx.onStream_xfers (s : Ctx) (e : StreamId) (f : Stream → Stream) : (s.onStream e f).xfers = s.xfers := rfl
@[simp] theorem Ctx.onStream_loads (s : Ctx) (e : StreamId) (f : Stream → Stream) : (s.onStream e f).loads = s.loads := rfl
@[simp] theorem Ctx.onStream_banks (s : Ctx) (e : StreamId) (f : Stream → Stream) : (s.onStream e f).banks = s.banks := rfl
@[simp] theorem Ctx.onStream_failedWords (s : Ctx) (e : StreamId) (f : Stream → Stream) : (s.onStream e f).failedWords = s.failedWords := rfl
@[simp] theorem Ctx.onStream_issued (s : Ctx) (e : StreamId) (f : Stream → Stream) : (s.onStream e f).issued = s.issued := rfl
@[simp] theorem Ctx.onStream_words (s : Ctx) (e : StreamId) (f : Stream → Stream) : (s.onStream e f).words = s.words := rfl
@[simp] theorem Ctx.onStream_late (s : Ctx) (e : StreamId) (f : Stream → Stream) : (s.onStream e f).late = s.late := rfl
@[simp] theorem Ctx.onStream_slow (s : Ctx) (e : StreamId) (f : Stream → Stream) : (s.onStream e f).slow = s.slow := rfl
@[simp] theorem Ctx.onStream_vplan (s : Ctx) (e : StreamId) (f : Stream → Stream) : (s.onStream e f).vplan = s.vplan := rfl
@[simp] theorem Ctx.onStream_slices (s : Ctx) (e : StreamId) (f : Stream → Stream) : (s.onStream e f).slices = s.slices := rfl
@[simp] theorem Ctx.onStream_jobs (s : Ctx) (e : StreamId) (f : Stream → Stream) : (s.onStream e f).jobs = s.jobs := rfl
@[simp] theorem Ctx.onStream_prog (s : Ctx) (e : StreamId) (f : Stream → Stream) : (s.onStream e f).prog = s.prog := rfl
@[simp] theorem Ctx.onStream_shadow (s : Ctx) (e : StreamId) (f : Stream → Stream) : (s.onStream e f).shadow = s.shadow := rfl
@[simp] theorem Ctx.onStream_active (s : Ctx) (e : StreamId) (f : Stream → Stream) : (s.onStream e f).active = s.active := rfl
@[simp] theorem Ctx.onStream_phasers (s : Ctx) (e : StreamId) (f : Stream → Stream) : (s.onStream e f).phasers = s.phasers := rfl
@[simp] theorem Ctx.onStream_bindings (s : Ctx) (e : StreamId) (f : Stream → Stream) : (s.onStream e f).bindings = s.bindings := rfl
@[simp] theorem Ctx.onStream_signalled (s : Ctx) (e : StreamId) (f : Stream → Stream) : (s.onStream e f).signalled = s.signalled := rfl
@[simp] theorem Ctx.onStream_leaves (s : Ctx) (e : StreamId) (f : Stream → Stream) : (s.onStream e f).leaves = s.leaves := rfl
@[simp] theorem Ctx.onStream_covers (s : Ctx) (e : StreamId) (f : Stream → Stream) : (s.onStream e f).covers = s.covers := rfl
@[simp] theorem Ctx.onStream_record (s : Ctx) (e : StreamId) (f : Stream → Stream) : (s.onStream e f).record = s.record := rfl
@[simp] theorem Ctx.onStream_undelivered (s : Ctx) (e : StreamId) (f : Stream → Stream) : (s.onStream e f).undelivered = s.undelivered := rfl
@[simp] theorem Ctx.onStream_phAnswer (s : Ctx) (e : StreamId) (f : Stream → Stream) : (s.onStream e f).phAnswer = s.phAnswer := rfl
@[simp] theorem Ctx.onStream_phSent (s : Ctx) (e : StreamId) (f : Stream → Stream) : (s.onStream e f).phSent = s.phSent := rfl
@[simp] theorem Ctx.onStream_idle (s : Ctx) (e : StreamId) (f : Stream → Stream) : (s.onStream e f).idle = s.idle := rfl

/-! Ctx.stalled -/

@[simp] theorem Ctx.stalled_inst (s : Ctx) (e : StreamId) (k : BitVec 4) : (s.stalled e k).inst = s.inst := rfl
@[simp] theorem Ctx.stalled_place (s : Ctx) (e : StreamId) (k : BitVec 4) : (s.stalled e k).place = s.place := rfl
@[simp] theorem Ctx.stalled_core (s : Ctx) (e : StreamId) (k : BitVec 4) : (s.stalled e k).core = s.core := rfl
@[simp] theorem Ctx.stalled_slot (s : Ctx) (e : StreamId) (k : BitVec 4) : (s.stalled e k).slot = s.slot := rfl
@[simp] theorem Ctx.stalled_asid (s : Ctx) (e : StreamId) (k : BitVec 4) : (s.stalled e k).asid = s.asid := rfl
@[simp] theorem Ctx.stalled_ttype (s : Ctx) (e : StreamId) (k : BitVec 4) : (s.stalled e k).ttype = s.ttype := rfl
@[simp] theorem Ctx.stalled_launch (s : Ctx) (e : StreamId) (k : BitVec 4) : (s.stalled e k).launch = s.launch := rfl
@[simp] theorem Ctx.stalled_code (s : Ctx) (e : StreamId) (k : BitVec 4) : (s.stalled e k).code = s.code := rfl
@[simp] theorem Ctx.stalled_demand (s : Ctx) (e : StreamId) (k : BitVec 4) : (s.stalled e k).demand = s.demand := rfl
@[simp] theorem Ctx.stalled_tiles (s : Ctx) (e : StreamId) (k : BitVec 4) : (s.stalled e k).tiles = s.tiles := rfl
@[simp] theorem Ctx.stalled_scrBase (s : Ctx) (e : StreamId) (k : BitVec 4) : (s.stalled e k).scrBase = s.scrBase := rfl
@[simp] theorem Ctx.stalled_scrBytes (s : Ctx) (e : StreamId) (k : BitVec 4) : (s.stalled e k).scrBytes = s.scrBytes := rfl
@[simp] theorem Ctx.stalled_sf (s : Ctx) (e : StreamId) (k : BitVec 4) : (s.stalled e k).sf = s.sf := rfl
@[simp] theorem Ctx.stalled_hist (s : Ctx) (e : StreamId) (k : BitVec 4) : (s.stalled e k).hist = s.hist := rfl
@[simp] theorem Ctx.stalled_v (s : Ctx) (e : StreamId) (k : BitVec 4) : (s.stalled e k).v = s.v := rfl
@[simp] theorem Ctx.stalled_m (s : Ctx) (e : StreamId) (k : BitVec 4) : (s.stalled e k).m = s.m := rfl
@[simp] theorem Ctx.stalled_msel (s : Ctx) (e : StreamId) (k : BitVec 4) : (s.stalled e k).msel = s.msel := rfl
@[simp] theorem Ctx.stalled_a (s : Ctx) (e : StreamId) (k : BitVec 4) : (s.stalled e k).a = s.a := rfl
@[simp] theorem Ctx.stalled_held (s : Ctx) (e : StreamId) (k : BitVec 4) : (s.stalled e k).held = s.held := rfl
@[simp] theorem Ctx.stalled_fifo (s : Ctx) (e : StreamId) (k : BitVec 4) : (s.stalled e k).fifo = s.fifo := rfl
@[simp] theorem Ctx.stalled_tok (s : Ctx) (e : StreamId) (k : BitVec 4) : (s.stalled e k).tok = s.tok := rfl
@[simp] theorem Ctx.stalled_regs (s : Ctx) (e : StreamId) (k : BitVec 4) : (s.stalled e k).regs = s.regs := rfl
@[simp] theorem Ctx.stalled_sysHist (s : Ctx) (e : StreamId) (k : BitVec 4) : (s.stalled e k).sysHist = s.sysHist := rfl
@[simp] theorem Ctx.stalled_sees (s : Ctx) (e : StreamId) (k : BitVec 4) : (s.stalled e k).sees = s.sees := rfl
@[simp] theorem Ctx.stalled_lfsrSets (s : Ctx) (e : StreamId) (k : BitVec 4) : (s.stalled e k).lfsrSets = s.lfsrSets := rfl
@[simp] theorem Ctx.stalled_errq (s : Ctx) (e : StreamId) (k : BitVec 4) : (s.stalled e k).errq = s.errq := rfl
@[simp] theorem Ctx.stalled_lch (s : Ctx) (e : StreamId) (k : BitVec 4) : (s.stalled e k).lch = s.lch := rfl
@[simp] theorem Ctx.stalled_wch (s : Ctx) (e : StreamId) (k : BitVec 4) : (s.stalled e k).wch = s.wch := rfl
@[simp] theorem Ctx.stalled_xfers (s : Ctx) (e : StreamId) (k : BitVec 4) : (s.stalled e k).xfers = s.xfers := rfl
@[simp] theorem Ctx.stalled_loads (s : Ctx) (e : StreamId) (k : BitVec 4) : (s.stalled e k).loads = s.loads := rfl
@[simp] theorem Ctx.stalled_banks (s : Ctx) (e : StreamId) (k : BitVec 4) : (s.stalled e k).banks = s.banks := rfl
@[simp] theorem Ctx.stalled_failedWords (s : Ctx) (e : StreamId) (k : BitVec 4) : (s.stalled e k).failedWords = s.failedWords := rfl
@[simp] theorem Ctx.stalled_issued (s : Ctx) (e : StreamId) (k : BitVec 4) : (s.stalled e k).issued = s.issued := rfl
@[simp] theorem Ctx.stalled_words (s : Ctx) (e : StreamId) (k : BitVec 4) : (s.stalled e k).words = s.words := rfl
@[simp] theorem Ctx.stalled_late (s : Ctx) (e : StreamId) (k : BitVec 4) : (s.stalled e k).late = s.late := rfl
@[simp] theorem Ctx.stalled_slow (s : Ctx) (e : StreamId) (k : BitVec 4) : (s.stalled e k).slow = s.slow := rfl
@[simp] theorem Ctx.stalled_vplan (s : Ctx) (e : StreamId) (k : BitVec 4) : (s.stalled e k).vplan = s.vplan := rfl
@[simp] theorem Ctx.stalled_slices (s : Ctx) (e : StreamId) (k : BitVec 4) : (s.stalled e k).slices = s.slices := rfl
@[simp] theorem Ctx.stalled_jobs (s : Ctx) (e : StreamId) (k : BitVec 4) : (s.stalled e k).jobs = s.jobs := rfl
@[simp] theorem Ctx.stalled_prog (s : Ctx) (e : StreamId) (k : BitVec 4) : (s.stalled e k).prog = s.prog := rfl
@[simp] theorem Ctx.stalled_shadow (s : Ctx) (e : StreamId) (k : BitVec 4) : (s.stalled e k).shadow = s.shadow := rfl
@[simp] theorem Ctx.stalled_active (s : Ctx) (e : StreamId) (k : BitVec 4) : (s.stalled e k).active = s.active := rfl
@[simp] theorem Ctx.stalled_phasers (s : Ctx) (e : StreamId) (k : BitVec 4) : (s.stalled e k).phasers = s.phasers := rfl
@[simp] theorem Ctx.stalled_bindings (s : Ctx) (e : StreamId) (k : BitVec 4) : (s.stalled e k).bindings = s.bindings := rfl
@[simp] theorem Ctx.stalled_signalled (s : Ctx) (e : StreamId) (k : BitVec 4) : (s.stalled e k).signalled = s.signalled := rfl
@[simp] theorem Ctx.stalled_leaves (s : Ctx) (e : StreamId) (k : BitVec 4) : (s.stalled e k).leaves = s.leaves := rfl
@[simp] theorem Ctx.stalled_covers (s : Ctx) (e : StreamId) (k : BitVec 4) : (s.stalled e k).covers = s.covers := rfl
@[simp] theorem Ctx.stalled_record (s : Ctx) (e : StreamId) (k : BitVec 4) : (s.stalled e k).record = s.record := rfl
@[simp] theorem Ctx.stalled_undelivered (s : Ctx) (e : StreamId) (k : BitVec 4) : (s.stalled e k).undelivered = s.undelivered := rfl
@[simp] theorem Ctx.stalled_phAnswer (s : Ctx) (e : StreamId) (k : BitVec 4) : (s.stalled e k).phAnswer = s.phAnswer := rfl
@[simp] theorem Ctx.stalled_phSent (s : Ctx) (e : StreamId) (k : BitVec 4) : (s.stalled e k).phSent = s.phSent := rfl
@[simp] theorem Ctx.stalled_idle (s : Ctx) (e : StreamId) (k : BitVec 4) : (s.stalled e k).idle = s.idle := rfl

/-! Ctx.setV -/

@[simp] theorem Ctx.setV_inst (s : Ctx) (r : VReg) (v : VVal) : (s.setV r v).inst = s.inst := rfl
@[simp] theorem Ctx.setV_place (s : Ctx) (r : VReg) (v : VVal) : (s.setV r v).place = s.place := rfl
@[simp] theorem Ctx.setV_core (s : Ctx) (r : VReg) (v : VVal) : (s.setV r v).core = s.core := rfl
@[simp] theorem Ctx.setV_slot (s : Ctx) (r : VReg) (v : VVal) : (s.setV r v).slot = s.slot := rfl
@[simp] theorem Ctx.setV_asid (s : Ctx) (r : VReg) (v : VVal) : (s.setV r v).asid = s.asid := rfl
@[simp] theorem Ctx.setV_ttype (s : Ctx) (r : VReg) (v : VVal) : (s.setV r v).ttype = s.ttype := rfl
@[simp] theorem Ctx.setV_launch (s : Ctx) (r : VReg) (v : VVal) : (s.setV r v).launch = s.launch := rfl
@[simp] theorem Ctx.setV_code (s : Ctx) (r : VReg) (v : VVal) : (s.setV r v).code = s.code := rfl
@[simp] theorem Ctx.setV_demand (s : Ctx) (r : VReg) (v : VVal) : (s.setV r v).demand = s.demand := rfl
@[simp] theorem Ctx.setV_tiles (s : Ctx) (r : VReg) (v : VVal) : (s.setV r v).tiles = s.tiles := rfl
@[simp] theorem Ctx.setV_scrBase (s : Ctx) (r : VReg) (v : VVal) : (s.setV r v).scrBase = s.scrBase := rfl
@[simp] theorem Ctx.setV_scrBytes (s : Ctx) (r : VReg) (v : VVal) : (s.setV r v).scrBytes = s.scrBytes := rfl
@[simp] theorem Ctx.setV_sf (s : Ctx) (r : VReg) (v : VVal) : (s.setV r v).sf = s.sf := rfl
@[simp] theorem Ctx.setV_hist (s : Ctx) (r : VReg) (v : VVal) : (s.setV r v).hist = s.hist := rfl
@[simp] theorem Ctx.setV_v (s : Ctx) (r : VReg) (v : VVal) : (s.setV r v).v = s.v.set r.toNat v r.isLt := rfl
@[simp] theorem Ctx.setV_m (s : Ctx) (r : VReg) (v : VVal) : (s.setV r v).m = s.m := rfl
@[simp] theorem Ctx.setV_msel (s : Ctx) (r : VReg) (v : VVal) : (s.setV r v).msel = s.msel := rfl
@[simp] theorem Ctx.setV_a (s : Ctx) (r : VReg) (v : VVal) : (s.setV r v).a = s.a := rfl
@[simp] theorem Ctx.setV_held (s : Ctx) (r : VReg) (v : VVal) : (s.setV r v).held = s.held := rfl
@[simp] theorem Ctx.setV_streams (s : Ctx) (r : VReg) (v : VVal) : (s.setV r v).streams = s.streams := rfl
@[simp] theorem Ctx.setV_fifo (s : Ctx) (r : VReg) (v : VVal) : (s.setV r v).fifo = s.fifo := rfl
@[simp] theorem Ctx.setV_tok (s : Ctx) (r : VReg) (v : VVal) : (s.setV r v).tok = s.tok := rfl
@[simp] theorem Ctx.setV_regs (s : Ctx) (r : VReg) (v : VVal) : (s.setV r v).regs = s.regs := rfl
@[simp] theorem Ctx.setV_sysHist (s : Ctx) (r : VReg) (v : VVal) : (s.setV r v).sysHist = s.sysHist := rfl
@[simp] theorem Ctx.setV_sees (s : Ctx) (r : VReg) (v : VVal) : (s.setV r v).sees = s.sees := rfl
@[simp] theorem Ctx.setV_lfsrSets (s : Ctx) (r : VReg) (v : VVal) : (s.setV r v).lfsrSets = s.lfsrSets := rfl
@[simp] theorem Ctx.setV_errq (s : Ctx) (r : VReg) (v : VVal) : (s.setV r v).errq = s.errq := rfl
@[simp] theorem Ctx.setV_lch (s : Ctx) (r : VReg) (v : VVal) : (s.setV r v).lch = s.lch := rfl
@[simp] theorem Ctx.setV_wch (s : Ctx) (r : VReg) (v : VVal) : (s.setV r v).wch = s.wch := rfl
@[simp] theorem Ctx.setV_xfers (s : Ctx) (r : VReg) (v : VVal) : (s.setV r v).xfers = s.xfers := rfl
@[simp] theorem Ctx.setV_loads (s : Ctx) (r : VReg) (v : VVal) : (s.setV r v).loads = s.loads := rfl
@[simp] theorem Ctx.setV_banks (s : Ctx) (r : VReg) (v : VVal) : (s.setV r v).banks = s.banks := rfl
@[simp] theorem Ctx.setV_failedWords (s : Ctx) (r : VReg) (v : VVal) : (s.setV r v).failedWords = s.failedWords := rfl
@[simp] theorem Ctx.setV_issued (s : Ctx) (r : VReg) (v : VVal) : (s.setV r v).issued = s.issued := rfl
@[simp] theorem Ctx.setV_words (s : Ctx) (r : VReg) (v : VVal) : (s.setV r v).words = s.words := rfl
@[simp] theorem Ctx.setV_late (s : Ctx) (r : VReg) (v : VVal) : (s.setV r v).late = s.late := rfl
@[simp] theorem Ctx.setV_slow (s : Ctx) (r : VReg) (v : VVal) : (s.setV r v).slow = s.slow := rfl
@[simp] theorem Ctx.setV_vplan (s : Ctx) (r : VReg) (v : VVal) : (s.setV r v).vplan = s.vplan := rfl
@[simp] theorem Ctx.setV_slices (s : Ctx) (r : VReg) (v : VVal) : (s.setV r v).slices = s.slices := rfl
@[simp] theorem Ctx.setV_jobs (s : Ctx) (r : VReg) (v : VVal) : (s.setV r v).jobs = s.jobs := rfl
@[simp] theorem Ctx.setV_prog (s : Ctx) (r : VReg) (v : VVal) : (s.setV r v).prog = s.prog := rfl
@[simp] theorem Ctx.setV_shadow (s : Ctx) (r : VReg) (v : VVal) : (s.setV r v).shadow = s.shadow := rfl
@[simp] theorem Ctx.setV_active (s : Ctx) (r : VReg) (v : VVal) : (s.setV r v).active = s.active := rfl
@[simp] theorem Ctx.setV_phasers (s : Ctx) (r : VReg) (v : VVal) : (s.setV r v).phasers = s.phasers := rfl
@[simp] theorem Ctx.setV_bindings (s : Ctx) (r : VReg) (v : VVal) : (s.setV r v).bindings = s.bindings := rfl
@[simp] theorem Ctx.setV_signalled (s : Ctx) (r : VReg) (v : VVal) : (s.setV r v).signalled = s.signalled := rfl
@[simp] theorem Ctx.setV_leaves (s : Ctx) (r : VReg) (v : VVal) : (s.setV r v).leaves = s.leaves := rfl
@[simp] theorem Ctx.setV_covers (s : Ctx) (r : VReg) (v : VVal) : (s.setV r v).covers = s.covers := rfl
@[simp] theorem Ctx.setV_record (s : Ctx) (r : VReg) (v : VVal) : (s.setV r v).record = s.record := rfl
@[simp] theorem Ctx.setV_undelivered (s : Ctx) (r : VReg) (v : VVal) : (s.setV r v).undelivered = s.undelivered := rfl
@[simp] theorem Ctx.setV_phAnswer (s : Ctx) (r : VReg) (v : VVal) : (s.setV r v).phAnswer = s.phAnswer := rfl
@[simp] theorem Ctx.setV_phSent (s : Ctx) (r : VReg) (v : VVal) : (s.setV r v).phSent = s.phSent := rfl
@[simp] theorem Ctx.setV_idle (s : Ctx) (r : VReg) (v : VVal) : (s.setV r v).idle = s.idle := rfl

/-! Memory.poisonSector -/

@[simp] theorem Memory.poisonSector_hbm (s : Memory) (n : Nat) : (s.poisonSector n).hbm = s.hbm := rfl
@[simp] theorem Memory.poisonSector_hbmPoison (s : Memory) (n : Nat) : (s.poisonSector n).hbmPoison = markSector s.hbmPoison n true := rfl
@[simp] theorem Memory.poisonSector_keyed (s : Memory) (n : Nat) : (s.poisonSector n).keyed = s.keyed := rfl
@[simp] theorem Memory.poisonSector_keys (s : Memory) (n : Nat) : (s.poisonSector n).keys = s.keys := rfl
@[simp] theorem Memory.poisonSector_scr (s : Memory) (n : Nat) : (s.poisonSector n).scr = s.scr := rfl
@[simp] theorem Memory.poisonSector_scrPoison (s : Memory) (n : Nat) : (s.poisonSector n).scrPoison = s.scrPoison := rfl
@[simp] theorem Memory.poisonSector_l1 (s : Memory) (n : Nat) : (s.poisonSector n).l1 = s.l1 := rfl
@[simp] theorem Memory.poisonSector_code (s : Memory) (n : Nat) : (s.poisonSector n).code = s.code := rfl
@[simp] theorem Memory.poisonSector_tlb (s : Memory) (n : Nat) : (s.poisonSector n).tlb = s.tlb := rfl
@[simp] theorem Memory.poisonSector_banks (s : Memory) (n : Nat) : (s.poisonSector n).banks = s.banks := rfl
@[simp] theorem Memory.poisonSector_dies (s : Memory) (n : Nat) : (s.poisonSector n).dies = s.dies := rfl
@[simp] theorem Memory.poisonSector_leases (s : Memory) (n : Nat) : (s.poisonSector n).leases = s.leases := rfl
@[simp] theorem Memory.poisonSector_fwd (s : Memory) (n : Nat) : (s.poisonSector n).fwd = s.fwd := rfl
@[simp] theorem Memory.poisonSector_own (s : Memory) (n : Nat) : (s.poisonSector n).own = s.own := rfl
@[simp] theorem Memory.poisonSector_early (s : Memory) (n : Nat) : (s.poisonSector n).early = s.early := rfl

/-! Memory.writeScrSector -/

@[simp] theorem Memory.writeScrSector_hbm (s : Memory) (n : Nat) (l : List (Nat × Byte)) (p : Bool) : (s.writeScrSector n l p).hbm = s.hbm := rfl
@[simp] theorem Memory.writeScrSector_hbmPoison (s : Memory) (n : Nat) (l : List (Nat × Byte)) (p : Bool) : (s.writeScrSector n l p).hbmPoison = s.hbmPoison := rfl
@[simp] theorem Memory.writeScrSector_keyed (s : Memory) (n : Nat) (l : List (Nat × Byte)) (p : Bool) : (s.writeScrSector n l p).keyed = s.keyed := rfl
@[simp] theorem Memory.writeScrSector_keys (s : Memory) (n : Nat) (l : List (Nat × Byte)) (p : Bool) : (s.writeScrSector n l p).keys = s.keys := rfl
@[simp] theorem Memory.writeScrSector_scr (s : Memory) (n : Nat) (l : List (Nat × Byte)) (p : Bool) : (s.writeScrSector n l p).scr = cellWrites s.scr (l.map fun x => (n * 32 + x.1, x.2)) := rfl
@[simp] theorem Memory.writeScrSector_l1 (s : Memory) (n : Nat) (l : List (Nat × Byte)) (p : Bool) : (s.writeScrSector n l p).l1 = s.l1 := rfl
@[simp] theorem Memory.writeScrSector_code (s : Memory) (n : Nat) (l : List (Nat × Byte)) (p : Bool) : (s.writeScrSector n l p).code = s.code := rfl
@[simp] theorem Memory.writeScrSector_tlb (s : Memory) (n : Nat) (l : List (Nat × Byte)) (p : Bool) : (s.writeScrSector n l p).tlb = s.tlb := rfl
@[simp] theorem Memory.writeScrSector_banks (s : Memory) (n : Nat) (l : List (Nat × Byte)) (p : Bool) : (s.writeScrSector n l p).banks = s.banks := rfl
@[simp] theorem Memory.writeScrSector_dies (s : Memory) (n : Nat) (l : List (Nat × Byte)) (p : Bool) : (s.writeScrSector n l p).dies = s.dies := rfl
@[simp] theorem Memory.writeScrSector_leases (s : Memory) (n : Nat) (l : List (Nat × Byte)) (p : Bool) : (s.writeScrSector n l p).leases = s.leases := rfl
@[simp] theorem Memory.writeScrSector_fwd (s : Memory) (n : Nat) (l : List (Nat × Byte)) (p : Bool) : (s.writeScrSector n l p).fwd = s.fwd := rfl
@[simp] theorem Memory.writeScrSector_own (s : Memory) (n : Nat) (l : List (Nat × Byte)) (p : Bool) : (s.writeScrSector n l p).own = s.own := rfl
@[simp] theorem Memory.writeScrSector_early (s : Memory) (n : Nat) (l : List (Nat × Byte)) (p : Bool) : (s.writeScrSector n l p).early = s.early := rfl

/-! Memory.l1Put -/

@[simp] theorem Memory.l1Put_hbm (s : Memory) (x : L1Line) : (s.l1Put x).hbm = s.hbm := rfl
@[simp] theorem Memory.l1Put_hbmPoison (s : Memory) (x : L1Line) : (s.l1Put x).hbmPoison = s.hbmPoison := rfl
@[simp] theorem Memory.l1Put_keyed (s : Memory) (x : L1Line) : (s.l1Put x).keyed = s.keyed := rfl
@[simp] theorem Memory.l1Put_keys (s : Memory) (x : L1Line) : (s.l1Put x).keys = s.keys := rfl
@[simp] theorem Memory.l1Put_scr (s : Memory) (x : L1Line) : (s.l1Put x).scr = s.scr := rfl
@[simp] theorem Memory.l1Put_scrPoison (s : Memory) (x : L1Line) : (s.l1Put x).scrPoison = s.scrPoison := rfl
@[simp] theorem Memory.l1Put_code (s : Memory) (x : L1Line) : (s.l1Put x).code = s.code := rfl
@[simp] theorem Memory.l1Put_tlb (s : Memory) (x : L1Line) : (s.l1Put x).tlb = s.tlb := rfl
@[simp] theorem Memory.l1Put_banks (s : Memory) (x : L1Line) : (s.l1Put x).banks = s.banks := rfl
@[simp] theorem Memory.l1Put_dies (s : Memory) (x : L1Line) : (s.l1Put x).dies = s.dies := rfl
@[simp] theorem Memory.l1Put_leases (s : Memory) (x : L1Line) : (s.l1Put x).leases = s.leases := rfl
@[simp] theorem Memory.l1Put_fwd (s : Memory) (x : L1Line) : (s.l1Put x).fwd = s.fwd := rfl
@[simp] theorem Memory.l1Put_own (s : Memory) (x : L1Line) : (s.l1Put x).own = s.own := rfl
@[simp] theorem Memory.l1Put_early (s : Memory) (x : L1Line) : (s.l1Put x).early = s.early := rfl

/-! Memory.l1Discard -/

@[simp] theorem Memory.l1Discard_hbm (s : Memory) (a b : Nat) : (s.l1Discard a b).hbm = s.hbm := rfl
@[simp] theorem Memory.l1Discard_hbmPoison (s : Memory) (a b : Nat) : (s.l1Discard a b).hbmPoison = s.hbmPoison := rfl
@[simp] theorem Memory.l1Discard_keyed (s : Memory) (a b : Nat) : (s.l1Discard a b).keyed = s.keyed := rfl
@[simp] theorem Memory.l1Discard_keys (s : Memory) (a b : Nat) : (s.l1Discard a b).keys = s.keys := rfl
@[simp] theorem Memory.l1Discard_scr (s : Memory) (a b : Nat) : (s.l1Discard a b).scr = s.scr := rfl
@[simp] theorem Memory.l1Discard_scrPoison (s : Memory) (a b : Nat) : (s.l1Discard a b).scrPoison = s.scrPoison := rfl
@[simp] theorem Memory.l1Discard_code (s : Memory) (a b : Nat) : (s.l1Discard a b).code = s.code := rfl
@[simp] theorem Memory.l1Discard_tlb (s : Memory) (a b : Nat) : (s.l1Discard a b).tlb = s.tlb := rfl
@[simp] theorem Memory.l1Discard_banks (s : Memory) (a b : Nat) : (s.l1Discard a b).banks = s.banks := rfl
@[simp] theorem Memory.l1Discard_dies (s : Memory) (a b : Nat) : (s.l1Discard a b).dies = s.dies := rfl
@[simp] theorem Memory.l1Discard_leases (s : Memory) (a b : Nat) : (s.l1Discard a b).leases = s.leases := rfl
@[simp] theorem Memory.l1Discard_fwd (s : Memory) (a b : Nat) : (s.l1Discard a b).fwd = s.fwd := rfl
@[simp] theorem Memory.l1Discard_own (s : Memory) (a b : Nat) : (s.l1Discard a b).own = s.own := rfl
@[simp] theorem Memory.l1Discard_early (s : Memory) (a b : Nat) : (s.l1Discard a b).early = s.early := rfl

/-! Memory.endLeases -/

@[simp] theorem Memory.endLeases_hbm (s : Memory) (a b : Nat) : (s.endLeases a b).hbm = s.hbm := rfl
@[simp] theorem Memory.endLeases_hbmPoison (s : Memory) (a b : Nat) : (s.endLeases a b).hbmPoison = s.hbmPoison := rfl
@[simp] theorem Memory.endLeases_keyed (s : Memory) (a b : Nat) : (s.endLeases a b).keyed = s.keyed := rfl
@[simp] theorem Memory.endLeases_keys (s : Memory) (a b : Nat) : (s.endLeases a b).keys = s.keys := rfl
@[simp] theorem Memory.endLeases_scr (s : Memory) (a b : Nat) : (s.endLeases a b).scr = s.scr := rfl
@[simp] theorem Memory.endLeases_scrPoison (s : Memory) (a b : Nat) : (s.endLeases a b).scrPoison = s.scrPoison := rfl
@[simp] theorem Memory.endLeases_l1 (s : Memory) (a b : Nat) : (s.endLeases a b).l1 = s.l1 := rfl
@[simp] theorem Memory.endLeases_code (s : Memory) (a b : Nat) : (s.endLeases a b).code = s.code := rfl
@[simp] theorem Memory.endLeases_tlb (s : Memory) (a b : Nat) : (s.endLeases a b).tlb = s.tlb := rfl
@[simp] theorem Memory.endLeases_banks (s : Memory) (a b : Nat) : (s.endLeases a b).banks = s.banks := rfl
@[simp] theorem Memory.endLeases_dies (s : Memory) (a b : Nat) : (s.endLeases a b).dies = s.dies := rfl
@[simp] theorem Memory.endLeases_fwd (s : Memory) (a b : Nat) : (s.endLeases a b).fwd = s.fwd := rfl
@[simp] theorem Memory.endLeases_own (s : Memory) (a b : Nat) : (s.endLeases a b).own = s.own := rfl
@[simp] theorem Memory.endLeases_early (s : Memory) (a b : Nat) : (s.endLeases a b).early = s.early := rfl

/-! Memory.setPromos -/

@[simp] theorem Memory.setPromos_hbm (s : Memory) (a : Nat) (l : List Promotion) : (s.setPromos a l).hbm = s.hbm := rfl
@[simp] theorem Memory.setPromos_hbmPoison (s : Memory) (a : Nat) (l : List Promotion) : (s.setPromos a l).hbmPoison = s.hbmPoison := rfl
@[simp] theorem Memory.setPromos_keyed (s : Memory) (a : Nat) (l : List Promotion) : (s.setPromos a l).keyed = s.keyed := rfl
@[simp] theorem Memory.setPromos_keys (s : Memory) (a : Nat) (l : List Promotion) : (s.setPromos a l).keys = s.keys := rfl
@[simp] theorem Memory.setPromos_scr (s : Memory) (a : Nat) (l : List Promotion) : (s.setPromos a l).scr = s.scr := rfl
@[simp] theorem Memory.setPromos_scrPoison (s : Memory) (a : Nat) (l : List Promotion) : (s.setPromos a l).scrPoison = s.scrPoison := rfl
@[simp] theorem Memory.setPromos_l1 (s : Memory) (a : Nat) (l : List Promotion) : (s.setPromos a l).l1 = s.l1 := rfl
@[simp] theorem Memory.setPromos_code (s : Memory) (a : Nat) (l : List Promotion) : (s.setPromos a l).code = s.code := rfl
@[simp] theorem Memory.setPromos_tlb (s : Memory) (a : Nat) (l : List Promotion) : (s.setPromos a l).tlb = s.tlb := rfl
@[simp] theorem Memory.setPromos_dies (s : Memory) (a : Nat) (l : List Promotion) : (s.setPromos a l).dies = s.dies := rfl
@[simp] theorem Memory.setPromos_leases (s : Memory) (a : Nat) (l : List Promotion) : (s.setPromos a l).leases = s.leases := rfl
@[simp] theorem Memory.setPromos_fwd (s : Memory) (a : Nat) (l : List Promotion) : (s.setPromos a l).fwd = s.fwd := rfl
@[simp] theorem Memory.setPromos_own (s : Memory) (a : Nat) (l : List Promotion) : (s.setPromos a l).own = s.own := rfl
@[simp] theorem Memory.setPromos_early (s : Memory) (a : Nat) (l : List Promotion) : (s.setPromos a l).early = s.early := rfl

end Sys2Proof.Machine
end

