-- ==== Sys2Proof/Laws/Encoding.lean ====
section
/-!
SUPPORT. Packing and unpacking: the header of a word, its operand layouts, the codes of its enumerations and the bytes that hold it.
-/

namespace Sys2Proof.Laws

/-- A field that starts inside the low part of a joined vector. -/
theorem extract_append_lo {n m : Nat} (x : BitVec n) (y : BitVec m) (s k : Nat) (h : s + k ≤ m) :
    (x ++ y).extractLsb' s k = y.extractLsb' s k := by
  apply BitVec.eq_of_getLsbD_eq
  intro i hi
  simp only [BitVec.getLsbD_extractLsb', BitVec.getLsbD_append]
  rw [if_pos (show s + i < m by omega)]

/-- A field that starts at or above the low part. -/
theorem extract_append_hi {n m : Nat} (x : BitVec n) (y : BitVec m) (s k : Nat) (h : m ≤ s) :
    (x ++ y).extractLsb' s k = x.extractLsb' (s - m) k := by
  apply BitVec.eq_of_getLsbD_eq
  intro i hi
  simp only [BitVec.getLsbD_extractLsb', BitVec.getLsbD_append]
  rw [if_neg (show ¬s + i < m by omega), show s + i - m = s - m + i by omega]

/-- The whole of a vector. -/
theorem extract_all {n : Nat} (x : BitVec n) : x.extractLsb' 0 n = x := by
  apply BitVec.eq_of_getLsbD_eq
  intro i hi
  simp [BitVec.getLsbD_extractLsb', hi]

/-- The fields of a packed header are those that were packed (R27). -/
theorem unpack_pack (h : Header) : Header.unpack h.pack = h := by
  obtain ⟨e, t, o, x⟩ := h
  simp only [Header.unpack, Header.pack, Header.mk.injEq]
  refine ⟨?_, ?_, ?_, ?_⟩
  · rw [extract_append_hi _ _ _ _ (by omega), extract_append_hi _ _ _ _ (by omega), extract_append_hi _ _ _ _ (by omega)]
    exact extract_all e
  · rw [extract_append_hi _ _ _ _ (by omega), extract_append_hi _ _ _ _ (by omega), extract_append_lo _ _ _ _ (by omega)]
    exact extract_all t
  · rw [extract_append_hi _ _ _ _ (by omega), extract_append_lo _ _ _ _ (by omega)]
    exact extract_all o
  · rw [extract_append_lo _ _ _ _ (by omega)]
    exact extract_all x

/-- A word is the packing of its fields (R27). -/
theorem pack_unpack (w : Word) : (Header.unpack w).pack = w := by
  apply BitVec.eq_of_getLsbD_eq
  intro i hi
  simp only [Header.pack, Header.unpack, BitVec.getLsbD_append, BitVec.getLsbD_extractLsb']
  by_cases h1 : i < 18
  · simp [h1]
  · by_cases h2 : i - 18 < 7
    · have h3 : 18 + (i - 18) = i := by omega
      simp [h1, h2, h3]
    · by_cases h4 : i - 18 - 7 < 4
      · have h3 : 25 + (i - 18 - 7) = i := by omega
        simp [h1, h2, h4, h3]
      · have h3 : 29 + (i - 18 - 7 - 4) = i := by omega
        have h5 : i - 18 - 7 - 4 < 3 := by omega
        simp [h1, h2, h4, h3, h5]

/-- The fields of an encoded word. -/
@[simp] theorem unpack_word (e : Engine) (tok : BitVec 4) (op : BitVec 7) (ops : BitVec 18) :
    Header.unpack (word e tok op ops) = ⟨e.code, tok, op, ops⟩ := unpack_pack _

/-- An engine's code names it. -/
@[simp] theorem ofCode_code (e : Engine) : Engine.ofCode e.code = e := by cases e <;> rfl

/-- A token's bits name it. -/
@[simp] theorem ofBits_toBits (t : Tok) : Tok.ofBits t.toBits = t := by
  rcases t with ⟨a, b, c, d⟩
  cases a <;> cases b <;> cases c <;> cases d <;> rfl

/-- Wideness is by engine and opcode (R30). -/
theorem isWide_word (e : Engine) (tok : BitVec 4) (op : BitVec 7) (ops : BitVec 18) : isWide (word e tok op ops) = wideOp e op := by
  unfold isWide
  simp only [unpack_word, ofCode_code]

/-! Operand layouts (R28) -/

@[simp] theorem rrr_d (d a b : BitVec 5) (m : BitVec 3) : (⟨rrr d a b m⟩ : Operands).d = d := by
  simp only [Operands.d, rrr]
  rw [extract_append_hi _ _ _ _ (by omega), extract_append_hi _ _ _ _ (by omega), extract_append_hi _ _ _ _ (by omega)]
  exact extract_all d
@[simp] theorem rrr_a (d a b : BitVec 5) (m : BitVec 3) : (⟨rrr d a b m⟩ : Operands).a = a := by
  simp only [Operands.a, rrr]
  rw [extract_append_hi _ _ _ _ (by omega), extract_append_hi _ _ _ _ (by omega), extract_append_lo _ _ _ _ (by omega)]
  exact extract_all a
@[simp] theorem rrr_b (d a b : BitVec 5) (m : BitVec 3) : (⟨rrr d a b m⟩ : Operands).b = b := by
  simp only [Operands.b, rrr]
  rw [extract_append_hi _ _ _ _ (by omega), extract_append_lo _ _ _ _ (by omega)]
  exact extract_all b
@[simp] theorem rrr_m (d a b : BitVec 5) (m : BitVec 3) : (⟨rrr d a b m⟩ : Operands).m = m := by
  simp only [Operands.m, rrr]
  rw [extract_append_lo _ _ _ _ (by omega)]
  exact extract_all m
@[simp] theorem ri_d (d : BitVec 5) (i : BitVec 13) : (⟨ri d i⟩ : Operands).d = d := by
  simp only [Operands.d, ri]
  rw [extract_append_hi _ _ _ _ (by omega)]
  exact extract_all d
@[simp] theorem ri_imm13 (d : BitVec 5) (i : BitVec 13) : (⟨ri d i⟩ : Operands).imm13 = i := by
  simp only [Operands.imm13, ri]
  rw [extract_append_lo _ _ _ _ (by omega)]
  exact extract_all i
@[simp] theorem branch_breg (r c : BitVec 3) (o : BitVec 5) (i : BitVec 7) : (⟨branch r c o i⟩ : Operands).breg = r := by
  simp only [Operands.breg, branch]
  rw [extract_append_hi _ _ _ _ (by omega), extract_append_hi _ _ _ _ (by omega), extract_append_hi _ _ _ _ (by omega)]
  exact extract_all r
@[simp] theorem branch_cond (r c : BitVec 3) (o : BitVec 5) (i : BitVec 7) : (⟨branch r c o i⟩ : Operands).cond = c := by
  simp only [Operands.cond, branch]
  rw [extract_append_hi _ _ _ _ (by omega), extract_append_hi _ _ _ _ (by omega), extract_append_lo _ _ _ _ (by omega)]
  exact extract_all c
@[simp] theorem branch_opnd (r c : BitVec 3) (o : BitVec 5) (i : BitVec 7) : (⟨branch r c o i⟩ : Operands).opnd = o := by
  simp only [Operands.opnd, branch]
  rw [extract_append_hi _ _ _ _ (by omega), extract_append_lo _ _ _ _ (by omega)]
  exact extract_all o
@[simp] theorem branch_imm7 (r c : BitVec 3) (o : BitVec 5) (i : BitVec 7) : (⟨branch r c o i⟩ : Operands).imm7 = i := by
  simp only [Operands.imm7, branch]
  rw [extract_append_lo _ _ _ _ (by omega)]
  exact extract_all i

/-! Codes -/

@[simp] theorem vty_code (t : VTy) : VTy.ofCode t.code = some t := by cases t <;> rfl
@[simp] theorem mty_code (t : MTy) : MTy.ofCode t.code = some t := by cases t <;> rfl
@[simp] theorem nfmt_code (t : NFmt) : NFmt.ofCode t.code = some t := by cases t <;> rfl
@[simp] theorem rmode_code (t : RMode) : RMode.ofCode t.code = some t := by cases t <;> rfl
@[simp] theorem gran_code (t : Gran) : Gran.ofCode t.code = some t := by cases t <;> rfl
@[simp] theorem amo_code (t : AmoOp) : AmoOp.ofCode t.code = some t := by cases t <;> rfl
@[simp] theorem vatom_code (t : VAtomOp) : VAtomOp.ofCode t.code = some t := by cases t <;> rfl
@[simp] theorem mlog_code (t : MLogOp) : MLogOp.ofCode t.code = some t := by cases t <;> rfl
@[simp] theorem pegField_code (t : PegField) : PegField.ofCode t.code = some t := by cases t <;> rfl
@[simp] theorem mapOp_code (t : MapOp) : MapOp.ofCode t.code = some t := by cases t <;> rfl
@[simp] theorem regKind_code (t : RegKind) : RegKind.ofCode t.code = some t := by cases t <;> rfl

/-! Bytes -/

/-- The bytes of a word make it (R2). -/
@[simp] theorem word32_wordBytes (w : Word) :
    word32 (w.extractLsb' 0 8) (w.extractLsb' 8 8) (w.extractLsb' 16 8) (w.extractLsb' 24 8) = w := by
  apply BitVec.eq_of_getLsbD_eq
  intro i hi
  simp only [word32, BitVec.getLsbD_append, BitVec.getLsbD_extractLsb']
  by_cases h1 : i < 8
  · simp [h1]
  · by_cases h2 : i - 8 < 8
    · have h3 : 8 + (i - 8) = i := by omega
      simp [h1, h2, h3]
    · by_cases h4 : i - 8 - 8 < 8
      · have h3 : 16 + (i - 8 - 8) = i := by omega
        simp [h1, h2, h4, h3]
      · have h3 : 24 + (i - 8 - 8 - 8) = i := by omega
        have h5 : i - 8 - 8 - 8 < 8 := by omega
        simp [h1, h2, h4, h3, h5]

/-- Decoding the bytes of words is decoding the words (R30). -/
theorem decode_words (w lit : Word) (tail : List Byte) :
    (isWide w = false → decode (wordBytes w ++ tail) = (decodeWord w 0).map (·, tail)) ∧
    (isWide w = true → decode (wordBytes w ++ (wordBytes lit ++ tail)) = (decodeWord w lit).map (·, tail)) := by
  refine ⟨fun h => ?_, fun h => ?_⟩ <;> simp [wordBytes, decode, h]

end Sys2Proof.Laws
end

