-- ==== Sys2Proof/Laws/Memory.lean ====
section
/-!
SUPPORT. Every operation on memory keeps its canonical form and the splits of the dies: `Memory.Kept m n` says that n is in the form
where m is. Also what a byte list reads after a write.
-/

namespace Sys2Proof.Machine

/-! Byte lists -/

/-- A wider bound is a weaker claim. -/
theorem cellsAbove_weaken {cs : List Host.Cell} {k : Nat} {lo : Option Nat} (hlo : ∀ l, lo = some l → l ≤ k) (h : cellsAbove (some k) cs = true) :
    cellsAbove lo cs = true := by
  cases cs with
  | nil => rfl
  | cons c cs =>
    simp only [cellsAbove, Option.all_some, Bool.and_eq_true, decide_eq_true_eq] at h ⊢
    refine ⟨⟨?_, h.1.2⟩, h.2⟩
    cases lo with
    | none => rfl
    | some l => simp only [Option.all_some, decide_eq_true_eq]; have := hlo l rfl; omega

/-- A byte written above the bound keeps the form. -/
theorem cellsAbove_write {cs : List Host.Cell} {lo : Option Nat} {a : Nat} {b : Byte} (hlo : ∀ l, lo = some l → l < a)
    (h : cellsAbove lo cs = true) : cellsAbove lo (cellWrite cs a b) = true := by
  induction cs generalizing lo with
  | nil =>
    unfold cellWrite
    split
    · rfl
    · rename_i hb
      have hb : ¬b = 0#8 := hb
      cases lo with
      | none => simp [cellsAbove, hb]
      | some l => simp [cellsAbove, hb, hlo l rfl]
  | cons c cs ih =>
    obtain ⟨k, v⟩ := c
    simp only [cellsAbove, Bool.and_eq_true] at h
    obtain ⟨⟨h1, h2⟩, h3⟩ := h
    have hall : Option.all (fun l => decide (l < a)) lo = true := by
      cases lo with
      | none => rfl
      | some l => simpa using hlo l rfl
    unfold cellWrite
    split
    · split
      · simp only [cellsAbove, h1, h2, h3, Bool.and_true]
      · rename_i hk hb
        simp only [cellsAbove, hall, h3, h2, Option.all_some, Bool.and_true, Bool.true_and, Bool.and_eq_true, decide_eq_true_eq]
        exact ⟨by simpa using hb, hk⟩
    · split
      · rename_i hk
        subst hk
        split
        · exact cellsAbove_weaken (fun l hl => Nat.le_of_lt (hlo l hl)) h3
        · rename_i hb
          simp only [cellsAbove, hall, h3, Bool.and_true, Bool.true_and]
          simpa using hb
      · simp only [cellsAbove, h1, h2, Bool.and_true, Bool.true_and]
        exact ih (fun l hl => by cases hl; omega) h3

/-- A byte write keeps the form. -/
theorem cellsWf_cellWrite {cs : List Host.Cell} (a : Nat) (b : Byte) (h : cellsWf cs = true) : cellsWf (cellWrite cs a b) = true :=
  cellsAbove_write (fun _ hl => by cases hl) h

/-- A run of byte writes keeps the form. -/
theorem cellsWf_cellWrites {cs : List Host.Cell} (l : List (Nat × Byte)) (h : cellsWf cs = true) : cellsWf (cellWrites cs l) = true := by
  unfold cellWrites
  induction l generalizing cs with
  | nil => exact h
  | cons x l ih => exact ih (cellsWf_cellWrite _ _ h)

/-- Dropping entries keeps the form. -/
theorem cellsAbove_filter {cs : List Host.Cell} {lo : Option Nat} (f : Host.Cell → Bool) (h : cellsAbove lo cs = true) :
    cellsAbove lo (cs.filter f) = true := by
  induction cs generalizing lo with
  | nil => rfl
  | cons c cs ih =>
    obtain ⟨k, v⟩ := c
    simp only [cellsAbove, Bool.and_eq_true] at h
    obtain ⟨⟨h1, h2⟩, h3⟩ := h
    rw [List.filter_cons]
    split
    · simp only [cellsAbove, h1, h2, ih h3, Bool.and_true]
    · refine ih (cellsAbove_weaken (fun l hl => ?_) h3)
      subst hl
      simp only [Option.all_some, decide_eq_true_eq] at h1
      omega

/-- Below the bound nothing is listed. -/
theorem cellRead_of_above {cs : List Host.Cell} {lo a : Nat} (h : cellsAbove (some lo) cs = true) (ha : a ≤ lo) : cellRead cs a = 0 := by
  cases cs with
  | nil => rfl
  | cons c cs =>
    obtain ⟨k, v⟩ := c
    simp only [cellsAbove, Option.all_some, Bool.and_eq_true, decide_eq_true_eq] at h
    unfold cellRead
    rw [if_neg (by omega), if_pos (by omega)]

/-- A read after a write: the byte written at its address, every other byte as before. -/
theorem cellRead_cellWrite_above {cs : List Host.Cell} {lo : Option Nat} (h : cellsAbove lo cs = true) (a x : Nat) (b : Byte) :
    cellRead (cellWrite cs a b) x = if x = a then b else cellRead cs x := by
  induction cs generalizing lo with
  | nil =>
    by_cases hb : b = 0#8 <;> by_cases hx : x = a <;> simp [cellWrite, cellRead, hb, hx]
  | cons c cs ih =>
    obtain ⟨k, v⟩ := c
    simp only [cellsAbove, Bool.and_eq_true] at h
    obtain ⟨⟨-, -⟩, h3⟩ := h
    unfold cellWrite
    split
    · rename_i hk
      by_cases hx : x = a
      · subst hx
        by_cases hb : b = 0#8
        · simp [hb, cellRead, Nat.ne_of_lt hk, hk]
        · simp [hb, cellRead]
      · by_cases hb : b = 0#8
        · simp [hb, hx]
        · simp only [show ((0 : Byte) = 0#8) from rfl, hb, if_false, hx]
          rw [show cellRead ((a, b) :: (k, v) :: cs) x = if x = a then b else if x < a then 0 else cellRead ((k, v) :: cs) x from rfl]
          rw [if_neg hx]
          split
          · symm; unfold cellRead; rw [if_neg (by omega), if_pos (by omega)]
          · rfl
    · split
      · rename_i hk
        subst hk
        by_cases hx : x = a
        · subst hx
          by_cases hb : b = 0#8
          · simp [hb, cellRead_of_above h3 (Nat.le_refl _)]
          · simp [hb, cellRead]
        · by_cases hb : b = 0#8
          · simp only [show ((0 : Byte) = 0#8) from rfl, hb, if_true, hx, if_false]
            rw [show cellRead ((a, v) :: cs) x = if x = a then v else if x < a then 0 else cellRead cs x from rfl, if_neg hx]
            split
            · exact cellRead_of_above h3 (by omega)
            · rfl
          · simp [hb, cellRead, hx]
      · rename_i h1 h2
        rw [show cellRead ((k, v) :: cellWrite cs a b) x = if x = k then v else if x < k then 0 else cellRead (cellWrite cs a b) x from rfl,
          show cellRead ((k, v) :: cs) x = if x = k then v else if x < k then 0 else cellRead cs x from rfl, ih h3]
        by_cases hx : x = a
        · rw [if_neg (by omega), if_neg (by omega)]; simp [hx]
        · simp [hx]

/-- A read after a write of a canonical list. -/
theorem cellRead_cellWrite {cs : List Host.Cell} (h : cellsWf cs = true) (a x : Nat) (b : Byte) :
    cellRead (cellWrite cs a b) x = if x = a then b else cellRead cs x := cellRead_cellWrite_above h a x b

/-! Rising lists -/

/-- Rising from a head on: the rest rises, and the head is below every member. -/
theorem rising_cons {x : Nat} {l : List Nat} : rising (x :: l) = true ↔ (∀ y ∈ l, x < y) ∧ rising l = true := by
  induction l generalizing x with
  | nil => simp [rising]
  | cons y l ih =>
    simp only [rising, Bool.and_eq_true, decide_eq_true_eq]
    constructor
    · rintro ⟨h1, h2⟩
      refine ⟨fun z hz => ?_, h2⟩
      rcases List.mem_cons.1 hz with rfl | hz
      · exact h1
      · exact Nat.lt_trans h1 ((ih.1 h2).1 z hz)
    · rintro ⟨h1, h2⟩
      exact ⟨h1 y (by simp), h2⟩

/-- What an insertion contains. -/
theorem mem_insertNat {x y : Nat} {l : List Nat} : y ∈ insertNat x l ↔ y = x ∨ y ∈ l := by
  induction l with
  | nil => simp [insertNat]
  | cons z l ih =>
    unfold insertNat
    split
    · simp
    · split
      · rename_i h; subst h; simp
      · simp only [List.mem_cons, ih]; exact or_left_comm

/-- An insertion keeps a list rising. -/
theorem rising_insertNat {x : Nat} {l : List Nat} (h : rising l = true) : rising (insertNat x l) = true := by
  induction l with
  | nil => rfl
  | cons y l ih =>
    unfold insertNat
    split
    · rename_i hxy
      exact rising_cons.2 ⟨fun z hz => by
        rcases List.mem_cons.1 hz with rfl | hz
        · exact hxy
        · exact Nat.lt_trans hxy ((rising_cons.1 h).1 z hz), h⟩
    · split
      · exact h
      · refine rising_cons.2 ⟨fun z hz => ?_, ih (rising_cons.1 h).2⟩
        rcases mem_insertNat.1 hz with rfl | hz
        · omega
        · exact (rising_cons.1 h).1 z hz

/-- A filter keeps a list rising. -/
theorem rising_filter {l : List Nat} (f : Nat → Bool) (h : rising l = true) : rising (l.filter f) = true := by
  induction l with
  | nil => rfl
  | cons y l ih =>
    rw [List.filter_cons]
    have h' := rising_cons.1 h
    split
    · exact rising_cons.2 ⟨fun z hz => h'.1 z (List.mem_filter.1 hz).1, ih h'.2⟩
    · exact ih h'.2

/-- Marking a sector keeps its list rising. -/
theorem rising_markSector {l : List Nat} (sec : Nat) (p : Bool) (h : rising l = true) : rising (markSector l sec p) = true := by
  unfold markSector
  split
  · exact rising_insertNat h
  · exact rising_filter _ h

/-! Kept -/

/-- n is in the canonical form, with legal splits, where m is. -/
def Memory.Kept (m n : Memory) : Prop := (m.wf = true → n.wf = true) ∧ (m.diesLegal = true → n.diesLegal = true)

theorem Memory.Kept.refl (m : Memory) : m.Kept m := ⟨id, id⟩
theorem Memory.Kept.trans {m n o : Memory} (h : m.Kept n) (g : n.Kept o) : m.Kept o := ⟨fun x => g.1 (h.1 x), fun x => g.2 (h.2 x)⟩

/-- A fold of steps that each keep the form keeps it. -/
theorem Memory.Kept.fold {α : Type} (f : Memory → α → Memory) (hf : ∀ (m : Memory) x, m.Kept (f m x)) (l : List α) (m : Memory) :
    m.Kept (l.foldl f m) := by
  induction l generalizing m with
  | nil => exact .refl m
  | cons x l ih => exact (hf m x).trans (ih _)

/-- An update of no byte, no poison and no die. -/
theorem Memory.Kept.of_same {m n : Memory} (h1 : n.hbm = m.hbm) (h2 : n.scr = m.scr) (h3 : n.hbmPoison = m.hbmPoison)
    (h4 : n.scrPoison = m.scrPoison) (h5 : n.dies = m.dies) : m.Kept n := by
  unfold Memory.Kept Memory.wf Memory.diesLegal
  rw [h1, h2, h3, h4, h5]
  exact ⟨id, id⟩

/-- The state's memory stays safe where it is kept. -/
theorem safe_of_kept {s t : State} (h : s.mem.Kept t.mem) (hs : s.safe = true) : t.safe = true := by
  simp only [State.safe, Bool.and_eq_true] at *
  exact ⟨h.1 hs.1, h.2 hs.2⟩

theorem kept_dirtyBank (m : Memory) (a : Nat) : m.Kept (m.dirtyBank a) := by
  unfold Memory.dirtyBank
  split
  · exact .refl m
  · exact .of_same rfl rfl rfl rfl rfl

theorem kept_writeSector (m : Memory) (key sec : Nat) (l : List (Nat × Byte)) (p : Bool) : m.Kept (m.writeSector key sec l p) := by
  have hb : ∀ c : Prop, [Decidable c] → ∀ x, cellsWf m.hbm = true → cellsWf (if c then m.hbm else cellWrites m.hbm x) = true := by
    intro c _ x h; split
    · exact h
    · exact cellsWf_cellWrites _ h
  have hd : ∀ a, (m.dirtyBank a).hbm = m.hbm ∧ (m.dirtyBank a).scr = m.scr ∧ (m.dirtyBank a).hbmPoison = m.hbmPoison ∧
      (m.dirtyBank a).scrPoison = m.scrPoison ∧ (m.dirtyBank a).dies = m.dies := by
    intro a; unfold Memory.dirtyBank; split <;> exact ⟨rfl, rfl, rfl, rfl, rfl⟩
  obtain ⟨-, h2, h3, h4, h5⟩ := hd (sec * 32)
  refine ⟨fun h => ?_, fun h => ?_⟩
  · simp only [Memory.wf, Bool.and_eq_true] at h
    obtain ⟨⟨⟨w1, w2⟩, w3⟩, w4⟩ := h
    simp only [Memory.writeSector, Memory.wf, h2, h3, h4, Bool.and_eq_true]
    refine ⟨⟨⟨cellsWf_cellWrites _ (hb _ _ w1), w2⟩, ?_⟩, w4⟩
    split
    · exact rising_markSector _ _ w3
    · split
      · exact rising_markSector _ _ w3
      · exact w3
  · simpa only [Memory.writeSector, Memory.diesLegal, h5] using h

theorem kept_hbmWrite (m : Memory) (key a : Nat) (l : List Byte) (p : Bool) : m.Kept (m.hbmWrite key a l p) :=
  .fold _ (fun m sec => kept_writeSector m key sec _ p) _ m
theorem kept_hbmWriteP (m : Memory) (key a : Nat) (l : List (Byte × Bool)) : m.Kept (m.hbmWriteP key a l) :=
  .fold _ (fun m sec => kept_writeSector m key sec _ _) _ m

theorem kept_poisonSector (m : Memory) (sec : Nat) : m.Kept (m.poisonSector sec) := by
  refine ⟨fun h => ?_, id⟩
  simp only [Memory.wf, Memory.poisonSector, Bool.and_eq_true] at h ⊢
  exact ⟨⟨h.1.1, rising_markSector _ _ h.1.2⟩, h.2⟩

theorem kept_writeScrSector (m : Memory) (sec : Nat) (l : List (Nat × Byte)) (p : Bool) : m.Kept (m.writeScrSector sec l p) := by
  refine ⟨fun h => ?_, id⟩
  simp only [Memory.wf, Bool.and_eq_true] at h
  obtain ⟨⟨⟨w1, w2⟩, w3⟩, w4⟩ := h
  simp only [Memory.writeScrSector, Memory.wf, Bool.and_eq_true]
  refine ⟨⟨⟨w1, cellsWf_cellWrites _ w2⟩, w3⟩, ?_⟩
  split
  · exact rising_markSector _ _ w4
  · split
    · exact rising_markSector _ _ w4
    · exact w4

theorem kept_scrWrite (m : Memory) (core off : Nat) (l : List Byte) (p : Bool) : m.Kept (m.scrWrite core off l p) :=
  .fold _ (fun m sec => kept_writeScrSector m sec _ p) _ m
theorem kept_scrWriteP (m : Memory) (core off : Nat) (l : List (Byte × Bool)) : m.Kept (m.scrWriteP core off l) :=
  .fold _ (fun m sec => kept_writeScrSector m sec _ _) _ m

/-! The L1 -/

theorem kept_l1Put (m : Memory) (x : L1Line) : m.Kept (m.l1Put x) := .of_same rfl rfl rfl rfl rfl
theorem kept_l1Discard (m : Memory) (core line : Nat) : m.Kept (m.l1Discard core line) := .of_same rfl rfl rfl rfl rfl
theorem kept_endLeases (m : Memory) (a n : Nat) : m.Kept (m.endLeases a n) := .of_same rfl rfl rfl rfl rfl

theorem kept_backPart (m : Memory) (x : L1Line) (h : Nat) (l : List (Nat × Byte)) : m.Kept (m.backPart x h l) := by
  unfold Memory.backPart
  split
  · exact .refl m
  · exact (kept_endLeases ..).trans (kept_writeSector ..)
theorem kept_l1Back (m : Memory) (x : L1Line) : m.Kept (m.l1Back x) :=
  .fold _ (fun m h => by
    dsimp only
    split
    · exact kept_backPart ..
    · exact (kept_backPart ..).trans (kept_backPart ..)) _ m

theorem kept_l1Clean (m : Memory) (core line : Nat) : m.Kept (m.l1Clean core line) := by
  unfold Memory.l1Clean
  split
  · exact .refl m
  · split
    · exact .refl m
    · exact (kept_l1Back ..).trans (kept_l1Put ..)

theorem kept_l1Evict (m : Memory) (core line : Nat) : m.Kept (m.l1Evict core line) := by
  unfold Memory.l1Evict
  split
  · exact .refl m
  · split
    · exact kept_l1Discard ..
    · exact (kept_l1Back ..).trans (kept_l1Discard ..)

theorem kept_l1Under (m : Memory) (core line key : Nat) : m.Kept (m.l1Under core line key) := by
  unfold Memory.l1Under
  split
  · exact .refl m
  · split
    · exact .refl m
    · exact kept_l1Evict ..

theorem kept_l1Room (m : Memory) (core line : Nat) : m.Kept (m.l1Room core line) := by
  unfold Memory.l1Room
  dsimp only
  split
  · exact .refl m
  · split
    · exact .refl m
    · exact kept_l1Evict ..

/-- The line under its key, and room for it. -/
theorem kept_l1Ready (m : Memory) (core line key : Nat) : m.Kept ((m.l1Under core line key).l1Room core line) :=
  (kept_l1Under ..).trans (kept_l1Room ..)

theorem kept_l1Fill (m : Memory) (core line key : Nat) (asid : Asid) (vline : Nat) : m.Kept (m.l1Fill core line key asid vline) := by
  unfold Memory.l1Fill
  have h := (kept_l1Ready m core line key).trans (kept_endLeases _ (line * 64) 64)
  generalize (((m.l1Under core line key).l1Room core line).endLeases (line * 64) 64) = k at h
  dsimp only
  split
  · exact h
  · exact h.trans (kept_l1Put ..)

theorem kept_l1Brought (m : Memory) (core : Nat) (asid : Asid) (va a key n : Nat) : m.Kept (m.l1Brought core asid va a key n) := by
  unfold Memory.l1Brought
  dsimp only
  split
  · exact kept_l1Under ..
  · exact (kept_l1Under ..).trans (kept_l1Fill ..)

/-- A load leaves what it brought. -/
theorem l1Load_mem (m : Memory) (core : Nat) (asid : Asid) (va a key n : Nat) :
    (m.l1Load core asid va a key n).2.2 = m.l1Brought core asid va a key n := by
  unfold Memory.l1Load
  generalize m.l1Brought core asid va a key n = j
  cases h : j.l1Find core (a / 64) <;> simp [h]

theorem kept_l1Load (m : Memory) (core : Nat) (asid : Asid) (va a key n : Nat) : m.Kept (m.l1Load core asid va a key n).2.2 := by
  rw [l1Load_mem]
  exact kept_l1Brought ..

theorem kept_l1Store (m : Memory) (core : Nat) (asid : Asid) (vline sec key : Nat) (l : List (Nat × Byte)) (p : Bool) :
    m.Kept (m.l1Store core asid vline sec key l p) := (kept_l1Ready m core (sec / 2) key).trans (kept_l1Put ..)

theorem kept_l1ForEach (m : Memory) (core : Nat) (pick : L1Line → Bool) {act : Memory → Nat → Nat → Memory}
    (h : ∀ (m : Memory) a b, m.Kept (act m a b)) : m.Kept (m.l1ForEach core pick act) := by
  unfold Memory.l1ForEach
  exact .fold _ (fun m (x : L1Line) => h m core x.line) _ m

theorem kept_l1CleanAll (m : Memory) (core : Nat) : m.Kept (m.l1CleanAll core) := kept_l1ForEach _ _ _ kept_l1Clean
theorem kept_l1EvictAll (m : Memory) (core : Nat) : m.Kept (m.l1EvictAll core) := kept_l1ForEach _ _ _ kept_l1Evict
theorem kept_l1DropClean (m : Memory) (core : Nat) : m.Kept (m.l1DropClean core) := kept_l1ForEach _ _ _ kept_l1Discard
theorem kept_l1DropAll (m : Memory) (core : Nat) (w : List (Nat × Nat)) : m.Kept (m.l1DropAll core w) :=
  .fold _ (fun m x => by
    dsimp only
    split
    · exact kept_l1Discard ..
    · exact (kept_l1Back ..).trans (kept_l1Discard ..)) _ m
theorem kept_l1DropFor (m : Memory) (core a n : Nat) : m.Kept (m.l1DropFor core a n) := kept_l1DropAll ..

/-! Harius's records -/

theorem kept_dieRead (m : Memory) (slot a n : Nat) : m.Kept (m.dieRead slot a n).2.2 := kept_endLeases ..
theorem kept_dieWrite (m : Memory) (slot a : Nat) (l : List Byte) (p : Bool) : m.Kept (m.dieWrite slot a l p) :=
  (kept_endLeases ..).trans (kept_hbmWrite ..)
theorem kept_ctlPut (m : Memory) (p : PkgSt) (off n x : Nat) : m.Kept (m.ctlPut p off n x) := by
  unfold Memory.ctlPut
  split
  · exact (kept_dieWrite ..).trans (.of_same rfl rfl rfl rfl rfl)
  · exact .refl m
theorem kept_counterPut (m : Memory) (p : PkgSt) (i x : Nat) : m.Kept (m.counterPut p i x) := by
  unfold Memory.counterPut
  split
  · exact kept_ctlPut ..
  · split
    · exact .of_same rfl rfl rfl rfl rfl
    · exact .refl m
theorem kept_count (m : Memory) (p : PkgSt) (i : Nat) : m.Kept (m.count p i) := kept_counterPut ..
theorem kept_counterStore (m : Memory) (p : PkgSt) (i : Nat) (v : Dword) : m.Kept (m.counterStore p i v) := by
  unfold Memory.counterStore
  split
  · exact kept_counterPut ..
  · exact .refl m
theorem kept_packageLog (m : Memory) (p : PkgSt) (l : List Byte) : m.Kept (m.packageLog p l) := by
  unfold Memory.packageLog
  split
  · exact .refl m
  · exact (kept_dieWrite ..).trans (kept_ctlPut ..)
theorem kept_rredOut (m : Memory) (p : PkgSt) (asid : Asid) (up : Bool) : m.Kept (m.rredOut p asid up) := kept_ctlPut ..
theorem kept_errorLog (m : Memory) (p : PkgSt) (asid : Asid) (l : List Byte) : m.Kept (m.errorLog p asid l) := by
  unfold Memory.errorLog
  dsimp only
  split
  · exact kept_packageLog ..
  · exact (kept_dieWrite ..).trans (kept_ctlPut ..)
theorem kept_peerPut (m : Memory) (p : PkgSt) (n : Pkg) (v : Dword) : m.Kept (m.peerPut p n v) := kept_ctlPut ..

/-! Translation -/

theorem kept_tlbPut (m : Memory) (e : TlbEntry) : m.Kept (m.tlbPut e) := .of_same rfl rfl rfl rfl rfl
theorem kept_holdTlb (m : Memory) (who : Option Nat) (asid : Asid) (va : BitVec 56) (p : Dword) (at_ span : Nat) :
    m.Kept (holdTlb m who asid va p at_ span) :=
  .fold _ (fun m _ => kept_tlbPut m _) _ m
theorem kept_setPte (m : Memory) (at_ : Nat) (bits : Dword) : m.Kept (setPte m at_ bits) := by
  unfold setPte
  dsimp only
  split
  · exact .refl m
  · exact (kept_endLeases ..).trans (kept_hbmWrite ..)
theorem kept_walkReads (m : Memory) (va : Nat) (l : List Nat) (tbl : Nat) : m.Kept (Memory.walkReads va l tbl m) := by
  induction l generalizing m tbl with
  | nil => exact .refl m
  | cons lvl rest ih =>
    unfold Memory.walkReads
    dsimp only
    split
    · exact (kept_endLeases ..).trans (ih ..)
    · exact kept_endLeases ..
theorem kept_walked (m : Memory) (root : BitVec 43) (va : BitVec 56) : m.Kept (m.walked root va) := by
  unfold Memory.walked
  split
  · exact .refl m
  · exact kept_walkReads ..
theorem kept_take (m : Memory) (who : Option Nat) (asid : Asid) (va : BitVec 56) (k : AKind) (addr : Dword) (r : Route) :
    m.Kept (r.take m who asid va k addr).1 := by
  unfold Route.take
  split
  · exact .refl m
  · exact .refl m
  · exact .refl m
  · dsimp only
    split
    · exact .refl m
    · exact (kept_setPte ..).trans (kept_holdTlb ..)
  · dsimp only
    split
    · exact .refl m
    · split
      · split
        · exact .refl m
        · exact (kept_setPte ..).trans (kept_tlbPut ..)
      · exact .refl m
theorem kept_translate (m : Memory) (fresh : Nat) (who : Option Nat) (asid : Asid) (root : BitVec 43) (va : BitVec 56) (k : AKind) (addr : Dword) :
    m.Kept (translate m fresh who asid root va k addr).mem := (kept_walked ..).trans (kept_take ..)

/-! Banks -/

/-- A change of one die that keeps its splits legal. -/
theorem kept_onDie (m : Memory) (d : Nat) {f : Die → Die} (h : ∀ x, x.legal = true → (f x).legal = true) : m.Kept (m.onDie d f) := by
  unfold Memory.onDie
  split
  · rename_i hd
    refine ⟨id, fun g => ?_⟩
    simp only [Memory.diesLegal, List.all_eq_true, Vector.mem_toList_iff] at g ⊢
    intro x hx
    rw [Vector.mem_iff_getElem] at hx
    obtain ⟨i, hi, rfl⟩ := hx
    rw [Vector.getElem_set]
    split
    · exact h _ (g _ (Vector.getElem_mem _))
    · exact g _ (Vector.getElem_mem _)
  · exact .refl m
theorem kept_setPromos (m : Memory) (bank : Nat) (l : List Promotion) : m.Kept (m.setPromos bank l) := .of_same rfl rfl rfl rfl rfl
theorem kept_promoteFor (m : Memory) (reply : Option Pkg) (thread : Option Nat) (a : Nat) : m.Kept (m.promoteFor reply thread a) := by
  unfold Memory.promoteFor
  dsimp only
  split
  · exact kept_onDie _ _ fun _ hx => hx
  · exact kept_setPromos ..
theorem kept_promote (m : Memory) (a : Nat) : m.Kept (m.promote a) := kept_promoteFor ..
theorem kept_writeBack (m : Memory) (bank row k : Nat) : m.Kept (m.writeBack bank row k) := kept_setPromos ..
theorem kept_demote (m : Memory) (a : Nat) : m.Kept (m.demote a) := by
  unfold Memory.demote
  exact kept_setPromos ..
theorem splitOk_clampSlots (v : Dword) : splitOk (clampSlots v) = true := by
  unfold splitOk clampSlots
  dsimp only
  split
  · rfl
  · simp only [Bool.and_eq_true, beq_iff_eq, decide_eq_true_eq]
    omega
theorem legal_split (d : Die) (v : Dword) (h : d.legal = true) : (d.split v).legal = true := by
  unfold Die.split
  split
  · exact h
  · simp only [Die.legal, Bool.and_eq_true] at *
    exact ⟨h.1, splitOk_clampSlots v⟩
theorem legal_applyHeld (n : Nat) (d : Die) (h : d.legal = true) : (Die.applyHeld n d).legal = true := by
  induction n generalizing d with
  | zero => exact h
  | succ n ih =>
    unfold Die.applyHeld
    split
    · exact h
    · split
      · exact h
      · exact ih _ (legal_split _ _ h)
theorem kept_writeSplit (m : Memory) (d : Nat) (v : Dword) : m.Kept (m.writeSplit d v) := by
  refine kept_onDie _ _ fun x hx => ?_
  split
  · exact hx
  · exact legal_split _ _ hx
/-- A die's banks drop their lists. -/
theorem kept_banks (m : Memory) (l : List Bank) : m.Kept { m with banks := l } := .of_same rfl rfl rfl rfl rfl
/-- The held PROMOTEs of a die are applied. -/
theorem kept_heldPromotes (l : List HeldPromote) (m : Memory) : m.Kept (l.foldl (fun (m : Memory) h => m.promote h.addr) m) :=
  .fold _ (fun m (h : HeldPromote) => kept_promote m h.addr) _ m
theorem kept_adoptSplit (m : Memory) (d : Nat) : m.Kept (m.adoptSplit d) := by
  unfold Memory.adoptSplit
  dsimp only
  generalize (if h : d < 4 then m.dies[d].heldPromotes else []) = held
  have h1 := kept_banks m (m.banks.filter fun b => dieOfStack (b.num / 1024) != d)
  generalize ({ m with banks := m.banks.filter fun b => dieOfStack (b.num / 1024) != d } : Memory) = k at h1
  have h2 : k.Kept (k.onDie d fun x => { x with slots := x.newSlots, busy := false, heldPromotes := [] }) := by
    refine kept_onDie _ d fun x hx => ?_
    simp only [Die.legal, Bool.and_eq_true] at *
    exact ⟨hx.2, hx.2⟩
  generalize (k.onDie d fun x => { x with slots := x.newSlots, busy := false, heldPromotes := [] }) = j at h2
  exact ((h1.trans h2).trans (kept_heldPromotes held j)).trans (kept_onDie _ d fun x hx => legal_applyHeld _ _ hx)
theorem kept_activate (m : Memory) (bank row : Nat) : m.Kept (m.activate bank row) := by
  unfold Memory.activate
  dsimp only
  split
  · exact .refl m
  · exact kept_onDie _ _ fun _ hx => hx
theorem kept_zeroRange (m : Memory) (a n : Nat) : m.Kept (m.zeroRange a n) := by
  refine ⟨fun h => ?_, id⟩
  simp only [Memory.wf, Memory.zeroRange, Bool.and_eq_true] at h ⊢
  exact ⟨⟨⟨cellsAbove_filter _ h.1.1.1, h.1.1.2⟩, rising_filter _ h.1.2⟩, h.2⟩
theorem kept_bench (m : Memory) (a b : Word) : m.Kept (m.bench a b) := by
  unfold Memory.bench
  dsimp only
  refine Memory.Kept.trans ?_ (Memory.Kept.trans (.fold _ (fun m x => kept_hbmWrite ..) _ _) (kept_hbmWrite ..))
  split
  · exact .refl m
  · exact .of_same rfl rfl rfl rfl rfl

/-- Reset has the form. -/
theorem reset_safe : State.reset.safe = true := by decide

end Sys2Proof.Machine
end

