-- ==== Sys2Proof/Laws/PerInstr.lean ====
section
/-!
SUPPORT. The families of statements about every instruction, one lemma per constructor. `Encoding`: the words of an instruction are as
many as its first word announces (R30).
-/

namespace Sys2Proof.Laws

/-- The words after the first are as many as it announces. -/
def Encoding.Statement (i : Instr) : Prop := ∀ w rest, encode i = w :: rest → rest.length = if isWide w then 1 else 0

/-- One word of an opcode that is not wide. -/
theorem Encoding.one {i : Instr} {e tok op ops} (h : encode i = [word e tok op ops]) (hw : wideOp e op = false) : Encoding.Statement i := by
  intro w rest hi
  rw [h] at hi
  cases hi
  rw [isWide_word, hw]
  rfl

/-- A word of a wide opcode and its literal. -/
theorem Encoding.two {i : Instr} {e tok op ops lit} (h : encode i = [word e tok op ops, lit]) (hw : wideOp e op = true) : Encoding.Statement i := by
  intro w rest hi
  rw [h] at hi
  cases hi
  rw [isWide_word, hw]
  rfl

/-- An event has no words. -/
theorem Encoding.event {i : Instr} (h : encode i = []) : Encoding.Statement i := by
  intro w rest hi
  rw [h] at hi
  cases hi

theorem Encoding.add (t : Tok) (d : SReg) (a : SReg) (b : SReg) : Encoding.Statement (.add t d a b) := Encoding.one rfl rfl
theorem Encoding.sub (t : Tok) (d : SReg) (a : SReg) (b : SReg) : Encoding.Statement (.sub t d a b) := Encoding.one rfl rfl
theorem Encoding.and (t : Tok) (d : SReg) (a : SReg) (b : SReg) : Encoding.Statement (.and t d a b) := Encoding.one rfl rfl
theorem Encoding.or (t : Tok) (d : SReg) (a : SReg) (b : SReg) : Encoding.Statement (.or t d a b) := Encoding.one rfl rfl
theorem Encoding.xor (t : Tok) (d : SReg) (a : SReg) (b : SReg) : Encoding.Statement (.xor t d a b) := Encoding.one rfl rfl
theorem Encoding.andn (t : Tok) (d : SReg) (a : SReg) (b : SReg) : Encoding.Statement (.andn t d a b) := Encoding.one rfl rfl
theorem Encoding.shl (t : Tok) (d : SReg) (a : SReg) (b : SReg) : Encoding.Statement (.shl t d a b) := Encoding.one rfl rfl
theorem Encoding.shrl (t : Tok) (d : SReg) (a : SReg) (b : SReg) : Encoding.Statement (.shrl t d a b) := Encoding.one rfl rfl
theorem Encoding.shra (t : Tok) (d : SReg) (a : SReg) (b : SReg) : Encoding.Statement (.shra t d a b) := Encoding.one rfl rfl
theorem Encoding.rotr (t : Tok) (d : SReg) (a : SReg) (b : SReg) : Encoding.Statement (.rotr t d a b) := Encoding.one rfl rfl
theorem Encoding.min (t : Tok) (d : SReg) (a : SReg) (b : SReg) : Encoding.Statement (.min t d a b) := Encoding.one rfl rfl
theorem Encoding.max (t : Tok) (d : SReg) (a : SReg) (b : SReg) : Encoding.Statement (.max t d a b) := Encoding.one rfl rfl
theorem Encoding.minu (t : Tok) (d : SReg) (a : SReg) (b : SReg) : Encoding.Statement (.minu t d a b) := Encoding.one rfl rfl
theorem Encoding.maxu (t : Tok) (d : SReg) (a : SReg) (b : SReg) : Encoding.Statement (.maxu t d a b) := Encoding.one rfl rfl
theorem Encoding.clz (t : Tok) (d : SReg) (a : SReg) : Encoding.Statement (.clz t d a) := Encoding.one rfl rfl
theorem Encoding.ctz (t : Tok) (d : SReg) (a : SReg) : Encoding.Statement (.ctz t d a) := Encoding.one rfl rfl
theorem Encoding.popc (t : Tok) (d : SReg) (a : SReg) : Encoding.Statement (.popc t d a) := Encoding.one rfl rfl
theorem Encoding.mul (t : Tok) (d : SReg) (a : SReg) (b : SReg) : Encoding.Statement (.mul t d a b) := Encoding.one rfl rfl
theorem Encoding.mulh (t : Tok) (d : SReg) (a : SReg) (b : SReg) : Encoding.Statement (.mulh t d a b) := Encoding.one rfl rfl
theorem Encoding.mulhu (t : Tok) (d : SReg) (a : SReg) (b : SReg) : Encoding.Statement (.mulhu t d a b) := Encoding.one rfl rfl
theorem Encoding.div (t : Tok) (d : SReg) (a : SReg) (b : SReg) : Encoding.Statement (.div t d a b) := Encoding.one rfl rfl
theorem Encoding.divu (t : Tok) (d : SReg) (a : SReg) (b : SReg) : Encoding.Statement (.divu t d a b) := Encoding.one rfl rfl
theorem Encoding.rem (t : Tok) (d : SReg) (a : SReg) (b : SReg) : Encoding.Statement (.rem t d a b) := Encoding.one rfl rfl
theorem Encoding.remu (t : Tok) (d : SReg) (a : SReg) (b : SReg) : Encoding.Statement (.remu t d a b) := Encoding.one rfl rfl
theorem Encoding.sel (t : Tok) (d : SReg) (a : SReg) (b : SReg) (p : PReg) : Encoding.Statement (.sel t d a b p) := Encoding.one rfl rfl
theorem Encoding.addi (t : Tok) (d : SReg) (imm : BitVec 13) : Encoding.Statement (.addi t d imm) := Encoding.one rfl rfl
theorem Encoding.andi (t : Tok) (d : SReg) (imm : BitVec 13) : Encoding.Statement (.andi t d imm) := Encoding.one rfl rfl
theorem Encoding.ori (t : Tok) (d : SReg) (imm : BitVec 13) : Encoding.Statement (.ori t d imm) := Encoding.one rfl rfl
theorem Encoding.xori (t : Tok) (d : SReg) (imm : BitVec 13) : Encoding.Statement (.xori t d imm) := Encoding.one rfl rfl
theorem Encoding.shli (t : Tok) (d : SReg) (c : BitVec 6) : Encoding.Statement (.shli t d c) := Encoding.one rfl rfl
theorem Encoding.shrli (t : Tok) (d : SReg) (c : BitVec 6) : Encoding.Statement (.shrli t d c) := Encoding.one rfl rfl
theorem Encoding.shrai (t : Tok) (d : SReg) (c : BitVec 6) : Encoding.Statement (.shrai t d c) := Encoding.one rfl rfl
theorem Encoding.movi (t : Tok) (d : SReg) (imm : BitVec 13) : Encoding.Statement (.movi t d imm) := Encoding.one rfl rfl
theorem Encoding.movw (t : Tok) (d : SReg) (lit : Word) : Encoding.Statement (.movw t d lit) := Encoding.two rfl rfl
theorem Encoding.movhw (t : Tok) (d : SReg) (lit : Word) : Encoding.Statement (.movhw t d lit) := Encoding.two rfl rfl
theorem Encoding.cmpeq (t : Tok) (d : PReg) (a : SReg) (b : SReg) : Encoding.Statement (.cmpeq t d a b) := Encoding.one rfl rfl
theorem Encoding.cmpne (t : Tok) (d : PReg) (a : SReg) (b : SReg) : Encoding.Statement (.cmpne t d a b) := Encoding.one rfl rfl
theorem Encoding.cmplt (t : Tok) (d : PReg) (a : SReg) (b : SReg) : Encoding.Statement (.cmplt t d a b) := Encoding.one rfl rfl
theorem Encoding.cmple (t : Tok) (d : PReg) (a : SReg) (b : SReg) : Encoding.Statement (.cmple t d a b) := Encoding.one rfl rfl
theorem Encoding.cmpltu (t : Tok) (d : PReg) (a : SReg) (b : SReg) : Encoding.Statement (.cmpltu t d a b) := Encoding.one rfl rfl
theorem Encoding.cmpleu (t : Tok) (d : PReg) (a : SReg) (b : SReg) : Encoding.Statement (.cmpleu t d a b) := Encoding.one rfl rfl
theorem Encoding.pand (t : Tok) (d : PReg) (a : PReg) (b : PReg) : Encoding.Statement (.pand t d a b) := Encoding.one rfl rfl
theorem Encoding.por (t : Tok) (d : PReg) (a : PReg) (b : PReg) : Encoding.Statement (.por t d a b) := Encoding.one rfl rfl
theorem Encoding.pxor (t : Tok) (d : PReg) (a : PReg) (b : PReg) : Encoding.Statement (.pxor t d a b) := Encoding.one rfl rfl
theorem Encoding.pandn (t : Tok) (d : PReg) (a : PReg) (b : PReg) : Encoding.Statement (.pandn t d a b) := Encoding.one rfl rfl
theorem Encoding.fadd (t : Tok) (d : SReg) (a : SReg) (b : SReg) : Encoding.Statement (.fadd t d a b) := Encoding.one rfl rfl
theorem Encoding.fsub (t : Tok) (d : SReg) (a : SReg) (b : SReg) : Encoding.Statement (.fsub t d a b) := Encoding.one rfl rfl
theorem Encoding.fmul (t : Tok) (d : SReg) (a : SReg) (b : SReg) : Encoding.Statement (.fmul t d a b) := Encoding.one rfl rfl
theorem Encoding.fdiv (t : Tok) (d : SReg) (a : SReg) (b : SReg) : Encoding.Statement (.fdiv t d a b) := Encoding.one rfl rfl
theorem Encoding.ffma (t : Tok) (d : SReg) (a : SReg) (b : SReg) : Encoding.Statement (.ffma t d a b) := Encoding.one rfl rfl
theorem Encoding.fmin (t : Tok) (d : SReg) (a : SReg) (b : SReg) : Encoding.Statement (.fmin t d a b) := Encoding.one rfl rfl
theorem Encoding.fmax (t : Tok) (d : SReg) (a : SReg) (b : SReg) : Encoding.Statement (.fmax t d a b) := Encoding.one rfl rfl
theorem Encoding.fsqrt (t : Tok) (d : SReg) (a : SReg) : Encoding.Statement (.fsqrt t d a) := Encoding.one rfl rfl
theorem Encoding.fcmpeq (t : Tok) (d : PReg) (a : SReg) (b : SReg) : Encoding.Statement (.fcmpeq t d a b) := Encoding.one rfl rfl
theorem Encoding.fcmplt (t : Tok) (d : PReg) (a : SReg) (b : SReg) : Encoding.Statement (.fcmplt t d a b) := Encoding.one rfl rfl
theorem Encoding.fcmple (t : Tok) (d : PReg) (a : SReg) (b : SReg) : Encoding.Statement (.fcmple t d a b) := Encoding.one rfl rfl
theorem Encoding.fcvtfi (t : Tok) (d : SReg) (a : SReg) (i32 : Bool) (wrap : Bool) (rm : RMode) : Encoding.Statement (.fcvtfi t d a i32 wrap rm) :=
  Encoding.one rfl rfl
theorem Encoding.fcvtif (t : Tok) (d : SReg) (a : SReg) (w32 : Bool) (uns : Bool) (rm : RMode) : Encoding.Statement (.fcvtif t d a w32 uns rm) :=
  Encoding.one rfl rfl
theorem Encoding.gets (t : Tok) (d : SReg) (n : SysNum) : Encoding.Statement (.gets t d n) := Encoding.one rfl rfl
theorem Encoding.sets (t : Tok) (d : SReg) (n : SysNum) : Encoding.Statement (.sets t d n) := Encoding.one rfl rfl
theorem Encoding.ldg (t : Tok) (d : SReg) (a : SReg) (b : SReg) (m : BitVec 3) : Encoding.Statement (.ldg t d a b m) :=
  Encoding.one rfl rfl
theorem Encoding.ldgw (t : Tok) (d : SReg) (a : SReg) (m : BitVec 3) (lit : Word) : Encoding.Statement (.ldgw t d a m lit) :=
  Encoding.two rfl rfl
theorem Encoding.stg (t : Tok) (d : SReg) (a : SReg) (b : SReg) (z : BitVec 2) : Encoding.Statement (.stg t d a b z) :=
  Encoding.one rfl rfl
theorem Encoding.stgw (t : Tok) (d : SReg) (a : SReg) (z : BitVec 2) (lit : Word) : Encoding.Statement (.stgw t d a z lit) :=
  Encoding.two rfl rfl
theorem Encoding.lds (t : Tok) (d : SReg) (a : SReg) (b : SReg) (m : BitVec 3) : Encoding.Statement (.lds t d a b m) :=
  Encoding.one rfl rfl
theorem Encoding.sts (t : Tok) (d : SReg) (a : SReg) (b : SReg) (z : BitVec 2) : Encoding.Statement (.sts t d a b z) :=
  Encoding.one rfl rfl
theorem Encoding.amo (t : Tok) (d : SReg) (a : SReg) (b : SReg) (op : AmoOp) : Encoding.Statement (.amo t d a b op) :=
  Encoding.one rfl rfl
theorem Encoding.amos (t : Tok) (d : SReg) (a : SReg) (b : SReg) (op : AmoOp) : Encoding.Statement (.amos t d a b op) :=
  Encoding.one rfl rfl
theorem Encoding.promote (t : Tok) (a : SReg) (b : SReg) : Encoding.Statement (.promote t a b) := Encoding.one rfl rfl
theorem Encoding.demote (t : Tok) (a : SReg) (b : SReg) : Encoding.Statement (.demote t a b) := Encoding.one rfl rfl
theorem Encoding.rstf (t : Tok) (d : SReg) (a : SReg) (b : SReg) (z : BitVec 2) : Encoding.Statement (.rstf t d a b z) :=
  Encoding.one rfl rfl
theorem Encoding.copyIn (t : Tok) (d : SReg) (a : SReg) (b : SReg) (rel : Bool) (ch : Chan) : Encoding.Statement (.copyIn t d a b rel ch) :=
  Encoding.one rfl rfl
theorem Encoding.copytIn (t : Tok) (d : SReg) (a : SReg) (b : SReg) (rel : Bool) (ch : Chan) : Encoding.Statement (.copytIn t d a b rel ch) :=
  Encoding.one rfl rfl
theorem Encoding.copym (t : Tok) (d : SReg) (a : SReg) (b : SReg) (rel : Bool) (ch : Chan) : Encoding.Statement (.copym t d a b rel ch) :=
  Encoding.one rfl rfl
theorem Encoding.copya (t : Tok) (tile : TileNo) (a : SReg) (b : SReg) (rel : Bool) : Encoding.Statement (.copya t tile a b rel) :=
  Encoding.one rfl rfl
theorem Encoding.gath (t : Tok) (d : SReg) (a : SReg) (b : SReg) (rel : Bool) (ch : Chan) : Encoding.Statement (.gath t d a b rel ch) :=
  Encoding.one rfl rfl
theorem Encoding.pref (t : Tok) (a : SReg) (b : SReg) : Encoding.Statement (.pref t a b) := Encoding.one rfl rfl
theorem Encoding.rloadb (t : Tok) (d : SReg) (a : SReg) (b : SReg) (rel : Bool) (ch : Chan) : Encoding.Statement (.rloadb t d a b rel ch) :=
  Encoding.one rfl rfl
theorem Encoding.stread (t : Tok) (d : SReg) (a : SReg) (b : SReg) (rel : Bool) (ch : Chan) : Encoding.Statement (.stread t d a b rel ch) :=
  Encoding.one rfl rfl
theorem Encoding.netrd (t : Tok) (d : SReg) (a : SReg) (b : SReg) (rel : Bool) (ch : Chan) : Encoding.Statement (.netrd t d a b rel ch) :=
  Encoding.one rfl rfl
theorem Encoding.copyOut (t : Tok) (d : SReg) (a : SReg) (b : SReg) (rel : Bool) (ch : Chan) : Encoding.Statement (.copyOut t d a b rel ch) :=
  Encoding.one rfl rfl
theorem Encoding.copytOut (t : Tok) (d : SReg) (a : SReg) (b : SReg) (rel : Bool) (ch : Chan) : Encoding.Statement (.copytOut t d a b rel ch) :=
  Encoding.one rfl rfl
theorem Encoding.scat (t : Tok) (d : SReg) (a : SReg) (b : SReg) (rel : Bool) (ch : Chan) : Encoding.Statement (.scat t d a b rel ch) :=
  Encoding.one rfl rfl
theorem Encoding.copyf (t : Tok) (d : SReg) (a : SReg) (b : SReg) (ch : Chan) : Encoding.Statement (.copyf t d a b ch) :=
  Encoding.one rfl rfl
theorem Encoding.rred (t : Tok) (d : SReg) (a : SReg) (b : SReg) (rel : Bool) (ch : Chan) : Encoding.Statement (.rred t d a b rel ch) :=
  Encoding.one rfl rfl
theorem Encoding.stwrite (t : Tok) (d : SReg) (a : SReg) (b : SReg) (rel : Bool) (ch : Chan) : Encoding.Statement (.stwrite t d a b rel ch) :=
  Encoding.one rfl rfl
theorem Encoding.netwr (t : Tok) (d : SReg) (a : SReg) (b : SReg) (rel : Bool) (ch : Chan) : Encoding.Statement (.netwr t d a b rel ch) :=
  Encoding.one rfl rfl
theorem Encoding.mma (t : Tok) (ty : MTy) (tile : TileNo) (a : VReg) (b : VReg) (z : Bool) (k : KLen) (g : Gran) (sc : SReg) : Encoding.Statement (.mma t ty tile a b z k g sc) :=
  Encoding.two rfl (by cases ty <;> rfl)
theorem Encoding.mmas (t : Tok) (ty : MTy) (tile : TileNo) (a : SReg) (b : SReg) (z : Bool) (k : KLen) (g : Gran) (sc : SReg) : Encoding.Statement (.mmas t ty tile a b z k g sc) :=
  Encoding.two rfl (by cases ty <;> rfl)
theorem Encoding.mmaq (t : Tok) (ty : MTy) (tile : TileNo) (a : SReg) (b : SReg) (z : Bool) (k : KLen) (g : Gran) (sc : SReg) (seq : BitVec 9) : Encoding.Statement (.mmaq t ty tile a b z k g sc seq) :=
  Encoding.two rfl (by cases ty <;> rfl)
theorem Encoding.mmar (t : Tok) (ty : MTy) (tile : TileNo) (a : SReg) (b : SReg) (z : Bool) (k : KLen) (g : Gran) (sc : SReg) : Encoding.Statement (.mmar t ty tile a b z k g sc) :=
  Encoding.two rfl (by cases ty <;> rfl)
theorem Encoding.mgrp (t : Tok) (ty : MTy) (tile : TileNo) (a : SReg) (b : SReg) (z : Bool) (k : KLen) (g : Gran) (sc : SReg) (gm1 : BitVec 6) (ct : SReg) : Encoding.Statement (.mgrp t ty tile a b z k g sc gm1 ct) :=
  Encoding.two rfl (by cases ty <;> rfl)
theorem Encoding.mncfg (t : Tok) (l : BitVec 3) (a : SReg) (b : SReg) (count : BitVec 16) (acc : BitVec 8) : Encoding.Statement (.mncfg t l a b count acc) :=
  Encoding.two rfl rfl
theorem Encoding.mnest (t : Tok) (n : BitVec 3) : Encoding.Statement (.mnest t n) := Encoding.one rfl rfl
theorem Encoding.mzero (t : Tok) (tile : TileNo) (nm1 : BitVec 5) : Encoding.Statement (.mzero t tile nm1) := Encoding.one rfl rfl
theorem Encoding.mtov (t : Tok) (tile : TileNo) (d : VReg) (b : SReg) : Encoding.Statement (.mtov t tile d b) := Encoding.one rfl rfl
theorem Encoding.mfromv (t : Tok) (tile : TileNo) (a : VReg) (b : SReg) (ad : Bool) : Encoding.Statement (.mfromv t tile a b ad) :=
  Encoding.one rfl rfl
theorem Encoding.mstore (t : Tok) (tile : TileNo) (a : SReg) (b : SReg) : Encoding.Statement (.mstore t tile a b) := Encoding.one rfl rfl
theorem Encoding.mloadacc (t : Tok) (tile : TileNo) (a : SReg) : Encoding.Statement (.mloadacc t tile a) := Encoding.one rfl rfl
theorem Encoding.vadd (t : Tok) (ty : VTy) (d : VReg) (a : VReg) (b : VReg) : Encoding.Statement (.vadd t ty d a b) :=
  Encoding.one rfl rfl
theorem Encoding.vsub (t : Tok) (ty : VTy) (d : VReg) (a : VReg) (b : VReg) : Encoding.Statement (.vsub t ty d a b) :=
  Encoding.one rfl rfl
theorem Encoding.vmul (t : Tok) (ty : VTy) (d : VReg) (a : VReg) (b : VReg) : Encoding.Statement (.vmul t ty d a b) :=
  Encoding.one rfl rfl
theorem Encoding.vfma (t : Tok) (ty : VTy) (d : VReg) (a : VReg) (b : VReg) : Encoding.Statement (.vfma t ty d a b) :=
  Encoding.one rfl rfl
theorem Encoding.vdiv (t : Tok) (ty : VTy) (d : VReg) (a : VReg) (b : VReg) : Encoding.Statement (.vdiv t ty d a b) :=
  Encoding.one rfl rfl
theorem Encoding.vmin (t : Tok) (ty : VTy) (d : VReg) (a : VReg) (b : VReg) : Encoding.Statement (.vmin t ty d a b) :=
  Encoding.one rfl rfl
theorem Encoding.vmax (t : Tok) (ty : VTy) (d : VReg) (a : VReg) (b : VReg) : Encoding.Statement (.vmax t ty d a b) :=
  Encoding.one rfl rfl
theorem Encoding.vminu (t : Tok) (ty : VTy) (d : VReg) (a : VReg) (b : VReg) : Encoding.Statement (.vminu t ty d a b) :=
  Encoding.one rfl rfl
theorem Encoding.vmaxu (t : Tok) (ty : VTy) (d : VReg) (a : VReg) (b : VReg) : Encoding.Statement (.vmaxu t ty d a b) :=
  Encoding.one rfl rfl
theorem Encoding.vabs (t : Tok) (ty : VTy) (d : VReg) (a : VReg) : Encoding.Statement (.vabs t ty d a) := Encoding.one rfl rfl
theorem Encoding.vneg (t : Tok) (ty : VTy) (d : VReg) (a : VReg) : Encoding.Statement (.vneg t ty d a) := Encoding.one rfl rfl
theorem Encoding.vadds (t : Tok) (ty : VTy) (d : VReg) (a : VReg) (b : VReg) : Encoding.Statement (.vadds t ty d a b) :=
  Encoding.one rfl rfl
theorem Encoding.vaddsu (t : Tok) (ty : VTy) (d : VReg) (a : VReg) (b : VReg) : Encoding.Statement (.vaddsu t ty d a b) :=
  Encoding.one rfl rfl
theorem Encoding.vsubs (t : Tok) (ty : VTy) (d : VReg) (a : VReg) (b : VReg) : Encoding.Statement (.vsubs t ty d a b) :=
  Encoding.one rfl rfl
theorem Encoding.vsubsu (t : Tok) (ty : VTy) (d : VReg) (a : VReg) (b : VReg) : Encoding.Statement (.vsubsu t ty d a b) :=
  Encoding.one rfl rfl
theorem Encoding.vmulh (t : Tok) (ty : VTy) (d : VReg) (a : VReg) (b : VReg) : Encoding.Statement (.vmulh t ty d a b) :=
  Encoding.one rfl rfl
theorem Encoding.vmulhu (t : Tok) (ty : VTy) (d : VReg) (a : VReg) (b : VReg) : Encoding.Statement (.vmulhu t ty d a b) :=
  Encoding.one rfl rfl
theorem Encoding.vand (t : Tok) (ty : VTy) (d : VReg) (a : VReg) (b : VReg) : Encoding.Statement (.vand t ty d a b) :=
  Encoding.one rfl rfl
theorem Encoding.vor (t : Tok) (ty : VTy) (d : VReg) (a : VReg) (b : VReg) : Encoding.Statement (.vor t ty d a b) := Encoding.one rfl rfl
theorem Encoding.vxor (t : Tok) (ty : VTy) (d : VReg) (a : VReg) (b : VReg) : Encoding.Statement (.vxor t ty d a b) :=
  Encoding.one rfl rfl
theorem Encoding.vandn (t : Tok) (ty : VTy) (d : VReg) (a : VReg) (b : VReg) : Encoding.Statement (.vandn t ty d a b) :=
  Encoding.one rfl rfl
theorem Encoding.vshl (t : Tok) (ty : VTy) (d : VReg) (a : VReg) (b : VReg) : Encoding.Statement (.vshl t ty d a b) :=
  Encoding.one rfl rfl
theorem Encoding.vshrl (t : Tok) (ty : VTy) (d : VReg) (a : VReg) (b : VReg) : Encoding.Statement (.vshrl t ty d a b) :=
  Encoding.one rfl rfl
theorem Encoding.vshra (t : Tok) (ty : VTy) (d : VReg) (a : VReg) (b : VReg) : Encoding.Statement (.vshra t ty d a b) :=
  Encoding.one rfl rfl
theorem Encoding.vcmpeq (t : Tok) (ty : VTy) (d : MReg) (a : VReg) (b : VReg) : Encoding.Statement (.vcmpeq t ty d a b) :=
  Encoding.one rfl rfl
theorem Encoding.vcmpne (t : Tok) (ty : VTy) (d : MReg) (a : VReg) (b : VReg) : Encoding.Statement (.vcmpne t ty d a b) :=
  Encoding.one rfl rfl
theorem Encoding.vcmplt (t : Tok) (ty : VTy) (d : MReg) (a : VReg) (b : VReg) : Encoding.Statement (.vcmplt t ty d a b) :=
  Encoding.one rfl rfl
theorem Encoding.vcmple (t : Tok) (ty : VTy) (d : MReg) (a : VReg) (b : VReg) : Encoding.Statement (.vcmple t ty d a b) :=
  Encoding.one rfl rfl
theorem Encoding.vcmpltu (t : Tok) (ty : VTy) (d : MReg) (a : VReg) (b : VReg) : Encoding.Statement (.vcmpltu t ty d a b) :=
  Encoding.one rfl rfl
theorem Encoding.vcmpleu (t : Tok) (ty : VTy) (d : MReg) (a : VReg) (b : VReg) : Encoding.Statement (.vcmpleu t ty d a b) :=
  Encoding.one rfl rfl
theorem Encoding.vcmpun (t : Tok) (ty : VTy) (d : MReg) (a : VReg) (b : VReg) : Encoding.Statement (.vcmpun t ty d a b) :=
  Encoding.one rfl rfl
theorem Encoding.vsel (t : Tok) (z : BitVec 2) (d : VReg) (a : VReg) (b : VReg) : Encoding.Statement (.vsel t z d a b) :=
  Encoding.one rfl rfl
theorem Encoding.vmsel (t : Tok) (k : MReg) : Encoding.Statement (.vmsel t k) := Encoding.one rfl rfl
theorem Encoding.vmlog (t : Tok) (op : MLogOp) (d : MReg) (a : MReg) (b : MReg) : Encoding.Statement (.vmlog t op d a b) :=
  Encoding.one rfl rfl
theorem Encoding.vcvt (t : Tok) (ty : VTy) (d : VReg) (a : VReg) (sinv : Bool) (rm : RMode) (dir : Bool) (other : NFmt) : Encoding.Statement (.vcvt t ty d a sinv rm dir other) :=
  Encoding.two rfl rfl
theorem Encoding.vquant (t : Tok) (ty : VTy) (d : VReg) (a : VReg) (b : VReg) (tensor : Bool) (sinv : Bool) (rm : RMode) (other : NFmt) : Encoding.Statement (.vquant t ty d a b tensor sinv rm other) :=
  Encoding.two rfl rfl
theorem Encoding.vdequant (t : Tok) (ty : VTy) (d : VReg) (a : VReg) (b : VReg) (tensor : Bool) (sinv : Bool) (rm : RMode) (other : NFmt) : Encoding.Statement (.vdequant t ty d a b tensor sinv rm other) :=
  Encoding.two rfl rfl
theorem Encoding.vrcp (t : Tok) (ty : VTy) (d : VReg) (a : VReg) : Encoding.Statement (.vrcp t ty d a) := Encoding.one rfl rfl
theorem Encoding.vrsq (t : Tok) (ty : VTy) (d : VReg) (a : VReg) : Encoding.Statement (.vrsq t ty d a) := Encoding.one rfl rfl
theorem Encoding.vexp2 (t : Tok) (ty : VTy) (d : VReg) (a : VReg) : Encoding.Statement (.vexp2 t ty d a) := Encoding.one rfl rfl
theorem Encoding.vlog2 (t : Tok) (ty : VTy) (d : VReg) (a : VReg) : Encoding.Statement (.vlog2 t ty d a) := Encoding.one rfl rfl
theorem Encoding.vtanh (t : Tok) (ty : VTy) (d : VReg) (a : VReg) : Encoding.Statement (.vtanh t ty d a) := Encoding.one rfl rfl
theorem Encoding.vsqrt (t : Tok) (ty : VTy) (d : VReg) (a : VReg) : Encoding.Statement (.vsqrt t ty d a) := Encoding.one rfl rfl
theorem Encoding.vredadd (t : Tok) (ty : VTy) (d : VReg) (a : VReg) : Encoding.Statement (.vredadd t ty d a) := Encoding.one rfl rfl
theorem Encoding.vredmax (t : Tok) (ty : VTy) (d : VReg) (a : VReg) : Encoding.Statement (.vredmax t ty d a) := Encoding.one rfl rfl
theorem Encoding.vredmin (t : Tok) (ty : VTy) (d : VReg) (a : VReg) : Encoding.Statement (.vredmin t ty d a) := Encoding.one rfl rfl
theorem Encoding.vperm (t : Tok) (ty : VTy) (d : VReg) (a : VReg) (b : VReg) : Encoding.Statement (.vperm t ty d a b) :=
  Encoding.one rfl rfl
theorem Encoding.vbcast (t : Tok) (ty : VTy) (d : VReg) (a : SReg) : Encoding.Statement (.vbcast t ty d a) := Encoding.one rfl rfl
theorem Encoding.vins (t : Tok) (ty : VTy) (d : VReg) (a : SReg) (b : SReg) : Encoding.Statement (.vins t ty d a b) :=
  Encoding.one rfl rfl
theorem Encoding.vext (t : Tok) (ty : VTy) (d : VReg) (a : VReg) (b : SReg) : Encoding.Statement (.vext t ty d a b) :=
  Encoding.one rfl rfl
theorem Encoding.vlds (t : Tok) (d : VReg) (a : SReg) (b : SReg) (z : BitVec 2) : Encoding.Statement (.vlds t d a b z) :=
  Encoding.one rfl rfl
theorem Encoding.vsts (t : Tok) (d : VReg) (a : SReg) (b : SReg) (z : BitVec 2) : Encoding.Statement (.vsts t d a b z) :=
  Encoding.one rfl rfl
theorem Encoding.vgath (t : Tok) (d : VReg) (a : SReg) (b : VReg) (w64 : Bool) : Encoding.Statement (.vgath t d a b w64) :=
  Encoding.one rfl rfl
theorem Encoding.vldg (t : Tok) (d : VReg) (a : SReg) (b : SReg) (z : BitVec 2) : Encoding.Statement (.vldg t d a b z) :=
  Encoding.one rfl rfl
theorem Encoding.vstg (t : Tok) (d : VReg) (a : SReg) (b : SReg) (z : BitVec 2) : Encoding.Statement (.vstg t d a b z) :=
  Encoding.one rfl rfl
theorem Encoding.vgathg (t : Tok) (d : VReg) (a : SReg) (b : VReg) (w64 : Bool) : Encoding.Statement (.vgathg t d a b w64) :=
  Encoding.one rfl rfl
theorem Encoding.vatom (t : Tok) (op : VAtomOp) (d : VReg) (a : SReg) (b : VReg) : Encoding.Statement (.vatom t op d a b) :=
  Encoding.one rfl rfl
theorem Encoding.phreg (mode : BitVec 2) (a : SReg) (s : Scope3) : Encoding.Statement (.phreg mode a s) := Encoding.one rfl rfl
theorem Encoding.phdrop (a : SReg) (s : Scope3) : Encoding.Statement (.phdrop a s) := Encoding.one rfl rfl
theorem Encoding.phsig (a : SReg) (s : Scope3) : Encoding.Statement (.phsig a s) := Encoding.one rfl rfl
theorem Encoding.phwait (a : SReg) (s : Scope3) : Encoding.Statement (.phwait a s) := Encoding.one rfl rfl
theorem Encoding.phnext (a : SReg) (s : Scope3) : Encoding.Statement (.phnext a s) := Encoding.one rfl rfl
theorem Encoding.phexpb (a : SReg) (b : SReg) (s : Scope3) : Encoding.Statement (.phexpb a b s) := Encoding.one rfl rfl
theorem Encoding.phq (a : SReg) (b : SReg) (s : Scope3) : Encoding.Statement (.phq a b s) := Encoding.one rfl rfl
theorem Encoding.bind (d : SReg) (a : SReg) (b : SReg) : Encoding.Statement (.bind d a b) := Encoding.one rfl rfl
theorem Encoding.unbind (a : SReg) (all : Bool) : Encoding.Statement (.unbind a all) := Encoding.one rfl rfl
theorem Encoding.fence (fl : BitVec 2) (s : Scope3) : Encoding.Statement (.fence fl s) := Encoding.one rfl rfl
theorem Encoding.waitw (b : SReg) (w : Bool) (ch : Chan) : Encoding.Statement (.waitw b w ch) := Encoding.one rfl rfl
theorem Encoding.waitf (a : SReg) (b : SReg) : Encoding.Statement (.waitf a b) := Encoding.one rfl rfl
theorem Encoding.waitt (b : SReg) : Encoding.Statement (.waitt b) := Encoding.one rfl rfl
theorem Encoding.yleave (n : BitVec 5) : Encoding.Statement (.yleave n) := Encoding.one rfl rfl
theorem Encoding.nsend (a : SReg) (b : SReg) : Encoding.Statement (.nsend a b) := Encoding.one rfl rfl
theorem Encoding.npost (a : SReg) (b : SReg) : Encoding.Statement (.npost a b) := Encoding.one rfl rfl
theorem Encoding.nrmaw (a : SReg) (b : SReg) : Encoding.Statement (.nrmaw a b) := Encoding.one rfl rfl
theorem Encoding.nrmar (a : SReg) (b : SReg) : Encoding.Statement (.nrmar a b) := Encoding.one rfl rfl
theorem Encoding.natom (a : SReg) (b : SReg) (cas : Bool) : Encoding.Statement (.natom a b cas) := Encoding.one rfl rfl
theorem Encoding.narm (a : SReg) (b : SReg) : Encoding.Statement (.narm a b) := Encoding.one rfl rfl
theorem Encoding.ndisarm (d : SReg) (a : SReg) : Encoding.Statement (.ndisarm d a) := Encoding.one rfl rfl
theorem Encoding.pegset (a : SReg) (b : SReg) (f : PegField) : Encoding.Statement (.pegset a b f) := Encoding.one rfl rfl
theorem Encoding.pegadd (d : SReg) (a : SReg) (b : SReg) : Encoding.Statement (.pegadd d a b) := Encoding.one rfl rfl
theorem Encoding.pegrd (d : SReg) (a : SReg) (f : PegField) : Encoding.Statement (.pegrd d a f) := Encoding.one rfl rfl
theorem Encoding.nlaunch (d : SReg) (a : SReg) (b : SReg) : Encoding.Statement (.nlaunch d a b) := Encoding.one rfl rfl
theorem Encoding.ngang (d : SReg) (a : SReg) (b : SReg) : Encoding.Statement (.ngang d a b) := Encoding.one rfl rfl
theorem Encoding.nsave (d : SReg) (a : SReg) (rel : Bool) : Encoding.Statement (.nsave d a rel) := Encoding.one rfl rfl
theorem Encoding.nload (d : SReg) (a : SReg) : Encoding.Statement (.nload d a) := Encoding.one rfl rfl
theorem Encoding.nfreeze : Encoding.Statement .nfreeze := Encoding.one rfl rfl
theorem Encoding.nthaw : Encoding.Statement .nthaw := Encoding.one rfl rfl
theorem Encoding.nmap (a : SReg) (b : SReg) (op : MapOp) : Encoding.Statement (.nmap a b op) := Encoding.one rfl rfl
theorem Encoding.nreg (d : SReg) (a : SReg) (b : SReg) (k : RegKind) : Encoding.Statement (.nreg d a b k) := Encoding.one rfl rfl
theorem Encoding.nrevoke (a : SReg) (b : SReg) (k : RegKind) : Encoding.Statement (.nrevoke a b k) := Encoding.one rfl rfl
theorem Encoding.ncoll (a : SReg) (unload : Bool) : Encoding.Statement (.ncoll a unload) := Encoding.one rfl rfl
theorem Encoding.nrearm (a : SReg) (b : SReg) : Encoding.Statement (.nrearm a b) := Encoding.one rfl rfl
theorem Encoding.nhash (a : SReg) (b : SReg) : Encoding.Statement (.nhash a b) := Encoding.one rfl rfl
theorem Encoding.nsign (d : SReg) (a : SReg) (b : SReg) : Encoding.Statement (.nsign d a b) := Encoding.one rfl rfl
theorem Encoding.nrand (d : SReg) : Encoding.Statement (.nrand d) := Encoding.one rfl rfl
theorem Encoding.nop : Encoding.Statement .nop := Encoding.one rfl rfl
theorem Encoding.prep (r : BReg) (lit : Word) : Encoding.Statement (.prep r lit) := Encoding.two rfl rfl
theorem Encoding.br (r : BReg) : Encoding.Statement (.br r) := Encoding.one rfl rfl
theorem Encoding.brT (r : BReg) (p : PReg) : Encoding.Statement (.brT r p) := Encoding.one rfl rfl
theorem Encoding.brF (r : BReg) (p : PReg) : Encoding.Statement (.brF r p) := Encoding.one rfl rfl
theorem Encoding.brDnz (r : BReg) (s : SReg) : Encoding.Statement (.brDnz r s) := Encoding.one rfl rfl
theorem Encoding.brl (r : BReg) : Encoding.Statement (.brl r) := Encoding.one rfl rfl
theorem Encoding.brlT (r : BReg) (p : PReg) : Encoding.Statement (.brlT r p) := Encoding.one rfl rfl
theorem Encoding.brlF (r : BReg) (p : PReg) : Encoding.Statement (.brlF r p) := Encoding.one rfl rfl
theorem Encoding.brlDnz (r : BReg) (s : SReg) : Encoding.Statement (.brlDnz r s) := Encoding.one rfl rfl
theorem Encoding.checkS (r : BReg) (s : SReg) : Encoding.Statement (.checkS r s) := Encoding.one rfl rfl
theorem Encoding.checkP (r : BReg) (p : PReg) : Encoding.Statement (.checkP r p) := Encoding.one rfl rfl
theorem Encoding.checkV (r : BReg) (v : VReg) : Encoding.Statement (.checkV r v) := Encoding.one rfl rfl
theorem Encoding.checkM (r : BReg) (m : MReg) : Encoding.Statement (.checkM r m) := Encoding.one rfl rfl
theorem Encoding.endTask : Encoding.Statement .endTask := Encoding.one rfl rfl
theorem Encoding.yield : Encoding.Statement .yield := Encoding.one rfl rfl
theorem Encoding.trap (n : BitVec 4) : Encoding.Statement (.trap n) := Encoding.one rfl rfl
theorem Encoding.align : Encoding.Statement .align := Encoding.one rfl rfl
theorem Encoding.eret : Encoding.Statement .eret := Encoding.one rfl rfl
theorem Encoding.streamDeadlock (c : Nat) : Encoding.Statement (.streamDeadlock c) := Encoding.event rfl
theorem Encoding.trapDeliver (c : Nat) : Encoding.Statement (.trapDeliver c) := Encoding.event rfl
theorem Encoding.registerWrite (c : Nat) (n : SysNum) (v : Dword) : Encoding.Statement (.registerWrite c n v) := Encoding.event rfl
theorem Encoding.fsplitWrite (die : BitVec 2) (v : Dword) : Encoding.Statement (.fsplitWrite die v) := Encoding.event rfl
theorem Encoding.fsplitAdopt (die : BitVec 2) : Encoding.Statement (.fsplitAdopt die) := Encoding.event rfl
theorem Encoding.autoPromotion (bank : Nat) (row : Nat) : Encoding.Statement (.autoPromotion bank row) := Encoding.event rfl
theorem Encoding.promoteEpoch (die : BitVec 2) : Encoding.Statement (.promoteEpoch die) := Encoding.event rfl
theorem Encoding.eccError (sector : Nat) (consumer : Option Nat) : Encoding.Statement (.eccError sector consumer) := Encoding.event rfl
theorem Encoding.ctxSkip (c : Nat) : Encoding.Statement (.ctxSkip c) := Encoding.event rfl
theorem Encoding.ctxAbandon (c : Nat) : Encoding.Statement (.ctxAbandon c) := Encoding.event rfl
theorem Encoding.ctxHold (c : Nat) (on : Bool) : Encoding.Statement (.ctxHold c on) := Encoding.event rfl
theorem Encoding.errqPop (c : Nat) : Encoding.Statement (.errqPop c) := Encoding.event rfl
theorem Encoding.transferComplete (x : XferRef) : Encoding.Statement (.transferComplete x) := Encoding.event rfl
theorem Encoding.transferFault (x : XferRef) : Encoding.Statement (.transferFault x) := Encoding.event rfl
theorem Encoding.leaveGrant (die : BitVec 2) : Encoding.Statement (.leaveGrant die) := Encoding.event rfl
theorem Encoding.governorSample (die : BitVec 2) (base : Nat) : Encoding.Statement (.governorSample die base) := Encoding.event rfl
theorem Encoding.thermalSample (die : BitVec 2) (temp : Nat) : Encoding.Statement (.thermalSample die temp) := Encoding.event rfl
theorem Encoding.thermalCapStep (die : BitVec 2) : Encoding.Statement (.thermalCapStep die) := Encoding.event rfl
theorem Encoding.quartetJoin (q : Nat) : Encoding.Statement (.quartetJoin q) := Encoding.event rfl
theorem Encoding.quartetTimeout (core : Nat) : Encoding.Statement (.quartetTimeout core) := Encoding.event rfl
theorem Encoding.messageArrival (m : Message) : Encoding.Statement (.messageArrival m) := Encoding.event rfl
theorem Encoding.pegCopyComplete (id : Nat) : Encoding.Statement (.pegCopyComplete id) := Encoding.event rfl
theorem Encoding.launchTrack : Encoding.Statement .launchTrack := Encoding.event rfl
theorem Encoding.schedulerAdmit (n : Nat) : Encoding.Statement (.schedulerAdmit n) := Encoding.event rfl
theorem Encoding.placement (n : Nat) : Encoding.Statement (.placement n) := Encoding.event rfl
theorem Encoding.contextStart (n : Nat) : Encoding.Statement (.contextStart n) := Encoding.event rfl
theorem Encoding.taskRetire (c : Nat) : Encoding.Statement (.taskRetire c) := Encoding.event rfl
theorem Encoding.parkedReturn (c : Nat) : Encoding.Statement (.parkedReturn c) := Encoding.event rfl
theorem Encoding.checkpointReturn (n : Nat) : Encoding.Statement (.checkpointReturn n) := Encoding.event rfl
theorem Encoding.eventDispatch : Encoding.Statement .eventDispatch := Encoding.event rfl
theorem Encoding.threadWatchdog (n : Nat) : Encoding.Statement (.threadWatchdog n) := Encoding.event rfl
theorem Encoding.remoteRequest (r : RemoteReq) : Encoding.Statement (.remoteRequest r) := Encoding.event rfl
theorem Encoding.remoteReply (id : Nat) (r : Reply) : Encoding.Statement (.remoteReply id r) := Encoding.event rfl
theorem Encoding.switchMute (id : Nat) : Encoding.Statement (.switchMute id) := Encoding.event rfl
theorem Encoding.hariusBackstop (id : Nat) : Encoding.Statement (.hariusBackstop id) := Encoding.event rfl
theorem Encoding.linkDown (peer : BitVec 10) : Encoding.Statement (.linkDown peer) := Encoding.event rfl
theorem Encoding.linkTrained (link : Nat) (phy : LinkPhy) (far : Dword) (pkg : BitVec 10) :
    Encoding.Statement (.linkTrained link phy far pkg) :=
  Encoding.event rfl
theorem Encoding.leaseExpire (line : Nat) : Encoding.Statement (.leaseExpire line) := Encoding.event rfl
theorem Encoding.rredRetry (id : Nat) : Encoding.Statement (.rredRetry id) := Encoding.event rfl
theorem Encoding.collectiveChunk (k : Chunk) : Encoding.Statement (.collectiveChunk k) := Encoding.event rfl
theorem Encoding.chunkRetry (id : Nat) : Encoding.Statement (.chunkRetry id) := Encoding.event rfl
theorem Encoding.baseDieStep (stack : Nat) : Encoding.Statement (.baseDieStep stack) := Encoding.event rfl
theorem Encoding.collProbe (g : Nat) (node : Nat) : Encoding.Statement (.collProbe g node) := Encoding.event rfl
theorem Encoding.gangMemberLaunch (src : BitVec 10) (gang : Nat) (rec : BitVec 128) (asid : BitVec 12) : Encoding.Statement (.gangMemberLaunch src gang rec asid) :=
  Encoding.event rfl
theorem Encoding.gangAck (gang : Nat) (pkg : BitVec 10) : Encoding.Statement (.gangAck gang pkg) := Encoding.event rfl
theorem Encoding.gangWindowExpire (gang : Nat) : Encoding.Statement (.gangWindowExpire gang) := Encoding.event rfl
theorem Encoding.rmaRequest (r : RmaReq) : Encoding.Statement (.rmaRequest r) := Encoding.event rfl
theorem Encoding.rmaComplete (id : Nat) (r : RmaEnd) : Encoding.Statement (.rmaComplete id r) := Encoding.event rfl
theorem Encoding.messageAck (id : Nat) : Encoding.Statement (.messageAck id) := Encoding.event rfl
theorem Encoding.packetNak (tc : Nat) (psn : Nat) (why : NakKind) : Encoding.Statement (.packetNak tc psn why) := Encoding.event rfl
theorem Encoding.retransmitTimeout (tc : Nat) (psn : Nat) : Encoding.Statement (.retransmitTimeout tc psn) := Encoding.event rfl
theorem Encoding.contextFetch (tc : Nat) : Encoding.Statement (.contextFetch tc) := Encoding.event rfl
theorem Encoding.revokeComplete (id : Nat) : Encoding.Statement (.revokeComplete id) := Encoding.event rfl
theorem Encoding.pfcPause (port : Nat) (prio : Nat) (on : Bool) : Encoding.Statement (.pfcPause port prio on) := Encoding.event rfl
theorem Encoding.ptpSync (t : PtpTime) : Encoding.Statement (.ptpSync t) := Encoding.event rfl
theorem Encoding.nvmeCompletion (id : Nat) (ok : Bool) (data : List Byte) : Encoding.Statement (.nvmeCompletion id ok data) :=
  Encoding.event rfl
theorem Encoding.phaserEvent (e : PhaserMsg) : Encoding.Statement (.phaserEvent e) := Encoding.event rfl
theorem Encoding.asidFree (asid : BitVec 12) : Encoding.Statement (.asidFree asid) := Encoding.event rfl
theorem Encoding.packageReset : Encoding.Statement .packageReset := Encoding.event rfl
theorem Encoding.doorbell (len : Dword) : Encoding.Statement (.doorbell len) := Encoding.event rfl
theorem Encoding.reload (v : Dword) : Encoding.Statement (.reload v) := Encoding.event rfl
theorem Encoding.stage (off : Nat) (data : List Byte) (last : Option Dword) : Encoding.Statement (.stage off data last) :=
  Encoding.event rfl
theorem Encoding.readStatus : Encoding.Statement .readStatus := Encoding.event rfl
theorem Encoding.setCap (w : Word) : Encoding.Statement (.setCap w) := Encoding.event rfl
theorem Encoding.readCounters (lo : Nat) (n : Nat) : Encoding.Statement (.readCounters lo n) := Encoding.event rfl
theorem Encoding.clearCounters (lo : Nat) (n : Nat) : Encoding.Statement (.clearCounters lo n) := Encoding.event rfl
theorem Encoding.readLog (start : Nat) (n : Nat) : Encoding.Statement (.readLog start n) := Encoding.event rfl
theorem Encoding.mgmtUnknownCommand (cmd : Nat) : Encoding.Statement (.mgmtUnknownCommand cmd) := Encoding.event rfl
theorem Encoding.getVersion : Encoding.Statement .getVersion := Encoding.event rfl
theorem Encoding.getCapabilities : Encoding.Statement .getCapabilities := Encoding.event rfl
theorem Encoding.negotiateAlgorithms : Encoding.Statement .negotiateAlgorithms := Encoding.event rfl
theorem Encoding.getDigests : Encoding.Statement .getDigests := Encoding.event rfl
theorem Encoding.getCertificate (slot : Nat) (off : Nat) (len : Nat) : Encoding.Statement (.getCertificate slot off len) :=
  Encoding.event rfl
theorem Encoding.challenge (slot : Nat) (nonce : BitVec 256) : Encoding.Statement (.challenge slot nonce) := Encoding.event rfl
theorem Encoding.getMeasurements (idx : Nat) (nonce : BitVec 256) : Encoding.Statement (.getMeasurements idx nonce) := Encoding.event rfl
theorem Encoding.spdmUnsupportedRequest (code : Nat) : Encoding.Statement (.spdmUnsupportedRequest code) := Encoding.event rfl
theorem Encoding.hostMessage (m : BitVec 512) : Encoding.Statement (.hostMessage m) := Encoding.event rfl
theorem Encoding.hostRecordSend : Encoding.Statement .hostRecordSend := Encoding.event rfl
theorem Encoding.keyLoad : Encoding.Statement .keyLoad := Encoding.event rfl
theorem Encoding.meas7Extend : Encoding.Statement .meas7Extend := Encoding.event rfl
theorem Encoding.peerTableWrite (peer : BitVec 10) (v : Dword) : Encoding.Statement (.peerTableWrite peer v) := Encoding.event rfl
theorem Encoding.portTableWrite (port : Nat) : Encoding.Statement (.portTableWrite port) := Encoding.event rfl
theorem Encoding.errorCounterClear (n : Nat) (v : Dword) : Encoding.Statement (.errorCounterClear n v) := Encoding.event rfl
theorem Encoding.timeNsReached (ns : Dword) : Encoding.Statement (.timeNsReached ns) := Encoding.event rfl
theorem Encoding.signatureComplete : Encoding.Statement .signatureComplete := Encoding.event rfl
theorem Encoding.healthTestFailure (failing : Bool) : Encoding.Statement (.healthTestFailure failing) := Encoding.event rfl
theorem Encoding.driveFailure (drive : Nat) : Encoding.Statement (.driveFailure drive) := Encoding.event rfl
theorem Encoding.connectionEstablished (conn : Nat) : Encoding.Statement (.connectionEstablished conn) := Encoding.event rfl
theorem Encoding.connectionFailure (conn : Nat) : Encoding.Statement (.connectionFailure conn) := Encoding.event rfl
theorem Encoding.portUp (port : Nat) : Encoding.Statement (.portUp port) := Encoding.event rfl
theorem Encoding.stagingWrite (off : Nat) (data : List Byte) : Encoding.Statement (.stagingWrite off data) := Encoding.event rfl

end Sys2Proof.Laws
end

