-- ==== Sys2Proof/Laws/Words.lean ====
section
/-!
SUPPORT. What the shared ways of running a word answer: completing, waiting, trapping, on a stream and on a Harius thread.
-/

namespace Sys2Proof.Machine

/-- Where no push is at its ceiling, every push passes (R102). -/
theorem checkPush_of_none {c : Ctx} {e : StreamId} {t : Tok} (h : (c.checkPush e t).2 = none) : c.checkPush e t = (t, none) := by
  unfold Ctx.checkPush at *
  rcases t with ⟨wf, pf, wb, pb⟩
  cases pf <;> cases pb <;> simp_all
  all_goals split at h <;> simp_all

/-- A word of which nothing stands issued has all its pops to make and its pushes to check. -/
theorem issued_none {c : Ctx} {e : StreamId} {t : Tok} (h3 : (c.checkPush e t).2 = none) (h4 : c.issued.all (·.e != e) = true) :
    c.popsLeft e t = t ∧ c.pushesOf e t = (t, none) := by
  have a : c.issued.any (·.e == e) = false := by
    rw [List.any_eq_false]
    intro x hx
    simpa using List.all_eq_true.mp h4 x hx
  have b : (c.issued.find? fun r => r.e == e && r.runs) = none := by
    rw [List.find?_eq_none]
    intro x hx
    have := List.all_eq_true.mp h4 x hx
    simp_all
  exact ⟨by simp [Ctx.popsLeft, a], by simp [Ctx.pushesOf, b, checkPush_of_none h3]⟩

/-- A word that issues and is done. -/
theorem ctxWord_done {e t n body s u} (h : State.issues s e t) (hb : body t s = .done false u) :
    ctxWord e t n body s = .next (u.passed e t n) := by
  obtain ⟨h1, h2, h3, h4⟩ := h
  obtain ⟨h5, h6⟩ := issued_none h3 h4
  simp only [ctxWord, h1, h2, h5, h6, hb, if_true]
  rfl

/-- A word that issues and leaves its pushes for later (R101). -/
theorem ctxWord_deferred {e t n body s u} (h : State.issues s e t) (hb : body t s = .done true u) :
    ctxWord e t n body s = .next (u.issued e t n) := by
  obtain ⟨h1, h2, h3, h4⟩ := h
  obtain ⟨h5, h6⟩ := issued_none h3 h4
  simp only [ctxWord, h1, h2, h5, h6, hb, if_true]
  rfl

/-- A context without an issued word of a stream has none to halt. -/
theorem halted_none {c : Ctx} {e : StreamId} (h : c.issued.all (·.e != e) = true) : c.halted e = c := by
  have : (c.issued.map fun r => if r.e = e then { r with runs := false } else r) = c.issued := by
    conv => rhs; rw [← List.map_id c.issued]
    apply List.map_congr_left
    intro x hx
    have := List.all_eq_true.mp h x hx
    simp_all
  simp [Ctx.halted, this]

/-- A word that issues and traps applies neither pops nor pushes (R107). -/
theorem ctxWord_trap {e t n body s u tr} (h : State.issues s e t) (hb : body t s = .trap tr u) (hu : u.ctx.issued = s.ctx.issued) :
    ctxWord e t n body s = .next (u.takeTrap n tr) := by
  obtain ⟨h1, h2, h3, h4⟩ := h
  obtain ⟨h5, h6⟩ := issued_none h3 h4
  simp only [ctxWord, h1, h2, h5, h6, hb, if_true]
  rw [halted_none (by rw [hu]; exact h4)]

/-- A word that issues and waits. -/
theorem ctxWord_wait {e t n body s u code} (h : State.issues s e t) (hb : body t s = .wait code u) :
    ctxWord e t n body s = .next { u with ctx := u.ctx.stalled e code } := by
  obtain ⟨h1, h2, h3, h4⟩ := h
  obtain ⟨h5, h6⟩ := issued_none h3 h4
  simp only [ctxWord, h1, h2, h5, h6, hb, if_true]

/-- A word of S or of a thread that is done. -/
theorem anyWord_done {t n body s u} (h : State.starts s t) (hb : body t s = .done false u) (ha : u.agent = s.agent) :
    anyWord .S t n body s = .next (u.after t n) := by
  rcases h with h | h
  · simp [anyWord, h, threadWord, hb, State.after, ha]
  · simp [anyWord, h.1, ctxWord_done h hb, State.after, ha]

/-- A word of S or of a thread that traps. -/
theorem anyWord_trap {t n body s u tr} (h : State.starts s t) (hb : body t s = .trap tr u) (hu : u.ctx.issued = s.ctx.issued) :
    anyWord .S t n body s = .next (u.takeTrap n tr) := by
  rcases h with h | h
  · simp [anyWord, h, threadWord, hb]
  · simp [anyWord, h.1, ctxWord_trap h hb hu]

/-- A thread's word that is done. -/
theorem threadWord_done {n body s u d} (h : s.agent = .thread) (hb : body s = .done d u) :
    threadWord n body s = .next { u with thr := u.thr.advance n } := by
  simp [threadWord, h, hb]

/-- A thread's word that traps. -/
theorem threadWord_trap {n body s u tr} (h : s.agent = .thread) (hb : body s = .trap tr u) :
    threadWord n body s = .next (u.takeTrap n tr) := by
  simp [threadWord, h, hb]

@[simp] theorem writeS_agent (s : State) (d : SReg) (v : SVal) : (s.writeS d v).agent = s.agent := by
  unfold State.writeS; split <;> rfl
@[simp] theorem writeS_mem (s : State) (d : SReg) (v : SVal) : (s.writeS d v).mem = s.mem := by
  unfold State.writeS; split <;> rfl
@[simp] theorem raiseFlags_agent (s : State) (f : Flags) : (s.raiseFlags f).agent = s.agent := by
  unfold State.raiseFlags; split <;> rfl
@[simp] theorem writeP_agent (s : State) (d : PReg) (v : PVal) : (s.writeP d v).agent = s.agent := by
  unfold State.writeP; split <;> rfl
@[simp] theorem raiseFlags_none (s : State) : s.raiseFlags 0#8 = s := by
  unfold State.raiseFlags; split <;> simp
@[simp] theorem flagsUnless_none (p : Bool) : flagsUnless p 0#8 = 0#8 := by simp [flagsUnless]
@[simp] theorem sWaits_nil (s : State) : s.sWaits [] = false := by unfold State.sWaits; split <;> simp

/-- A destination that is ready is written at once. -/
theorem writable_of {s : State} {d k} (h : s.dstReady d) : s.writable d k = k () := by
  unfold State.writable
  unfold State.dstReady at h
  split <;> simp_all

/-- No gate holds the word. -/
theorem ungated_of {s : State} {k} (h : s.notGated) : s.ungated k = k () := by
  unfold State.ungated
  unfold State.notGated at h
  split <;> simp_all

/-- A clean source goes on with its value. -/
theorem clean_of {s : State} {r site k v} (h : s.readS r = .ok ⟨v, false⟩) : s.clean r site k = k v := by
  simp [State.clean, State.withS, h]

/-- A source that can be read goes on with its value. -/
theorem withS_of {s : State} {r k v} (h : s.readS r = .ok v) : s.withS r k = k v := by
  simp [State.withS, h]

/-- A word that reads registers and writes a scalar register. -/
theorem sToS_done {t n srcs d f s} (h : State.starts s t) (hs : s.sWaits srcs = false) (hd : s.dstReady d) :
    sToS t n srcs d f s = .next (((s.writeS d (f s.sf).1).raiseFlags (flagsUnless (f s.sf).1.p (f s.sf).2)).after t n) := by
  unfold sToS
  apply anyWord_done h
  · simp only [hs, writable_of hd]; rfl
  · simp

/-- A word that reads registers and writes a predicate. -/
theorem sToP_done {t srcs d f s} (h : State.starts s t) (hs : s.sWaits srcs = false) :
    sToP t srcs d f s = .next (((s.writeP d (f s.sf).1).raiseFlags (flagsUnless (f s.sf).1.p (f s.sf).2)).after t 1) := by
  unfold sToP
  apply anyWord_done h
  · simp only [hs]; rfl
  · simp

/-! Words of several clean operands -/

/-- Clean values are no fret. -/
theorem zip_find (rs : List SReg) (vs : List Dword) : ((rs.zip (vs.map fun v => (⟨v, false⟩ : SVal))).find? fun x => x.2.p) = none := by
  simp only [List.find?_eq_none, List.zip_map_right]
  intro x hx
  simp at hx
  obtain ⟨y, z, _, rfl⟩ := hx
  simp

/-- Operands that can be read now and are clean go on with their values. -/
theorem cleanAll_of {s : State} {rs vs k} (h : s.reads rs vs) : s.cleanAll rs k = k vs := by
  unfold State.cleanAll
  rw [show s.readAll rs = .ok (vs.map fun v => ⟨v, false⟩) from h]
  simp only [zip_find]
  simp [Function.comp_def]

/-- The first of two lists' traps. -/
theorem firstTrap_app (a b) : firstTrap (a ++ b) = (firstTrap a).or (firstTrap b) := by
  simp [firstTrap, List.findSome?_append]

/-- The flag of a release that names one is where its address translates (R249). -/
theorem flagPhys_of {s u : State} {x : Xfer} {r : Dword} {q : Phys} (h : x.rel = some r) (hf : relFlag r = true)
    (hq : s.xferPhys (relAddr r) (if x.kind = .copyf then .atomic else .store) (x.kind == .copyf) = (u, .ok q)) :
    s.flagPhys x = (u, .ok (some q)) := by
  have e : x.rel.filter relFlag = some r := by rw [h]; exact Option.filter_some_pos hf
  unfold State.flagPhys
  rw [e]
  simp only [hq]

/-- A transfer word whose checks find nothing and whose release resolves starts its transfer (R249, R250). -/
theorem issue_of {s u : State} {e push p y} (hc : s.planClear p) (_hk : p.xfer.kind = .copyf → p.xfer.rel.isSome = true)
    (hr : s.resolves e p.xfer u y) (ht : y.tiles.any u.ctx.mHolds = false) :
    s.issue e push false p = u.start e push y := by
  obtain ⟨h1, h2, h3, h4⟩ := hc
  have e1 : p.xfer.rel.any relBad = false := by
    cases h : p.xfer.rel with
    | none => rfl
    | some r => simp [(h4 r h).1]
  have e2 : (p.xfer.kind == .copyf && !p.xfer.rel.all relFlag) = false := by
    cases h : p.xfer.rel with
    | none => simp
    | some r =>
      have := (h4 r h).2.1
      by_cases hk : p.xfer.kind = .copyf <;> simp_all
  rw [firstTrap_app, firstTrap_app] at h3
  simp [Option.or_eq_none_iff] at h3
  have e3 : firstTrap [if p.xfer.kind = .copyf then none else s.flagAccess p.xfer.rel] = none := by
    cases h : p.xfer.rel with
    | none => simp [firstTrap, State.flagAccess]
    | some r =>
      have := (h4 r h).2.1
      by_cases hk : p.xfer.kind = .copyf <;> simp_all [firstTrap]
  have e4 : firstTrap [flagAlign (if p.xfer.kind = .copyf then .atomic else .store) p.xfer.rel] = none := by
    cases h : p.xfer.rel with
    | none => simp [firstTrap, flagAlign]
    | some r => simp [firstTrap, (h4 r h).2.2]
  have e5 : y.tiles.find? u.ctx.mHolds = none := by
    rw [List.any_eq_false] at ht
    exact List.find?_eq_none.mpr ht
  have e6 : s.withRelease e p.xfer (fun s x =>
        match x.tiles.find? s.ctx.mHolds with
        | some t => .trap (Trap.withDetail 0x40 t) s
        | none => s.start e push x) = u.start e push y := by
    unfold State.withRelease
    unfold State.resolves at hr
    cases h : p.xfer.rel with
    | none => simp [h] at hr; obtain ⟨rfl, rfl⟩ := hr; simp [e5]
    | some r =>
      simp only [h] at hr
      simp only
      split at hr
      · rename_i hf
        obtain ⟨hy, q, hq⟩ := hr
        subst hy
        simp [hf, flagPhys_of h hf hq, e5]
      · rename_i hf
        obtain ⟨q, hq, hu, hy⟩ := hr
        simp only [hf, hq]
        subst hu; rw [← hy]; simp [e5]
  unfold State.issue
  simp only [h1, h2, e1, e2, Bool.or_false]
  have e7 : firstTrap (p.access ++ [if p.xfer.kind = XferKind.copyf then none else s.flagAccess p.xfer.rel] ++ p.align ++
        [flagAlign (if p.xfer.kind = XferKind.copyf then AKind.atomic else AKind.store) p.xfer.rel] ++ p.bound) = none := by
    simp only [firstTrap_app, h3, e3, e4, Option.or_none]
  simp only [e7]
  exact e6

/-- Starting a transfer: its channel's next ID, its due pushes, and its leave's end (R245, R251, R101). -/
theorem start_of {u : State} {e push y id c} (hl : u.leaveFor e y) (hn : u.ctx.nextId y.ref.w y.ref.ch = some (id, c)) :
    u.start e push y = .done true (let s : State := { u with ctx := { c.leaveTaken e with xfers := c.xfers ++ [
        { y with ref := { y.ref with id := id }, pfDue := push.pf, pbDue := push.pb, leave := c.leaveHeld e, owed := if y.sideScr then [] else u.mem.l1Dirty u.ctx.core }] } }
      if y.kind = .rred then { s with mem := s.mem.rredOut s.pkg s.ctx.asid true } else s) := by
  unfold State.start
  unfold State.leaveFor at hl
  dsimp only
  rw [if_neg (by simp [hn])]
  by_cases hk : y.kind ≠ .copya ∧ 1048576 < (if y.kind = .copym then y.bytes * (y.targets u.ctx.core).length else y.bytes)
  · rw [if_pos hk]
    rcases hl with hl | hl | ⟨r, hr, hg⟩
    · exact absurd hl hk.1
    · omega
    · simp [State.leaveAsk, hr, hg, hn]
  · rw [if_neg hk]
    simp [hn]

/-! N words -/

/-- An N word of clean operands that is done. -/
theorem nWord_done {i srcs body s vs d u} (h : s.operands srcs vs) (hb : body s vs = .done d u) : nWord i srcs body s = .next u.afterN := by
  obtain ⟨h1, h2⟩ := h
  simp [nWord, h1, threadWord, cleanAll_of h2, hb, State.afterN]

/-- An N word of clean operands that traps. -/
theorem nWord_trap {i srcs body s vs tr u} (h : s.operands srcs vs) (hb : body s vs = .trap tr u) :
    nWord i srcs body s = .next (u.takeTrap 1 tr) := by
  obtain ⟨h1, h2⟩ := h
  simp [nWord, h1, threadWord, cleanAll_of h2, hb]

/-- A range of a record that lies where it may. -/
theorem nBytes_of {s : State} {a n align kind k p} (h : s.place a n align p) :
    s.nBytes a n align kind k = k (s.touched p n) p (s.physRead p n) := by
  obtain ⟨h1, h2⟩ := h
  simp [State.nBytes, h1, h2, State.touched]

/-- A clean record. -/
theorem nRecord_of {s : State} {a n align k p x} (h : s.record a n align p x) : s.nRecord a n align k = k (s.touched p n) p x := by
  obtain ⟨h1, h2, h3⟩ := h
  simp [State.nRecord, nBytes_of h1, h2, h3]

/-- A value below its bound fits. -/
theorem fits_of {v : Dword} {n} (h : v.toNat < 2 ^ n) : fits v n = true := by unfold fits; exact decide_eq_true h

end Sys2Proof.Machine
end

