-- ==== Sys2Proof/Laws/Steps.lean ====
section
/-!
SUPPORT. What the shared ways of running a word answer whatever its body does: a next state, and memory in its form where the body
keeps it.
-/

namespace Sys2Proof.Machine

/-! A next state -/

/-- A word of the stream that has the turn answers a next state. -/
theorem ctxWord_goes {e t n body s} (h : s.agent = .stream e) : ∃ u : State, ctxWord e t n body s = .next u := by
  unfold ctxWord
  rw [if_pos h]
  dsimp only
  split
  · cases body (s.ctx.pushesOf e (s.ctx.popsLeft e t)).1 s <;> exact ⟨_, rfl⟩
  · exact ⟨_, rfl⟩

/-- A thread's word answers a next state. -/
theorem threadWord_goes {n body s} (h : s.agent = .thread) : ∃ u : State, threadWord n body s = .next u := by
  unfold threadWord
  rw [h]
  dsimp only
  split <;> exact ⟨_, rfl⟩

/-- A word of a stream or of a thread answers a next state. -/
theorem anyWord_goes {e t n body s} (h : s.agent = .thread ∨ s.agent = .stream e) : ∃ u : State, anyWord e t n body s = .next u := by
  unfold anyWord
  rcases h with h | h <;> rw [h]
  · exact threadWord_goes h
  · exact ctxWord_goes h

/-! Memory keeps its form -/

/-- Where a word's body leaves memory. -/
def Res.state : Res → State
  | .done _ s | .wait _ s | .hold _ _ s | .trap _ s => s

theorem kept_pushErr (s : State) (inst : Nat) (entry : Dword) (phovr : Bool) : s.mem.Kept (s.pushErr inst entry phovr).mem := by
  have onCtx_mem : ∀ (s : State) i f, (s.onCtx i f).mem = s.mem := by
    intro s i f; unfold State.onCtx; repeat' split
    all_goals rfl
  unfold State.pushErr
  split
  · exact .refl _
  · dsimp only
    have h1 : ∀ b : Bool, ((if b = true then s.onCtx inst fun c => { c with regs := { c.regs with phovr := true } } else s).mem) = s.mem := by
      intro b; split
      · exact onCtx_mem ..
      · rfl
    split
    · rw [onCtx_mem, h1]; exact .refl _
    · rw [show ∀ (t : State) (m : Memory), ({ t with mem := m } : State).mem = m from fun _ _ => rfl]
      rw [onCtx_mem, h1]
      exact kept_errorLog ..

theorem kept_phaserErr (s : State) (thread : Bool) (inst : Nat) (asid : Asid) (cause : Nat) (n : PhaserName) :
    s.mem.Kept (s.phaserErr thread inst asid cause n).mem := by
  unfold State.phaserErr
  split
  · exact kept_errorLog ..
  · exact kept_pushErr ..

/-- Sending a phaser word leaves memory as it is. -/
@[simp] theorem sendPhaser_mem (s : State) (who : Nat) (thread : Bool) (asid : Asid) (n : PhaserName) (g : Party) (ev : PhaserEv) :
    (s.sendPhaser who thread asid n g ev).mem = s.mem := by
  unfold State.sendPhaser
  dsimp only
  split <;> rfl

theorem kept_dropReg (s : State) (thread : Bool) (id : Nat) (asid : Asid) (r : Registration) : s.mem.Kept (s.dropReg thread id asid r).mem := by
  unfold State.dropReg
  dsimp only
  split
  · exact .refl _
  · split
    · exact kept_phaserErr ..
    · rw [sendPhaser_mem]; exact .refl _

/-- A fold over states whose steps keep the form. -/
theorem kept_foldl {α : Type} (f : State → α → State) (hf : ∀ (s : State) x, s.mem.Kept (f s x).mem) (l : List α) (s : State) :
    s.mem.Kept (l.foldl f s).mem := by
  induction l generalizing s with
  | nil => exact .refl _
  | cons x l ih => exact (hf s x).trans (ih _)

theorem kept_endThread (s : State) (why : Option Trap) : s.mem.Kept (s.endThread why).mem := by
  unfold State.endThread
  dsimp only
  have h : s.mem.Kept (s.thr.phasers.foldl (fun s r => s.dropReg true s.thr.num s.thr.asid r) (s.detachPhaser (s.thr.num + 1) true)).mem :=
    kept_foldl _ (fun t r => kept_dropReg ..) _ (s.detachPhaser (s.thr.num + 1) true)
  have h' : s.mem.Kept (s.thr.phasers.foldl (fun u r => u.dropReg true s.thr.num s.thr.asid r) (s.detachPhaser (s.thr.num + 1) true)).mem :=
    kept_foldl _ (fun t r => kept_dropReg ..) _ (s.detachPhaser (s.thr.num + 1) true)
  cases why with
  | none => exact h'
  | some tr =>
    dsimp only
    generalize hs : s.thr.phasers.foldl (fun u r => u.dropReg true s.thr.num s.thr.asid r) (s.detachPhaser (s.thr.num + 1) true) = u at h'
    have hl : ∀ r, s.mem.Kept (if s.thr.ending then u.mem else u.mem.packageLog u.pkg r) := by
      intro r; split
      · exact h'
      · exact h'.trans (kept_packageLog ..)
    split
    · exact (hl _).trans (kept_errorLog ..)
    · exact hl _

/-- Taking a trap keeps the form. -/
theorem kept_takeTrap (s : State) (n : Nat) (tr : Trap) : s.mem.Kept (s.takeTrap n tr).mem := by
  unfold State.takeTrap
  split
  · split <;> exact .refl _
  · exact kept_endThread ..

/-- What follows a word keeps the form (R102). -/
theorem kept_follow (s : State) (e : StreamId) (defer : Bool) (tr : Option Trap) : s.mem.Kept (s.follow e defer tr).mem := by
  unfold State.follow
  cases tr with
  | none => exact .refl _
  | some tr =>
    dsimp only
    split
    · exact .refl _
    · exact kept_takeTrap ..

/-- The same once the context has changed. -/
theorem kept_followOf (s : State) (c : Ctx) (e : StreamId) (defer : Bool) (tr : Option Trap) :
    s.mem.Kept (({ s with ctx := c } : State).follow e defer tr).mem := by
  have h := kept_follow ({ s with ctx := c } : State) e defer tr
  exact h
theorem kept_trapOf (s : State) (c : Ctx) (n : Nat) (tr : Trap) : s.mem.Kept (({ s with ctx := c } : State).takeTrap n tr).mem := by
  have h := kept_takeTrap ({ s with ctx := c } : State) n tr
  exact h

/-- A word keeps the form where its body does. -/
theorem ctxWord_kept {e t n body s u} (hb : ∀ p, s.mem.Kept (body p s).state.mem) (h : ctxWord e t n body s = .next u) :
    s.mem.Kept u.mem := by
  unfold ctxWord at h
  split at h
  · dsimp only at h
    split at h
    · have g := hb (s.ctx.pushesOf e (s.ctx.popsLeft e t)).1
      generalize body (s.ctx.pushesOf e (s.ctx.popsLeft e t)).1 s = r at g h
      cases r with
      | done d v =>
        simp only [Host.Outcome.next.injEq] at h
        rw [← h]; exact Memory.Kept.trans (n := v.mem) g (kept_followOf ..)
      | wait c v =>
        simp only [Host.Outcome.next.injEq] at h
        rw [← h]; exact g
      | hold c pb v =>
        simp only [Host.Outcome.next.injEq] at h
        rw [← h]; exact g
      | trap tr v =>
        simp only [Host.Outcome.next.injEq] at h
        rw [← h]; exact Memory.Kept.trans (n := v.mem) g (kept_trapOf ..)
    · simp only [Host.Outcome.next.injEq] at h
      rw [← h]; exact .refl _
  · cases h

/-- A thread's word keeps the form where its body does. -/
theorem threadWord_kept {n body s u} (hb : s.mem.Kept (body s).state.mem) (h : threadWord n body s = .next u) : s.mem.Kept u.mem := by
  unfold threadWord at h
  split at h
  · generalize body s = r at hb h
    cases r <;> simp only [Host.Outcome.next.injEq] at h <;> rw [← h]
    · exact hb
    · exact hb
    · exact hb
    · exact hb.trans (kept_takeTrap ..)
  · cases h

/-- A word of a stream or of a thread keeps the form where its body does. -/
theorem anyWord_kept {e t n body s u} (hb : ∀ p, s.mem.Kept (body p s).state.mem) (h : anyWord e t n body s = .next u) :
    s.mem.Kept u.mem := by
  unfold anyWord at h
  split at h
  · exact threadWord_kept (hb t) h
  · exact ctxWord_kept hb h

end Sys2Proof.Machine
end

