-- ==== Sys2Proof/Tests/Slice0.lean ====
section
/-!
SUPPORT. Tests of the model on fixed values: ill-formed terms that WellFormed refuses, words written out from the spec's encodings,
small steps whose results the spec gives, and for every statement with hypotheses a state and operands that meet them together.
-/

namespace Sys2Proof.Tests

open Sys2Proof Sys2Proof.Machine

set_option maxRecDepth 100000
set_option Elab.async false

/-! Ill-formed terms, one for each check of WellFormed -/

theorem test_wf_type_of_vdiv : (Instr.vdiv Tok.none .i32 1 2 3).wellFormed = false := by decide
theorem test_wf_type_of_vminu : (Instr.vminu Tok.none .fp32 1 2 3).wellFormed = false := by decide
theorem test_wf_type_of_vand : (Instr.vand Tok.none .bf16 1 2 3).wellFormed = false := by decide
theorem test_wf_type_of_vtanh : (Instr.vtanh Tok.none .i8 1 2).wellFormed = false := by decide
theorem test_wf_vcvt_to_itself : (Instr.vcvt Tok.none .bf16 1 2 false .rne false .bf16).wellFormed = false := by decide
theorem test_wf_vcvt_group : (Instr.vcvt Tok.none .bf16 1 3 false .rne false .fp32).wellFormed = false := by decide
theorem test_wf_vquant_other : (Instr.vquant Tok.none .fp32 0 4 1 true false .rne .bf16).wellFormed = false := by decide
theorem test_wf_fcvt_stochastic : (Instr.fcvtfi Tok.none 1 2 false false .sr).wellFormed = false := by decide
theorem test_wf_load_mode : (Instr.ldg Tok.none 1 2 3 7).wellFormed = false := by decide
theorem test_wf_tile_above_95 : (Instr.mtov Tok.none 96 1 2).wellFormed = false := by decide
theorem test_wf_tiles_of_mzero : (Instr.mzero Tok.none 95 1).wellFormed = false := by decide
theorem test_wf_odd_pair : (Instr.mmas Tok.none .bf16 0 3 4 false 1 .none 0).wellFormed = false := by decide
theorem test_wf_klen_zero : (Instr.mma Tok.none .bf16 0 0 1 false 0 .none 0).wellFormed = false := by decide
theorem test_wf_scale_register : (Instr.mma Tok.none .bf16 0 0 1 false 1 .none 5).wellFormed = false := by decide
theorem test_wf_register_group : (Instr.mma Tok.none .bf16 0 31 0 false 200 .none 0).wellFormed = false := by decide
theorem test_wf_nest_level : (Instr.mncfg Tok.none 6 0 0 1 0).wellFormed = false := by decide
theorem test_wf_nest_depth : (Instr.mnest Tok.none 0).wellFormed = false := by decide
theorem test_wf_vmlog_not : (Instr.vmlog Tok.none .not 1 2 3).wellFormed = false := by decide
theorem test_wf_gather_overlap : (Instr.vgath Tok.none 4 1 4 false).wellFormed = false := by decide
theorem test_wf_phaser_mode : (Instr.phreg 0 1 0).wellFormed = false := by decide
theorem test_wf_scope : (Instr.phsig 1 6).wellFormed = false := by decide
theorem test_wf_unbind_all : (Instr.unbind 1 true).wellFormed = false := by decide
theorem test_wf_fence : (Instr.fence 0 0).wellFormed = false := by decide
theorem test_wf_yleave : (Instr.yleave 0).wellFormed = false := by decide
theorem test_wf_prep_offset : (Instr.prep 1 2).wellFormed = false := by decide
theorem test_wf_dnz_of_s0 : (Instr.brDnz 1 0).wellFormed = false := by decide
theorem test_wf_token_of_s : (Instr.add ⟨true, false, false, false⟩ 1 2 3).wellFormed = false := by decide
theorem test_wf_token_of_w : (Instr.scat ⟨false, true, false, false⟩ 1 2 3 false 0).wellFormed = false := by decide

/-! Words written out from the encodings -/

/-- The word and its literal decode to the instruction. -/
def reads (w lit : Word) (i : Instr) : Bool := match decodeWord w lit with
  | .ok j => decide (j = i)
  | .error _ => false

/-- The word is refused for the reason. -/
def refuses (w lit : Word) (r : Reject) : Bool := match decodeWord w lit with
  | .ok _ => false
  | .error q => decide (q = r)

-- S, opcode 0: d 6, a 1, b 0 (R130)
theorem test_decode_add : reads 0b000_0000_0000000_00110_00001_00000_000 0 (.add Tok.none 6 1 0) = true := by decide
-- the same with pf, of R31's table: 0x0800_6110
theorem test_decode_add_pf : reads 0x08006110 0 (.add ⟨false, true, false, false⟩ 3 1 2) = true := by decide
-- S, opcode 0x28, wide: MOVW s7 (R137)
theorem test_decode_movw : reads 0b000_0000_0101000_00111_0000000000000 0xFFFFFFFF (.movw Tok.none 7 0xFFFFFFFF) = true := by decide
-- S, opcode 0x24: SHLI s6, 6 (R136)
theorem test_decode_shli : reads 0b000_0000_0100100_00110_0000000000110 0 (.shli Tok.none 6 6) = true := by decide
-- V, tokens wf and pb, opcode 0, fp32 = 110: 0x7200_8536 (R31)
theorem test_decode_vadd : reads 0x72008536 0 (.vadd ⟨true, false, false, true⟩ .fp32 4 5 6) = true := by decide
-- V, opcode 0x30, wide: VCVT.bf16.fp4e2 with its literal (R200)
theorem test_decode_vcvt : reads 0x60C10204 0x34 (.vcvt Tok.none .bf16 8 2 false .rne true .fp4e2) = true := by decide
-- W, opcode 3: COPYF (R314)
theorem test_decode_copyf : reads 0x800CC744 0 (.copyf Tok.none 6 7 8 0) = true := by decide
-- N, opcode 0: NSEND (R400)
theorem test_decode_nsend : reads 0b101_0000_0000000_00000_01000_00111_000 0 (.nsend 8 7) = true := by decide
-- A, opcode 5: END (R121); A, opcode 2: BR.dnz b1, s9 (R119)
theorem test_decode_end : reads 0b111_0000_0000101_000000000000000000 0 .endTask = true := by decide
theorem test_decode_brDnz : reads 0b111_0000_0000010_001_011_01001_0000000 0 (.brDnz 1 9) = true := by decide
-- M, opcode 0x52: MZERO a5, 3 more (R238)
theorem test_decode_mzero : reads 0b010_0000_1010010_00101_00011_00000_000 0 (.mzero Tok.none 5 3) = true := by decide
-- L, opcode 0: COPY.in s3, s4, s5 on channel 2 (R259)
theorem test_decode_copyIn : reads 0b001_0000_0000000_00011_00100_00101_010 0 (.copyIn Tok.none 3 4 5 false 2) = true := by decide
-- Y, opcode 0x02: PHSIG s3 at scope core (R296)
theorem test_decode_phsig : reads 0b110_0000_0000010_00000_00011_00000_001 0 (.phsig 3 1) = true := by decide

-- R33: an unassigned opcode, a type, a reserved bit, a token bit, a tile
theorem test_reject_opcode : refuses 0x01FC0000 0 .illegalInstruction = true := by decide
theorem test_reject_type : refuses 0x60108530 0 .illegalInstruction = true := by decide
theorem test_reject_reserved : refuses 0xE0000001 0 .reservedField = true := by decide
theorem test_reject_token : refuses 0xA2000838 0 .reservedField = true := by decide
theorem test_reject_tile : refuses 0x41480003 0 .reservedField = true := by decide
-- the table's numbering: a wide word's literal is zero above the bits that are given
theorem test_table_word : decodeTableWord 32 0x00A0E000 = some (.movw Tok.none 7 0) := by decide

/-! What meets the statements' hypotheses: one state for each shape -/

/-- Memory with slot 0 loaded. -/
def wMem : Memory := { Memory.reset with keys := [(0, 1)] }
/-- A Harius thread has the turn. -/
def wThr : State := { State.reset with mem := wMem }
/-- A context of core 0 with every register, every tile and its scratchpad. -/
def wCtx : Ctx := benchCtx 1 0
/-- A stream of that context has the turn. -/
def wOn (e : StreamId) : State := { wThr with ctx := wCtx, agent := .stream e }
/-- A thread has the turn and TARGET names that context. -/
def wTgt : State := { wThr with ctx := wCtx }

theorem w_issues (e : StreamId) : (wOn e).issues e Tok.none := by
  cases e <;> exact And.intro rfl (And.intro rfl (And.intro rfl rfl))
theorem w_starts : (wOn .S).starts Tok.none := Or.inr (w_issues .S)
theorem w_thread : wThr.starts Tok.none := Or.inl rfl
theorem w_dst : (wOn .S).dstReady 3 := And.intro rfl rfl

theorem witness_IntegerWordsWriteTheirResult : (wOn .S).starts Tok.none ∧ (wOn .S).sWaits [1, 2] = false ∧ (wOn .S).dstReady 3 :=
  ⟨w_starts, rfl, w_dst⟩
theorem witness_CountsSelectAndImmediates : (wOn .S).starts Tok.none ∧ (wOn .S).dstReady 3 ∧ (wOn .S).sWaits [1] = false ∧
    (wOn .S).sWaits [1, 2] = false ∧ (wOn .S).sWaits [3] = false := ⟨w_starts, w_dst, rfl, rfl, rfl⟩
theorem witness_ComparesAndPredicateWords : (wOn .S).starts Tok.none ∧ (wOn .S).sWaits [1, 2] = false := ⟨w_starts, rfl⟩
theorem witness_Fp32WordsWriteResultAndFlags : (wOn .S).starts Tok.none ∧ (wOn .S).dstReady 3 ∧ (wOn .S).sWaits [1, 2, 3] = false ∧
    (wOn .S).sWaits [1, 2] = false ∧ (wOn .S).sWaits [1] = false := ⟨w_starts, w_dst, rfl, rfl, rfl⟩

theorem witness_SystemRegisterWords_on_S : assigned 0x001 = true ∧ readOnly 0x001 = false ∧ (wOn .S).issues .S Tok.none ∧ (wOn .S).dstReady 3 ∧
    (wOn .S).readS 3 = .ok ⟨0, false⟩ := ⟨rfl, rfl, w_issues .S, w_dst, rfl⟩
theorem witness_SystemRegisterWords_of_a_context : assigned 0x104 = true ∧ readOnly 0x104 = false ∧ wTgt.agent = .thread ∧
    (∃ c, wTgt.target = some c) ∧ wTgt.readS 3 = .ok ⟨0, false⟩ := ⟨rfl, rfl, rfl, ⟨_, rfl⟩, rfl⟩
theorem witness_SystemRegisterWords_of_the_package : assigned 0x200 = true ∧ readOnly 0x200 = false ∧ wThr.agent = .thread ∧
    wThr.readS 3 = .ok ⟨0, false⟩ := ⟨rfl, rfl, rfl, rfl⟩
theorem witness_SystemRegisterTraps : (wOn .S).issues .S Tok.none ∧ assigned 0x009 = false ∧ assigned 0x100 = true ∧
    (assigned 0x000 = true ∧ readOnly 0x000 = true) := ⟨w_issues .S, rfl, rfl, rfl, rfl⟩
/-- S with s1 poisoned. -/
def wHot : State := { wOn .S with ctx := { wCtx with sf := wCtx.sf.setS 1 ⟨5, true⟩ } }
theorem witness_SystemRegisterTraps_thread : wThr.agent = .thread ∧ wThr.target = none ∧ assigned 0x009 = false ∧ (assigned 0x000 = true ∧ readOnly 0x000 = true) ∧
    (assigned 0x104 = true ∧ readOnly 0x104 = false ∧ (0x104 : SysNum).toNat < 0x200) ∧ wThr.readS 3 = .ok ⟨0, false⟩ := ⟨rfl, rfl, rfl, ⟨rfl, rfl⟩, ⟨rfl, rfl, by decide⟩, rfl⟩
theorem witness_SystemRegisterTraps_poison : wHot.starts Tok.none ∧ wHot.readS 1 = .ok ⟨5, true⟩ ∧ assigned 0x001 = true ∧ readOnly 0x001 = false ∧
   wHot.ctx.loads = [] :=
  ⟨Or.inr (And.intro rfl (And.intro rfl (And.intro rfl rfl))), rfl, rfl, rfl, rfl⟩
/-- Byte 0 of the own package, as a thread reaches it. -/
def wZero : Global := ⟨0, ⟨0, 0⟩⟩
/-- A thread reaches byte 0 for every kind of access. -/
theorem w_access (k : AKind) (n : Nat) : wThr.access 0 k n = (wThr, .ok wZero) := by
  have h : physForm wThr.mem 0#64 = .ok ⟨0, 0⟩ := rfl
  simp [State.access, show wThr.agent = .thread from rfl, h, wZero]

theorem witness_GlobalLoadsAndStores : wThr.starts Tok.none ∧ wThr.notGated ∧ wThr.readS 1 = .ok ⟨0, false⟩ ∧ wThr.dstReady 3 ∧
    wThr.access (0 + 0) .load 8 = (wThr, .ok wZero) ∧ wThr.access (0 + 0) .store 8 = (wThr, .ok wZero) ∧ wThr.remote wZero = false :=
  ⟨w_thread, trivial, rfl, trivial, w_access .load 8, w_access .store 8, rfl⟩
/-- A started package whose control area stands at 0, so that a thread reaches its host mailbox at 0x42B00. -/
def wMail : State := { wThr with pkg := { wThr.pkg with started := true } }
theorem witness_GlobalLoadsAndStores_mailbox : wMail.pkg.ctl = some 0 ∧ wMail.starts Tok.none ∧ wMail.notGated ∧ wMail.readS 1 = .ok ⟨0, false⟩ ∧
    wMail.access (0 + (0x42B08 : Word).signExtend 64) .store 8 = (wMail, .ok ⟨0, ⟨0x42B08, 0⟩⟩) ∧ wMail.remote ⟨0, ⟨0x42B08, 0⟩⟩ = false ∧
    wMail.mailboxFret ⟨0, ⟨0x42B08, 0⟩⟩ 8 true = true ∧ wMail.mailboxFret wZero 8 true = false := by
  have h : physForm wMail.mem 273160#64 = .ok ⟨0x42B08, 0⟩ := rfl
  exact ⟨rfl, w_thread, trivial, rfl, by simp [State.access, show wMail.agent = .thread from rfl, h], rfl, by decide +kernel, by decide +kernel⟩
theorem witness_ScratchLoadsAndStores : (wOn .S).starts Tok.none ∧ (wOn .S).notGated ∧ (wOn .S).readS 1 = .ok ⟨0, false⟩ ∧ (wOn .S).dstReady 3 ∧
    (wOn .S).scratch (0 + 0) .load 8 8 = .ok ⟨0, 0⟩ ∧ (wOn .S).scratch (0 + 0) .store 1 1 = .ok ⟨0, 0⟩ :=
  ⟨w_starts, rfl, rfl, w_dst, rfl, rfl⟩
theorem witness_AtomicsBanksAndFlaggedStores : wThr.starts Tok.none ∧ wThr.notGated ∧ wThr.readS 1 = .ok ⟨0, false⟩ ∧ wThr.dstReady 3 ∧
    wThr.access 0 .atomic 8 = (wThr, .ok wZero) ∧ wThr.access (0 + 0) .promote 1 = (wThr, .ok wZero) ∧
    wThr.access 0 .store 8 = (wThr, .ok wZero) ∧ wThr.remote wZero = false :=
  ⟨w_thread, trivial, rfl, trivial, w_access .atomic 8, w_access .promote 1, w_access .store 8, rfl⟩
theorem witness_AtomicsOfAScratchpad : (wOn .S).notGated ∧ (wOn .S).scratch 0 .atomic 8 8 = .ok ⟨0, 0⟩ := ⟨rfl, rfl⟩

/-- A copy of no bytes by a stream's word, as its plan makes it. -/
def wCopy : Xfer := (planCopy (wOn .L) (Xfer.blank 1 false 0 .copy (Instr.firstWord (.copyIn Tok.none 1 2 3 false 0)) 0 none false) [0, 0, 0]).xfer

theorem witness_TransferWordsIssue : (wOn .L).issues .L Tok.none ∧ (wOn .L).notGated ∧ (wOn .L).reads [1, 2, 3] [0, 0, 0] ∧
    (wOn .L).planClear (planCopy (wOn .L) (Xfer.blank (wOn .L).ctx.inst false 0 .copy (Instr.firstWord (.copyIn Tok.none 1 2 3 false 0)) 0 none
      (wOn .L).ctx.regs.exportOk) [0, 0, 0]) ∧ (wOn .L).resolves .L wCopy (wOn .L) wCopy ∧ (wOn .L).leaveFor .L wCopy ∧
    ∃ id c, (wOn .L).ctx.nextId false 0 = some (id, c) :=
  ⟨w_issues .L, rfl, rfl, And.intro rfl (And.intro rfl (And.intro rfl (fun r h => by cases h))), And.intro rfl rfl, Or.inr (Or.inl (by decide)), _, _, rfl⟩

/-! Transfers, phasers and waits -/

theorem witness_TileFlagAndReductionTransfersIssue_copya :
    let plan := planAdd 0 (wOn .L) (Xfer.blank (wOn .L).ctx.inst false 0 .copya (Instr.firstWord (.copya Tok.none 0 1 2 false)) 0 none
      (wOn .L).ctx.regs.exportOk) [0, 0]
    (wOn .L).issues .L Tok.none ∧ (wOn .L).reads [1, 2] [0, 0] ∧ (wOn .L).planClear plan ∧ (wOn .L).resolves .L plan.xfer (wOn .L) plan.xfer ∧
      plan.xfer.tiles.any (wOn .L).ctx.mHolds = false ∧ ∃ id c, (wOn .L).ctx.nextId false 0 = some (id, c) :=
  ⟨w_issues .L, rfl, And.intro rfl (And.intro rfl (And.intro rfl (fun r h => by cases h))), And.intro rfl rfl, rfl, _, _, rfl⟩
theorem witness_TileFlagAndReductionTransfersIssue_pref : (wOn .L).issues .L Tok.none ∧ (wOn .L).notGated ∧ (wOn .L).reads [1, 2] [0, 0] ∧
    (wOn .L).sideAccess ⟨false, 0⟩ 0 .copyRead false = none := ⟨w_issues .L, rfl, rfl, rfl⟩
/-- The flag named by a copy: bit 63 of the release. -/
def wFlag : Dword := 0x8000000000000000

/-- A context whose s3 holds an address and whose page table maps it, as the bench sets it up. -/
def wMap (e : StreamId) : State := { wOn e with mem := wMem.bench 0 0 }

theorem witness_TileFlagAndReductionTransfersIssue_rred :
    let plan := planReduce (wOn .W) (Xfer.blank (wOn .W).ctx.inst true 0 .rred (Instr.firstWord (.rred Tok.none 1 2 3 false 0)) 0 none
      (wOn .W).ctx.regs.exportOk) [0, 0, 0]
    (wOn .W).issues .W Tok.none ∧ (wOn .W).reads [1, 2, 3] [0, 0, 0] ∧ (wOn .W).planClear plan ∧
      (wOn .W).resolves .W plan.xfer (wOn .W) plan.xfer ∧ (wOn .W).leaveFor .W plan.xfer ∧ ∃ id c, (wOn .W).ctx.nextId true 0 = some (id, c) :=
  ⟨w_issues .W, rfl, And.intro rfl (And.intro rfl (And.intro rfl (fun r h => by cases h))), And.intro rfl rfl, Or.inr (Or.inl (by decide)), _, _, rfl⟩

/-- Sixteen transfers of one channel. -/
def wFull : Ctx := { wCtx with xfers := List.replicate 16 wCopy }
theorem witness_ChannelsCountTheirIds : 16 ≤ (wFull.xfers.filter fun x => x.ref.w == false && x.ref.ch == 0).length ∧
    ((wCtx.xfers.filter fun x => x.ref.w == false && x.ref.ch == 0).length < 16 ∧ (wCtx.chan false 0).next < 2 ^ 32) ∧
    (Channel.start.mark < 1 ∧ 1 ∉ Channel.start.above ∧ 1 = Channel.start.mark + 1) ∧
    (Channel.start.mark < 2 ∧ 2 ∉ Channel.start.above ∧ 2 ≠ Channel.start.mark + 1 ∧ Channel.start.mark + 1 ∉ Channel.start.above) := by decide

/-- Phaser 0 of core scope. -/
def wName : PhaserName := ⟨1, scopeAt 1 0 0, 0⟩
/-- The context as a party. -/
def wMe : Party := (wOn .Y).me
/-- The phaser once the context has registered to signal and wait. -/
def wHeld : List Phaser := (holdRegister [] wName 1 wMe 3).1
/-- The same once it has signalled, which completes the phase. -/
def wNext : List Phaser := (holdSignal wHeld wName 1 wMe).1
/-- The context with its registration, under a holder's list. -/
def wReg (l : List Phaser) : State :=
  State.withPhasers { wOn .Y with ctx := { wCtx with phasers := [⟨wName, 3, 0, 0⟩] } } l
theorem w_reg (l : List Phaser) : (wReg l).issues .Y Tok.none := And.intro rfl (And.intro rfl (And.intro rfl rfl))

theorem witness_PhaserWordsHere_register : (wOn .Y).startsY ∧ (wOn .Y).namesHere 1 0 wName ∧ (wOn .Y).reads [1] [0] ∧ (wOn .Y).myReg wName = none ∧
    (wOn .Y).myRegs.length < (wOn .Y).regLimit ∧ (holdRegister (wOn .Y).har.phasers wName (wOn .Y).asid (wOn .Y).me 3).2 = .done 0 :=
  ⟨Or.inr (w_issues .Y), And.intro ⟨1, rfl, rfl⟩ rfl, rfl, rfl, by decide, rfl⟩
theorem witness_PhaserWordsHere_signal : (wReg wHeld).startsY ∧ (wReg wHeld).namesHere 1 0 wName ∧ (wReg wHeld).reads [1] [0] ∧
    (wReg wHeld).preCheck wName true false = none ∧ (wReg wHeld).ready wName ∧
    (holdSignal (wReg wHeld).har.phasers wName (wReg wHeld).asid (wReg wHeld).me).2 = .done 0 :=
  ⟨Or.inr (w_reg _), And.intro ⟨1, rfl, rfl⟩ rfl, rfl, rfl, rfl, rfl⟩
theorem witness_PhaserWordsHere_drop : (wReg wHeld).preCheck wName false false = none ∧ ((wReg wHeld).myReg wName).any (fun r => modeSig r.mode) = true ∧
    ∃ l ph, holdDrop (wReg wHeld).har.phasers wName (wReg wHeld).asid (wReg wHeld).me = (l, .done ph) := ⟨rfl, rfl, _, _, rfl⟩
theorem witness_PhaserWordsHere_wait : (wReg wNext).startsY ∧ (wReg wNext).namesHere 1 0 wName ∧ (wReg wNext).reads [1] [0] ∧
    ∃ l ph, holdWait (wReg wNext).waitOpen (wReg wNext).har.phasers wName (wReg wNext).asid (wReg wNext).me = (l, .done ph) :=
  ⟨Or.inr (w_reg _), And.intro ⟨1, rfl, rfl⟩ rfl, rfl, _, _, rfl⟩
theorem witness_PhaserWordsHere_expect_and_query : (wReg wHeld).reads [1, 2] [0, 0] ∧
    (∃ l ph, holdExpect (wReg wHeld).har.phasers wName (wReg wHeld).asid (wReg wHeld).me 0 = (l, .done ph)) ∧
    (∃ p, (wReg wHeld).queryPlace 0 = .ok p) ∧ (findPhaser (wReg wHeld).har.phasers wName).any (fun q => q.asid != (wReg wHeld).asid) = false :=
  ⟨rfl, ⟨_, _, rfl⟩, ⟨_, rfl⟩, rfl⟩

theorem witness_WaitsForAPhase_next : (wReg wHeld).issues .Y Tok.none ∧ (wReg wHeld).namesHere 1 0 wName ∧ (wReg wHeld).reads [1] [0] ∧
    (wReg wHeld).ctx.signalled = false ∧ (findPhaser (wReg wHeld).har.phasers wName).all (fun p => !p.poisoned) = true ∧
    (wReg wHeld).preCheck wName true true = none ∧ (wReg wHeld).ready wName ∧
    (∃ ph, holdNext (wReg wHeld).har.phasers wName (wReg wHeld).asid (wReg wHeld).me = (wNext, .done ph)) ∧
    ∃ l ph, holdWait true wNext wName (wReg wHeld).asid (wReg wHeld).me = (l, .done ph) :=
  ⟨w_reg _, And.intro ⟨1, rfl, rfl⟩ rfl, rfl, rfl, rfl, rfl, rfl, ⟨_, rfl⟩, _, _, rfl⟩
theorem witness_WaitsForAPhase_held : ∃ l, holdWait (wReg wHeld).waitOpen (wReg wHeld).har.phasers wName (wReg wHeld).asid (wReg wHeld).me = (l, .held) := ⟨_, rfl⟩

theorem witness_PhasesCompleteWhenAllHaveArrived : ∃ p r, findPhaser wHeld wName = some p ∧ p.asid = 1 ∧ p.reg wMe = some r ∧ modeSig r.mode = true ∧
    r.sph = p.ph ∧ p.ahead = 0 ∧ p.ph.toNat < 2 ^ 64 - 1 ∧ p.arrived + 1 = p.nsig ∧ p.brem = 0 :=
  ⟨_, _, rfl, rfl, rfl, rfl, rfl, rfl, by decide, rfl, rfl⟩
/-- Two parties, of which one has arrived. -/
def wTwo : List Phaser := (holdRegister wHeld wName 1 ⟨0, true, 3⟩ 1).1
theorem witness_PhasesCompleteWhenAllHaveArrived_one_of_two : ∃ p r, findPhaser wTwo wName = some p ∧ p.asid = 1 ∧ p.reg wMe = some r ∧
    modeSig r.mode = true ∧ r.sph = p.ph ∧ p.ahead = 0 ∧ p.ph.toNat < 2 ^ 64 - 1 ∧ p.arrived + 1 < p.nsig :=
  ⟨_, _, rfl, rfl, rfl, rfl, rfl, rfl, by decide, by decide⟩

/-- The context with L ahead of the other streams. -/
def wFirst (n : Nat) : Ctx := wCtx.onStream .L (·.advance n)
theorem witness_BindingsFencesAndWaits : (wOn .Y).issues .Y Tok.none ∧ (wOn .Y).startsY ∧ (wOn .Y).reads [1, 2, 3] [0, 0, 0] ∧ (wOn .Y).reads [1] [0] ∧
    (wOn .Y).reads [1, 2] [0, 0] ∧ (∃ va, globalForm (wOn .Y).mem.own 0 = some va) ∧ (wOn .Y).ctx.bindings.length < 16 ∧
    (∃ k, (wOn .Y).wordScope 1 = .ok k) ∧ (wOn .Y).drainsAt 1 ∧ (wFirst 1).past .L (wFirst 1).streams.y.pos = true ∧
    min 0 (((wOn .Y).ctx.chan false 0).next - 1) ≤ ((wOn .Y).ctx.chan false 0).mark :=
  ⟨w_issues .Y, Or.inr (w_issues .Y), rfl, rfl, rfl, ⟨_, rfl⟩, by decide, ⟨_, rfl⟩, rfl, rfl, by decide⟩
theorem witness_BindingsFencesAndWaits_bind : ∃ obj, (wOn .Y).bindObj (Instr.firstWord (.bind 1 2 3)) 0x4000000004000000 = .ok obj := ⟨_, rfl⟩

/-- A flag of the own package that is at 0 and readable, with what WAITF asks of it. -/
def wFlagOk (s : State) : Bool := match s.access 0 .load 8 with
  | (u, .ok g) => !u.remote g && !(u.siteRead g 8).2 && decide (0 ≤ (u.siteRead g 8).1)
  | _ => false
theorem witness_BindingsFencesAndWaits_waitf : (wMap .Y).issues .Y Tok.none ∧ (wMap .Y).reads [1, 2] [0, 0] ∧
    (wMap .Y).sideAccess ⟨false, 0⟩ 8 .load false = none ∧ wFlagOk (wMap .Y) = true :=
  ⟨And.intro rfl (And.intro rfl (And.intro rfl rfl)), rfl, rfl, by decide +kernel⟩
/-- Y with its grant. -/
def wLeave : State := { wOn .Y with ctx := { wCtx with leaves := [⟨.Y, 1, true, false, 0⟩] } }
theorem witness_BindingsFencesAndWaits_yleave : wLeave.issues .Y Tok.none ∧ (∃ r, wLeave.ctx.leaves.find? (·.e == .Y) = some r ∧ r.granted = true) ∧
    ∀ k ∈ wLeave.ctx.covers, k.pos ≠ wLeave.ctx.streams.y.pos :=
  ⟨And.intro rfl (And.intro rfl (And.intro rfl rfl)), ⟨_, rfl, rfl⟩, fun k h => nomatch h⟩
/-- Package 3's memory under address 0; a link is up. -/
def wFar (e : StreamId) : State := { wMap e with
  mem := (wMap e).mem.hbmWrite 1 (benchTable 1) (natBytes 8 (3 * 2 ^ 44 + benchText + 0x1F3)) false
  pkg := { wThr.pkg with links := wThr.pkg.links.set 0 .up } }
/-- An access of n bytes at address 0 reaches another package. -/
def wFarOk (s : State) (k : AKind) (n : Nat) : Bool := match s.access 0 k n with
  | (u, .ok g) => u.remote g
  | _ => false
theorem w_far (k : AKind) (n : Nat) (s : State) (h : wFarOk s k n = true) : ∃ u g, s.access 0 k n = (u, .ok g) ∧ u.remote g = true := by
  unfold wFarOk at h
  split at h
  · exact ⟨_, _, by assumption, h⟩
  · cases h
theorem witness_GlobalLoadsAndStores_elsewhere : (wFar .S).issues .S Tok.none ∧ (wFar .S).notGated ∧ (wFar .S).readS 1 = .ok ⟨0, false⟩ ∧
    (wFar .S).dstReady 3 ∧ (∃ u g, (wFar .S).access (0 + 0) .load (2 ^ ((3 : BitVec 3).toNat % 4)) = (u, .ok g) ∧ u.remote g = true) ∧
    (∃ u g, (wFar .S).access (0 + 0) .store (2 ^ (3 : BitVec 2).toNat) = (u, .ok g) ∧ u.remote g = true) ∧
    (wFar .S).pkg.linked = true ∧ wThr.pkg.linked = false ∧ (wFar .S).mem.silent (wFar .S).pkg 3 = false ∧
    ((wMail.markSilent 3 0).mem.silent wMail.pkg 3 = true) :=
  ⟨And.intro rfl (And.intro rfl (And.intro rfl rfl)), rfl, rfl, And.intro rfl rfl, w_far _ _ _ (by decide +kernel), w_far _ _ _ (by decide +kernel),
    by decide, by decide, by decide +kernel, by decide +kernel⟩
theorem witness_AtomicsBanksAndFlaggedStores_elsewhere : (∃ u g, (wFar .S).access 0 .atomic 8 = (u, .ok g) ∧ u.remote g = true) ∧
    (∃ u g, (wFar .S).access (0 + 0) .promote 1 = (u, .ok g) ∧ u.remote g = true) ∧
    (∃ u g w f, (wFar .S).access 0 .store (2 ^ (3 : BitVec 2).toNat) = (u, .ok g) ∧ u.access 0 .atomic 8 = (w, .ok f) ∧ f.phys.pkg = g.phys.pkg ∧
      w.remote g = true) := by
  refine ⟨w_far _ _ _ (by decide +kernel), w_far _ _ _ (by decide +kernel), ?_⟩
  obtain ⟨u, g, h, hr⟩ := w_far .store 8 (wFar .S) (by decide +kernel)
  have h2 : (match (wFar .S).access 0 .store 8 with
    | (u, .ok g) => (match u.access 0 .atomic 8 with
      | (w, .ok f) => decide (f.phys.pkg = g.phys.pkg) && w.remote g
      | _ => false)
    | _ => false) = true := by decide +kernel
  rw [h] at h2
  simp only at h2
  split at h2
  · simp only [Bool.and_eq_true, decide_eq_true_eq] at h2
    exact ⟨u, g, _, _, h, by assumption, h2.1, h2.2⟩
  · cases h2
/-- Phaser 0 of system scope, whose home is package 1. -/
def wAway : PhaserName := ⟨5, 1, 0⟩
/-- The party with its registration on it. -/
def wAsk (sig : Bool) : State := { wFar .Y with ctx := { wCtx with phasers := [⟨wAway, 3, 0, 0⟩], signalled := sig } }
/-- Its answer has come. -/
def wTold (sig : Bool) (r : Reply) : State := { wAsk sig with ctx := { (wAsk sig).ctx with phAnswer := some r } }
theorem witness_PhaserWordsHere_away : (wFar .Y).startsY ∧ (wFar .Y).namesAway 5 0x10000 wAway ∧ (wFar .Y).myReg wAway = none ∧ (wFar .Y).mayAsk wAway ∧
    (∀ sig, (wAsk sig).startsY ∧ (wAsk sig).namesAway 5 0x10000 wAway ∧ (wAsk sig).preCheck wAway true true = none ∧ (wAsk sig).preCheck wAway true false = none ∧
      (wAsk sig).preCheck wAway false false = none ∧ (wAsk sig).ready wAway ∧ ((wAsk sig).releasePh wAway).mayAsk wAway ∧
      (∀ r, (wTold sig r).told wAway (wTold sig r).clearAnswer r ∧ ((wTold sig r).releasePh wAway).told wAway ((wTold sig r).releasePh wAway).clearAnswer r)) ∧
    ∃ p, (wAsk false).queryPlace 0 = .ok p := by
  refine ⟨Or.inr (And.intro rfl (And.intro rfl (And.intro rfl rfl))), And.intro ⟨5, rfl, rfl⟩ (by decide), rfl, And.intro rfl (And.intro rfl (And.intro (by decide +kernel) (by decide))), ?_, ?_⟩
  · intro sig
    refine ⟨Or.inr (And.intro rfl (And.intro rfl (And.intro rfl rfl))), And.intro ⟨5, rfl, rfl⟩ (by cases sig <;> decide), rfl, rfl, rfl, rfl,
     And.intro rfl (And.intro rfl (And.intro ?_ ?_)), fun r => ⟨Or.inl ⟨rfl, rfl⟩, Or.inl ⟨rfl, rfl⟩⟩⟩
    · cases sig <;> decide +kernel
    · cases sig <;> decide
  · exact ⟨_, rfl⟩
theorem witness_WaitsForAPhase_away : (∀ sig, (wAsk sig).issues .Y Tok.none ∧ (wAsk sig).ctx.signalled = sig ∧ (wAsk sig).mayAsk wAway) ∧
    (let v := (((wTold false (.phaser 0 0)).releasePh wAway).clearAnswer).bump wAway true
     (v.setCtx { v.ctx with signalled := true }).mayAsk wAway) := by
  refine ⟨fun sig => ⟨And.intro rfl (And.intro rfl (And.intro rfl rfl)), rfl, And.intro rfl (And.intro rfl (And.intro ?_ ?_))⟩,
    And.intro rfl (And.intro rfl (And.intro (by decide +kernel) (by decide)))⟩
  · cases sig <;> decide +kernel
  · cases sig <;> decide
/-- A flagged copy of no bytes, whose flag resolves through the page table. -/
def wFlagged (s : State) : Plan := planFlagged s (Xfer.blank s.ctx.inst true 0 .copyf (Instr.firstWord (.copyf Tok.none 1 2 4 0)) 0 (some wFlag)
  s.ctx.regs.exportOk) [0, 0, 0, wFlag]
/-- The same with s5 holding the flag. -/
def wFlagCtx : State := { wMap .W with ctx := { wCtx with sf := wCtx.sf.setS 5 ⟨wFlag, false⟩ } }
theorem witness_TileFlagAndReductionTransfersIssue_copyf : wFlagCtx.issues .W Tok.none ∧ wFlagCtx.reads [1, 2, 4, 5] [0, 0, 0, wFlag] ∧
    ((wFlagged wFlagCtx).poison.isNone && !(wFlagged wFlagCtx).reserved &&
      (firstTrap ((wFlagged wFlagCtx).access ++ (wFlagged wFlagCtx).align ++ (wFlagged wFlagCtx).bound)).isNone && !relBad wFlag && relFlag wFlag &&
      (flagAlign .atomic (some wFlag)).isNone &&
      match wFlagCtx.xferPhys (relAddr wFlag) .atomic true with
      | (u, .ok _) => (u.ctx.nextId true 0).isSome
      | _ => false) = true := ⟨And.intro rfl (And.intro rfl (And.intro rfl rfl)), rfl, by decide +kernel⟩

/-! Vector and matrix words -/

theorem witness_MaskedVectorWrites : wCtx.mask.p = false ∧ ({ wCtx with m := wCtx.m.set 1 ⟨0, true⟩, msel := 1 } : Ctx).mask.p = true ∧
    (List.replicate 128 (⟨7, false, 0⟩ : VRes)).length = 4096 / 32 ∧ (List.replicate 128 (⟨7, false, 0⟩ : VRes))[127]? = some ⟨7, false, 0⟩ := by decide
theorem witness_VectorTwoSourceWords : (wOn .V).issues .V Tok.none ∧ ∀ r ∈ [(1 : VReg), 2, 31], r.toNat < (wOn .V).ctx.demand := ⟨w_issues .V, by decide⟩
theorem witness_VectorIntegerResults : VTy.isInt .i8 = true ∧ 255 < 2 ^ VTy.bits .i8 ∧ 0 < 2 ^ VTy.bits .i64 := by decide
theorem witness_VectorOneSourceWordsAndConversions : (wOn .V).issues .V Tok.none ∧ (∃ g, (wOn .V).ctx.generator = .ok g) ∧
    (∀ r ∈ groupRegs 0 (cvtGroups .bf16 .fp4e2).2 ++ groupRegs 4 (cvtGroups .bf16 .fp4e2).1 ++ [(9 : VReg)], r.toNat < (wOn .V).ctx.demand) :=
  ⟨w_issues .V, ⟨_, rfl⟩, by decide⟩
theorem witness_VectorComparesAndMasks : (wOn .V).issues .V Tok.none ∧ (∀ r ∈ [(1 : VReg), 2, 3], r.toNat < (wOn .V).ctx.demand) ∧
    (wOn .V).ctx.mask.p = false := ⟨w_issues .V, by decide, by decide⟩
theorem witness_VectorReductionsAndMoves : (wOn .V).issues .V Tok.none ∧ (3 : VReg).toNat < (wOn .V).ctx.demand ∧ VTy.isInt .i32 = true ∧
    VTy.isFloat .bf16 = true ∧ (wOn .V).readS 4 = .ok ⟨0, false⟩ := ⟨w_issues .V, by decide, rfl, rfl, rfl⟩
theorem witness_VectorScratchLoadsAndStores : (wOn .V).issues .V Tok.none ∧ (3 : VReg).toNat < (wOn .V).ctx.demand ∧ (wOn .V).ctx.gated .V = false ∧
    (wOn .V).readS 1 = .ok ⟨0, false⟩ ∧ (wOn .V).ctx.mask.p = false ∧ (wOn .V).ctx.prog.velem = 0 ∧ (wOn .V).ctx.vplan = none ∧ (wOn .V).ctx.slow = false ∧ ((0 : Dword) + 0).toNat = 0 ∧
    0 + 512 ≤ (wOn .V).ctx.scrBytes ∧ (wOn .V).ctx.scrBytes ≤ 2097152 := ⟨w_issues .V, by decide, rfl, rfl, by decide, rfl, rfl, rfl, rfl, by decide, by decide⟩

/-- V with a mask of element 0 alone and memory mapped. -/
def wOne : State := { wMap .V with ctx := { wCtx with m := wCtx.m.set 1 ⟨1, false⟩, msel := 1 } }
/-- An access by the stream reaches the own package. -/
def wReaches (s : State) (k : AKind) (n : Nat) : Bool := match s.access 0 k n with
  | (u, .ok g) => !u.remote g
  | _ => false
theorem witness_VectorMemoryWordsAtOneElement : wOne.issues .V Tok.none ∧ (3 : VReg).toNat < wOne.ctx.demand ∧ wOne.ctx.gated .V = false ∧
    wOne.readS 1 = .ok ⟨0, false⟩ ∧ wOne.ctx.mask = ⟨BitVec.ofNat 1024 (2 ^ 0), false⟩ ∧ wOne.ctx.prog.velem = 0 ∧ wOne.ctx.vplan = none ∧ wOne.ctx.slow = false ∧
    ((wOne.ctx.getV 5).elem 32 0).p = false ∧ (wOne.scratch 0 .load 4 4 = .ok ⟨0, 0⟩) ∧ wOne.samePackage 0 0 = true ∧
    (wReaches wOne .load 4 && wReaches wOne .store 4 && wReaches wOne .atomic 8) = true :=
  ⟨And.intro rfl (And.intro rfl (And.intro rfl rfl)), by decide, rfl, rfl, by decide +kernel, rfl, rfl, rfl, by decide +kernel, rfl, by decide +kernel,
    by decide +kernel⟩
/-- V with a mask of elements 0 and 1. -/
def wPair (s : State) : State := { s with ctx := { s.ctx with m := s.ctx.m.set 1 ⟨3, false⟩, msel := 1 } }
/-- What a word's plan does at once: all pieces answered, or one still asked for; and whether an element failed. -/
def wPlanned (k : VKind) (r : State × VPlan) : Bool × Bool × Bool :=
  let x := r.1.vPieces k r.2.pieces
  (x.2.all fun q => q.got.isSome, x.2.any fun q => q.req.isSome && q.got.isNone, r.2.bad.isSome)
theorem witness_VectorMemoryWords_many : (wPair (wMap .V)).issues .V Tok.none ∧ (wPair (wMap .V)).ctx.mask.p = false ∧ (wPair (wMap .V)).readS 1 = .ok ⟨0, false⟩ ∧
    (∀ k ∈ [VKind.load 4 3, .store 4 3], wPlanned k ((wPair (wMap .V)).planFrom k false (wPair (wMap .V)).ctx.mask 0 512 0 []) = (true, false, false)) ∧
    wPlanned (.load 4 3) ((wPair (wFar .V)).planFrom (.load 4 3) false (wPair (wFar .V)).ctx.mask 0 512 0 []) = (false, true, false) ∧
    (∀ k ∈ [VKind.gather 4 3, .atom .i32add 3], wPlanned k ((wPair (wMap .V)).planIdx k false 5 (wPair (wMap .V)).ctx.mask 0 512 0 []) = (true, false, false)) ∧
    wPlanned (.gather 4 3) ((wPair (wOn .V)).planIdx (.gather 4 3) true 5 (wPair (wOn .V)).ctx.mask 0 512 0 []) = (true, false, false) ∧
    wPlanned (.load 4 3) ((wPair (wOn .V)).planFrom (.load 4 3) false (wPair (wOn .V)).ctx.mask 0 512 0 []) = (true, false, true) ∧
    ((wPair (wOn .V)).scratch (0 + BitVec.ofNat 64 ((((wPair (wOn .V)).ctx.getV 5).elem 32 1).code * 4)) .load 4 4).toOption = some ⟨0, 0⟩ := by
  refine ⟨And.intro rfl (And.intro rfl (And.intro rfl rfl)), by decide +kernel, rfl, by decide +kernel, by decide +kernel, by decide +kernel, by decide +kernel, by decide +kernel, by decide +kernel⟩
/-- A product of 64 products in bf16 on tile 0. -/
def wProd (fam : MFam) (regs : List Dword) : Product := ⟨fam, .bf16, 0, false, 64, .none, regs, 0⟩
theorem witness_ProductsIssueAndComplete_mma : (wOn .M).issues .M Tok.none ∧ (0 : TileNo).toNat < (wOn .M).ctx.tiles ∧ (wOn .M).ctx.held = [] ∧
    (wOn .M).ctx.tileBusy [0] = false ∧ (∀ r ∈ mmaRegs .bf16 0 64 ++ mmaRegs .bf16 16 64, r.toNat < (wOn .M).ctx.demand) ∧
    (wOn .M).ctx.gated .M = false ∧ (wOn .M).reads [] [] ∧ (wOn .M).ctx.vOwes (mmaRegs .bf16 0 64 ++ mmaRegs .bf16 16 64) = false ∧
    (wOn .M).productChecks (wProd (.mma 0 16) []) .zero = none :=
  ⟨w_issues .M, by decide, rfl, rfl, by decide, rfl, rfl, by decide +kernel, by decide +kernel⟩
theorem witness_ProductsIssueAndComplete_operands : (wOn .M).issues .M Tok.none ∧ (wOn .M).reads ([2, 3, 4, 5] ++ [] ++ []) ([0, 0, 0, 0] ++ [] ++ []) ∧
    (wOn .M).reads ([2, 3, 4, 5] ++ [6] ++ []) ([0, 0, 0, 0] ++ [0] ++ []) ∧
    (wOn .M).productChecks (wProd .mmas [0, 0, 0, 0]) .zero = none ∧ (wOn .M).productChecks (wProd .mmar [0, 0, 0, 0]) .zero = none ∧
    (wOn .M).productChecks (wProd (.mmaq 0) [0, 0, 0, 0]) .zero = none ∧ (wOn .M).productChecks (wProd (.mgrp 0 0) [0, 0, 0, 0]) .zero = none :=
  ⟨w_issues .M, rfl, rfl, by decide +kernel, by decide +kernel, by decide +kernel, by decide +kernel⟩
/-- The product under way in the array, its last iteration to come. -/
def wJob : MJob := ⟨0, wProd .mmas [0, 0, 0, 0], [64], Vector.replicate 6 NestLevel.zero, 0, 1, 0, Tok.none, [0], 0⟩
theorem witness_ProductsIssueAndComplete_array : ({ wCtx with jobs := [wJob] } : Ctx).jobs[0]? = some wJob ∧ wJob.total ≤ wJob.it + 1 ∧
    ({ wJob with total := 2 } : MJob).it + 1 < ({ wJob with total := 2 } : MJob).total ∧ (wProd .mmas [0, 0, 0, 0]).fam ≠ .mmar ∧ [64].sum ≤ 64 ∧
    (wProd .mmas [0, 0, 0, 0]).tileAt .zero < 96 ∧ (64, 0) ∈ (groupRows [64]).map (fun x => (x.2.1, x.2.2)) := by decide +kernel
/-- M in the middle of its word: tile 0 is held, and an MMAR's slice of nothing has come. -/
def wIssued : Issued := ⟨.M, Tok.none, none, true⟩
/-- The same as a state; `got` is what has come of the slice's one part. -/
def wHolds (got : Option (List Byte × Bool)) : State := { wOn .M with ctx := { wCtx with
  held := [0], issued := [wIssued], prog := { wCtx.prog with miter := 1 }, slices := [⟨[⟨0, none, 0, 32, got⟩], none⟩] } }
theorem witness_QueuedAndRemoteProducts_issue : (wOn .M).issues .M Tok.none ∧ (wOn .M).ctx.held = [] ∧ (0 : TileNo).toNat < (wOn .M).ctx.tiles ∧
    (wOn .M).ctx.gated .M = false ∧ (wOn .M).reads [2, 3, 4, 5] [0, 0, 0, 0] := ⟨w_issues .M, rfl, by decide, rfl, rfl⟩
theorem witness_QueuedAndRemoteProducts_goes_on : ∀ got, (wHolds got).running .M wIssued ∧ (wHolds got).ctx.held ≠ [] ∧
    (wHolds got).reads [2, 3, 4, 5] [0, 0, 0, 0] ∧ (wHolds got).ctx.tileBusy [0] = false ∧ (wHolds got).ctx.slow = false ∧
    (wHolds got).ctx.prog.miter = 1 ∧ ∃ x, (wHolds got).ctx.slices = [x] ∧ x.fault = none ∧ ∀ p ∈ x.parts, p.got = got :=
  fun got => ⟨And.intro rfl (And.intro rfl rfl), List.cons_ne_nil _ _, rfl, rfl, rfl, rfl, _, rfl, rfl, by simp⟩
theorem witness_QueuedAndRemoteProducts_slice : (wProd .mmar [0, 0, 0, 0]).fam = .mmar ∧ (wHolds none).ctx.prog.mslice < sliceCount 64 ∧
    (wHolds none).productChecks (wProd .mmar [0, 0, 0, 0]) .zero = none := ⟨rfl, by decide, by decide +kernel⟩
theorem witness_QueuedAndRemoteProducts_sees : (wOn .M).ctx.seen .M 0x008 (BitVec.ofNat 64 (wOn .M).ctx.regs.mpref) = .ok 4 ∧
    ({ wCtx with streams := { wCtx.streams with m := { wCtx.streams.m with sets := [(0, 0x008)] } } } : Ctx).seen .M 0x008 4 = .error 6 := by
  exact ⟨rfl, rfl⟩
theorem witness_NestWords_config_and_empty : (wOn .M).issues .M Tok.none ∧ (wOn .M).reads [1, 2] [0, 0] ∧ (0 : BitVec 3).toNat < 6 ∧
    nestTotal (wOn .M).ctx.shadow 1 = 0 := ⟨w_issues .M, rfl, by decide, by decide⟩
/-- The words of a template. -/
def wTemplate : List Word := encode (.mmas Tok.none .bf16 0 4 6 false 64 .none 0)
/-- M at an MNEST whose template follows it in the mapped page, with a leave of its own. -/
def wNest : State := { wOn .M with
  mem := let m := wMem.bench 0 (wTemplate.getD 0 0)
    m.hbmWrite (m.key 0) (benchText + 8) (natBytes 4 (wTemplate.getD 1 0).toNat) false
  ctx := { wCtx with shadow := wCtx.shadow.map fun l => { l with count := 1 }, leaves := [⟨.M, 1, true, false, 0⟩] } }
/-- What R236 asks of the word after MNEST, and of a nest of one iteration. -/
def wNestOk (s : State) : Bool :=
  match s.codeAt (s.ctx.streams.m.pc + 4) with
  | (u, .ok (w, lit)) => (match decodeWord w lit with
        | .ok i => decide (i = .mmas Tok.none .bf16 0 4 6 false 64 .none 0)
        | .error _ => false) && Engine.ofCode (Header.unpack w).eng == .M &&
      (Header.unpack w).op.extractLsb' 4 3 == 1 && isWide w && u.agent == .stream .M && !u.ctx.gated .M && nestTotal u.ctx.shadow 1 == 1 &&
      u.ctx.issued.isEmpty && u.ctx.jobs.isEmpty && popReady u.ctx.tok .M Tok.none && (u.nestChecks (wProd .mmas [0, 0, 0, 0]) u.ctx.shadow 1 1 0).isNone && (u.ctx.leaves.find? (·.e == .M)).any (·.granted)
  | _ => false
theorem witness_NestWords_nest : wNestOk wNest = true := by decide +kernel
theorem witness_TileMoves : (wOn .M).issues .M Tok.none ∧ (95 : TileNo).toNat + (0 : BitVec 5).toNat < (wOn .M).ctx.tiles ∧ (wOn .M).ctx.tiles ≤ 96 ∧
    (wOn .M).ctx.copyaHolds 95 = false ∧ convDesc 0 = some ⟨.int8, .rne, false, 0⟩ ∧
    (∃ o, (wOn .M).placeChecks 0 0 .store (NFmt.int8.regBits / 8) = .ok o) ∧ (wOn .M).reads [4, 5, 6] [0, 0, 0] ∧ (wOn .M).ctx.gated .M = false :=
  ⟨w_issues .M, by decide, by decide, rfl, by decide, ⟨_, rfl⟩, rfl, rfl⟩

/-! Control words and words of threads -/

theorem witness_ControlWordsOnS : (wOn .S).agent = .stream .S ∧ (8 : Word).extractLsb' 0 2 = 0 ∧
    (wOn .S).ctx.code.toNat ≤ ((wOn .S).ctx.streams.s.pc + (8 : Word).signExtend 64).toNat ∧ (2 : Word).extractLsb' 0 2 ≠ 0 ∧
    (wOn .S).ctx.met = true ∧ ({ wCtx.onStream .S (·.advance 1) with inst := 1 } : Ctx).met = false ∧
    ((wOn .S).waitAhead 64 ((wOn .S).ctx.streams.s.pc + 4)).bind ({ wOn .S with agent := .stream .Y } : State).waitOf = none := by
  refine ⟨rfl, rfl, by decide, by decide, by decide, by decide, by decide +kernel⟩
/-- S at a YIELD whose next word is a WAITW that does not yet hold. -/
def wPark : State := { wOn .S with
  mem := wMem.bench 0 (Instr.firstWord (.waitw 3 false 0))
  ctx := { (wCtx.onChan false 0 fun c => { c with next := 2 }) with sf := wCtx.sf.setS 3 ⟨1, false⟩ } }
theorem witness_ControlWordsOnS_parks : ∃ w t,
    (wPark.waitAhead 64 (wPark.ctx.streams.s.pc + 4)).bind ({ wPark with agent := .stream .Y } : State).waitOf = some (w, t) := by
  have h : ((wPark.waitAhead 64 (wPark.ctx.streams.s.pc + 4)).bind ({ wPark with agent := .stream .Y } : State).waitOf).isSome = true := by
    decide +kernel
  obtain ⟨⟨w, t⟩, h⟩ := Option.isSome_iff_exists.mp h
  exact ⟨w, t, h⟩
theorem witness_ControlWordsOnS_prep : ((wOn .S).ctx.streams.s.pc + (0x80000000 : Word).signExtend 64).toNat < (wOn .S).ctx.code.toNat ∨
    (wOn .S).ctx.code.toNat + 2 ^ 33 ≤ ((wOn .S).ctx.streams.s.pc + (0x80000000 : Word).signExtend 64).toNat := by decide
theorem witness_ControlWordsOfThreads : wTgt.agent = .thread ∧ inBound wThr.thr.entry (wThr.thr.pc + (0 : Word).signExtend 64) = true ∧
    (∃ c, ({ wThr with ctx := { wCtx with regs := { wCtx.regs with trapped := true } } } : State).target = some c ∧ c.regs.trapped = true) ∧
    wThr.target = none ∧ (wThr.thr.sf.getP 1).p = false ∧ (wThr.thr.sf.getS 1).p = false :=
  ⟨rfl, by decide +kernel, ⟨_, rfl, rfl⟩, rfl, rfl, rfl⟩
theorem witness_ControlWordsOfThreads_prep : inBound wThr.thr.entry (wThr.thr.pc + (0x80000000 : Word).signExtend 64) = false ∧
    (0x80000000 : Word).extractLsb' 0 2 = 0 ∧ (1 : Word).extractLsb' 0 2 ≠ 0 := by decide
theorem witness_BranchesDecideForAllStreams : (wOn .S).agent = .stream .S ∧ (wOn .S).ctx.fifo.length < 256 ∧ ((wOn .S).ctx.sf.getP 1).p = false ∧
    ((wCtx.sf.setP 1 ⟨true, true⟩).getP 1).p = true ∧ (wOn .S).sWaits [2] = false ∧ ((wOn .S).ctx.sf.getS 2).p = false ∧
    (wOn .S).ctx.versionsFull 2 = false ∧ (3 : VReg).toNat < (wOn .S).ctx.demand ∧ (wOn .S).ctx.vmOwed 3 = false ∧ (wOn .S).ctx.vmOwed 33 = false :=
  ⟨rfl, by decide, rfl, rfl, rfl, rfl, rfl, by decide, rfl, rfl⟩
/-- A thread whose s1 is poisoned. -/
def wPoisoned : State := { wThr with thr := { wThr.thr with sf := wThr.thr.sf.setS 1 ⟨5, true⟩ } }
theorem witness_TaskWordsRunOnThreadsOnly : (wOn .S).agent = .stream .S ∧ wPoisoned.agent = .thread ∧
    wPoisoned.readAll [1, 2] = .ok [⟨5, true⟩, ⟨0, false⟩] ∧
    (([1, 2] : List SReg).zip [(⟨5, true⟩ : SVal), ⟨0, false⟩]).find? (fun p => p.2.p) = some (1, ⟨5, true⟩) := ⟨rfl, rfl, rfl, rfl⟩

/-- A thread with x at offset 0, where its clean zero operands point. -/
def wAt (n x : Nat) : State := { wThr with mem := wMem.hbmWrite (wMem.key 0) 0 (natBytes n x) false }
/-- The same in a package whose image runs, with address space 0 live. -/
def wLive (n x : Nat) : State := { wAt n x with
  pkg := { wThr.pkg with started := true, hdr := { wThr.pkg.hdr with ctlBase := 0x200000 } }
  mem := (wAt n x).mem.hbmWrite (wMem.key 0) 0x200018 [1] false }
/-- Byte 0 as a place of the own package. -/
def wPhys : Phys := ⟨0, 0⟩

theorem witness_PegboardWords : (wAt 32 (2 ^ 240)).operands [1, 2] [0, 0] ∧ (0 : Dword).toNat < 2 ^ 14 ∧ actionOk 0 = true ∧
    (wAt 32 (2 ^ 240)).record 0 32 32 wPhys (2 ^ 240) ∧ entryOk (2 ^ 240) = true :=
  ⟨And.intro rfl rfl, by decide, rfl, And.intro (And.intro rfl rfl) (by decide +kernel), by decide +kernel⟩
theorem witness_PegboardWords_thresholds : ({ Peg.zero with action := 0 } : Peg).armed = false ∧
    ∃ p : Peg, p.armed = true ∧ p.kind = 6 ∧ p.thresh ≠ 0 ∧ p.thresh.toNat ≤ (p.count + 1).toNat := ⟨rfl, ⟨0, 1, 0x16, 0⟩, by decide⟩

/-- A message that entry 0 has taken lands, and NDISARM of the entry waits for it. -/
def wDisarm : State := { wAt 32 0 with net := { wThr.net with
  inflows := [⟨7, none, .deposit 0 0 ⟨some 1, 0, 0, 0, 0, 0, [7], [false], none⟩, true, .drop, 0, 1, ⟨[], []⟩⟩] } }
theorem witness_PegboardWords_disarm : wDisarm.operands [1] [0] ∧ wDisarm.thr.disarm = none ∧ wDisarm.net.atEntry 0 ≠ [] ∧
    (wAt 32 0).thr.disarm = none ∧ (wAt 32 0).net.atEntry 0 = [] ∧
    ({ wDisarm with thr := { wDisarm.thr with disarm := some (true, [7]) } } : State).thr.disarm = some (true, [7]) :=
  ⟨And.intro rfl rfl, rfl, by decide, rfl, rfl, rfl⟩
/-- A thread whose s1 names an entry that no peg has. -/
def wHigh : State := { wAt 32 (2 ^ 240) with thr := { wThr.thr with sf := wThr.thr.sf.setS 1 ⟨0xFFFF, false⟩ } }
theorem witness_PegboardWords_high : wHigh.operands [1, 2] [0xFFFF, 0] ∧ (0xFFFF : Dword).toNat < 2 ^ 16 ∧ wHigh.record 0 32 32 wPhys (2 ^ 240) :=
  ⟨And.intro rfl rfl, by decide, And.intro (And.intro rfl rfl) (by decide +kernel)⟩
/-- A package with a task type 0. -/
def wTyped (n x : Nat) : State := { wLive n x with har := { wThr.har with types := [(0, BitVec.ofNat 512 (2 ^ 56))] } }
theorem witness_LaunchWords_launch : (wTyped 16 0).operands [1, 2] [0, 0] ∧ (wTyped 16 0).record 0 16 16 wPhys 0 ∧ launchOk 0 = true ∧
    (∃ u n, ((wTyped 16 0).touched wPhys 16).accept 0 0 .word none = (u, some n)) ∧
    (∃ u, ((wAt 16 0).touched wPhys 16).accept 0 0 .word none = (u, none)) := by
  refine ⟨And.intro rfl rfl, And.intro (And.intro rfl rfl) (by decide +kernel), rfl, ?_, ?_⟩
  · have h : (((wTyped 16 0).touched wPhys 16).accept 0 0 .word none).2.isSome = true := by decide +kernel
    obtain ⟨n, h⟩ := Option.isSome_iff_exists.mp h
    exact ⟨_, n, Prod.ext rfl h⟩
  · have h : (((wAt 16 0).touched wPhys 16).accept 0 0 .word none).2 = none := by decide +kernel
    exact ⟨_, Prod.ext rfl h⟩
theorem witness_LaunchWords_gang : let s := wTyped 64 (2 ^ 128)
    s.operands [1, 2] [0, 0] ∧ s.record 0 32 32 wPhys (2 ^ 128) ∧ (s.touched wPhys 32).record 32 2 2 ⟨32, 0⟩ 0 ∧
      (s.mem.asidState s.pkg 0 == 1 && (s.typeEntry 0).isSome && !s.har.freeGangs.isEmpty) = true :=
  ⟨And.intro rfl rfl, And.intro (And.intro rfl rfl) (by decide +kernel), And.intro (And.intro rfl rfl) (by decide +kernel), by decide +kernel⟩
theorem witness_LaunchWords_no_slot : ({ wThr.har with gangs := (upTo 64).map fun i => ⟨i, 0, 0, [], [], 0, 0⟩ } : Har).freeGangs = [] := by decide +kernel

theorem witness_FreezeMapSaveAndLoad_freeze_and_map : (∃ c, ({ wThr with ctx := wCtx.freeze true } : State).target = some c ∧ c.regs.frozen = true) ∧
    wThr.reads [1, 2] [0, 0] ∧ (globalForm wThr.mem.own 0).isSome = true ∧ (wLive 0 0).reads [1, 2] [0, 0] ∧
    (wLive 0 0).mem.asidState (wLive 0 0).pkg 0 ≠ 0 ∧ wThr.mem.asidState wThr.pkg 0 = 0 ∧
    wThr.mapBusy .page 0 (wThr.thr.maps.getD (wThr.mapUses .page 0 0)) = false :=
  ⟨⟨_, rfl, rfl⟩, rfl, rfl, rfl, by decide +kernel, by decide +kernel, by decide +kernel⟩
/-- A frozen context of one register, no tile and 2,048 bytes of scratchpad. -/
def wSmall : Ctx := { (wCtx.freeze true) with demand := 1, tiles := 0, scrBytes := 2048 }
theorem witness_FreezeMapSaveAndLoad_save : let s : State := { wThr with ctx := wSmall }
    s.operands [1] [0] ∧ s.target = some wSmall ∧ wSmall.regs.frozen = true ∧ s.place 0 wSmall.imageLen 4096 wPhys ∧ s.quiet wSmall = true :=
  ⟨And.intro rfl rfl, rfl, rfl, And.intro rfl rfl, rfl⟩
/-- The same saved, its image's record at offset 0. -/
def wSaved : State := { wAt 32 (2 ^ 128) with ctx := { wSmall with place := .saved } }
theorem clean_reads {m : Memory} (h : m.hbmPoison = []) (k a n j : Nat) : anyPoison ((m.hbmReadP k a n).take j) = false := by
  simp [anyPoison, Memory.hbmReadP, Memory.sectorPoison, h, ← List.map_take]
theorem witness_FreezeMapSaveAndLoad_load : wSaved.operands [1] [0] ∧ wSaved.targetCore = some 0 ∧ wSaved.place 0 16384 4096 wPhys ∧
    anyPoison (wSaved.physRead wPhys 16384) = false ∧ natField (valueOf (wSaved.physRead wPhys 32)) 128 64 = 1 ∧
    (∃ c, wSaved.findCtx 1 = some c ∧ c.place = .saved) ∧ wSaved.place 0 wSmall.imageLen 4096 wPhys ∧
    (roomIn (wSaved.uses 0) 1 0 2048).isEmpty = false ∧ roomIn (({ wSaved with others := [{ wCtx with inst := 2 }] } : State).uses 0) 1 0 2048 = [] := by
  refine ⟨And.intro rfl rfl, rfl, And.intro rfl rfl, ?_, by decide +kernel, ⟨_, rfl, rfl⟩, And.intro rfl rfl, by decide +kernel, by decide +kernel⟩
  have h := clean_reads (m := wSaved.mem) (by decide +kernel) (wSaved.mem.key 0) 0 16384 16384
  rwa [List.take_of_length_le (by simp [Memory.hbmReadP])] at h

theorem witness_RegistrationWords_record : (wLive 64 (2 ^ 64)).operands [1, 2] [0, 0] ∧ (wLive 64 (2 ^ 64)).record 0 32 1 wPhys (2 ^ 64) ∧
    ((wLive 64 (2 ^ 64)).touched wPhys 32).mem.asidState (wLive 0 0).pkg 0 = 1 :=
  ⟨And.intro rfl rfl, And.intro (And.intro rfl rfl) (by decide +kernel), by decide +kernel⟩
/-- A region's checked record, with no region registered. -/
theorem region_registers {s : State} {x : Nat} {va : BitVec 56} (bad : Unit → Res)
    (ok : ¬(natField x 64 64 = 0 ∨ 2 ^ 40 < natField x 64 64 ∨ natField x 131 61 ≠ 0 ∨ natField x 192 64 ≠ 0))
    (g : globalForm s.mem.own (BitVec.ofNat 64 (natField x 0 64)) = some va)
    (o : ¬(natField va.toNat 44 12 ≠ s.mem.own.toNat ∨ 2 ^ 44 < natField va.toNat 0 44 + natField x 64 64)) (r : s.net.regions = []) :
    ∃ w, s.regRegion 3 0 0 x bad = .done false w := by
  have f : ((upTo 65536).filter fun i => s.net.regions.all fun r => r.index != i || !r.held).isEmpty = false := by
    refine List.isEmpty_eq_false_iff_exists_mem.mpr ⟨0, List.mem_filter.mpr ⟨?_, by simp [r]⟩⟩
    simp [upTo]
  unfold State.regRegion
  simp only [g]
  rw [if_neg ok, if_neg o, if_neg (by simp [f])]
  generalize State.pick _ _ = p
  obtain ⟨i, u⟩ := p
  cases u.net.regions.find? fun r => r.index == i <;> exact ⟨_, rfl⟩
theorem witness_RegistrationWords_region : ∃ w, wThr.regRegion 3 0 0 (2 ^ 64) (fun _ => .wait 0 wThr) = .done false w :=
  region_registers (va := 0) _ (by decide +kernel) rfl (by decide +kernel) rfl
theorem witness_RegistrationWords_endpoint : (match wThr.regEndpoint 3 0 0 0 (fun _ => .wait 0 wThr) with
    | .done false _ => true
    | _ => false) = true := by decide +kernel
theorem witness_RegistrationWords_revoke : let s : State := { wLive 0 0 with net := { wThr.net with regions := [⟨0, 0, 0, 0, 1, 0, true, none⟩] } }
    s.operands [1, 2] [0, 0] ∧ s.mem.asidState s.pkg 0 = 1 ∧ (match s.revoke .region 0 0 s.net.nextId with
      | .ok _ => true
      | .error _ => false) = true := ⟨And.intro rfl rfl, by decide +kernel, by decide +kernel⟩
theorem witness_MessageAndRmaWords_messages : (wLive 32 0).operands [1, 2] [0, 0] ∧ (wLive 32 0).record 0 32 32 wPhys 0 ∧
    ((wLive 32 0).touched wPhys 32).notLive 0 = false ∧ (∃ r w, sendRec 0 = some r ∧ wThr.sendMessage r 0 = .ok w) ∧
    (wLive 32 0).net.posts.length < 4096 :=
  ⟨And.intro rfl rfl, And.intro (And.intro rfl rfl) (by decide +kernel), by decide +kernel, ⟨_, _, rfl, rfl⟩, by decide⟩
theorem witness_MessageAndRmaWords_rma : let s : State := { wLive 32 (2 ^ 192) with net := { wThr.net with endpoints := [⟨0, 0, 0, true⟩] } }
    s.record 0 32 32 wPhys (2 ^ 192) ∧ (s.endpoint 0 0).isSome = true ∧ rmaFieldsOk false (2 ^ 192) = true ∧
      RmaOpKind.write.local_ (rmaLen (2 ^ 192)) = 1 ∧ RmaOpKind.write.local_ (rmaLen 0) = 0 ∧ rmaFieldsOk true 0 = true ∧
      s.physRange (rmaLaddr (2 ^ 192)) 1 = .ok wPhys ∧ anyPoison (s.physRead wPhys 1) = false :=
  ⟨And.intro (And.intro rfl rfl) (by decide +kernel), rfl, by decide +kernel, by decide +kernel, by decide +kernel, by decide +kernel, rfl,
    by decide +kernel⟩

/-- A graph of one node, a SEND of 32 bytes. -/
def wNode : Nat := 1 + 32 * 2 ^ 128
/-- The same as a record with its header. -/
def wGraphAt : State := wAt 96 (2 ^ 16 + wNode <<< 512)
theorem witness_CollectiveWords_load : wGraphAt.operands [1] [0] ∧ wGraphAt.record 0 64 64 wPhys (2 ^ 16) ∧ graphHeadOk (2 ^ 16) = true ∧
    (wGraphAt.touched wPhys 64).record 64 32 32 ⟨64, 0⟩ wNode ∧ nodeOk wNode = true ∧
    wGraphAt.basesOk [0, 0, 0, 0] [nodeOf (BitVec.ofNat 256 wNode)] (fun _ => true) = true ∧ wGraphAt.har.graph 0 = none :=
  ⟨And.intro rfl rfl, And.intro (And.intro rfl rfl) (by decide +kernel), by decide +kernel, And.intro (And.intro rfl rfl) (by decide +kernel),
    by decide +kernel, by decide +kernel, rfl⟩
/-- A loaded graph. -/
def wGraph : Graph := ⟨0, 0, [0, 0, 0, 0], [BitVec.ofNat 256 wNode], 1, [], [], [], 0⟩
theorem witness_CollectiveWords_replay : let s : State := { wAt 32 0 with har := { wThr.har with graphs := [wGraph] } }
    s.har.graph 0 = some wGraph ∧ s.operands [1, 2] [0, 0] ∧ s.record 0 32 32 wPhys 0 ∧ s.basesOk [0, 0, 0, 0] (wGraph.nodes.map nodeOf) (fun _ => true) = true ∧
      natField (0x100 : Dword).toNat 8 4 = 1 ∧ natField (0 : Dword).toNat 8 4 = 0 :=
  ⟨rfl, And.intro rfl rfl, And.intro (And.intro rfl rfl) (by decide +kernel), by decide +kernel, rfl, rfl⟩
theorem witness_HashSignAndRandom : (wAt 64 0).operands [1, 2] [0, 0] ∧ (wAt 64 0).place 0 32 32 wPhys ∧ ((wAt 64 0).touched wPhys 32).place 0 64 64 wPhys ∧
    (wAt 64 0).operands [1, 2, 3] [0, 0, 0] ∧ pegIndexOk (0 : Dword).toNat = true ∧ (wAt 64 0).place 0 384 64 wPhys ∧
    ((wAt 64 0).touched wPhys 384).record 0 32 32 wPhys 0 ∧ (wAt 64 0).net.signs.length < 16 ∧ (wAt 64 0).net.entropyFailing = false ∧
    ({ wThr.net with entropyFailing := true } : Net).entropyFailing = true :=
  ⟨And.intro rfl rfl, And.intro rfl rfl, And.intro rfl rfl, And.intro rfl rfl, rfl, And.intro rfl rfl,
    And.intro (And.intro rfl rfl) (by decide +kernel), by decide, rfl, rfl⟩

/-! Events -/

/-- The context as every stream waits in a cycle of its own. -/
def wStuck : Ctx := { (streamOrder.foldl (fun (c : Ctx) e => c.stalled e 1) wCtx) with idle := streamOrder }
/-- The context after S's word of size 1 has trapped, its record not yet delivered. -/
def wTrap : Ctx := wCtx.takeTrap (some .S) 1 (Trap.withDetail 0x01 0) 0
theorem witness_ContextEvents : wTgt.findCtx 1 = some wCtx ∧ wTgt.deadlocked wStuck = true ∧ wTgt.deadlocked wCtx = false ∧ wTrap.unsettled = false ∧
    ({ wTrap with vplan := some ⟨[], none, []⟩ } : Ctx).unsettled = true ∧
    (∃ r, wTrap.record = some r ∧ r.eng = some .S ∧ r.size ≠ 0) ∧ wTrap.regs.trapped = true ∧ wTrap.undelivered = true ∧
    wTrap.regs.trapEn = false ∧ wTgt.har.queue.length < 8192 ∧ (∃ u, wTgt.focus 1 = some u) ∧
    (assigned 0x001 = true ∧ readOnly 0x001 = false) :=
  ⟨rfl, by decide +kernel, by decide +kernel, rfl, rfl, ⟨_, rfl, rfl, by decide⟩, rfl, rfl, rfl, by decide, ⟨_, rfl⟩, rfl, rfl⟩
/-- The same with a record to write at address 0, which is mapped. -/
def wTrapRec : Ctx := { wTrap with regs := { wTrap.regs with trapEn := true } }
theorem witness_ContextEvents_record : ∃ r, wTrapRec.record = some r ∧ (({ wMap .S with ctx := wTrapRec } : State).writeRecord wTrapRec r).isSome = true :=
  ⟨_, rfl, by decide +kernel⟩
theorem witness_SystemRegisterWords_under_way : ({ wCtx with signalled := true } : Ctx).underWay .Y = true ∧
    (∀ n ∈ ([0x004, 0x008, 0x103] : List SysNum), ∃ w, ({ wCtx with signalled := true } : Ctx).seen .Y n ((wCtx.reg 0 n).getD 0) = .ok w) ∧
    (wTrap.regs.trapped = true ∧ ∃ q, wTrap.record = some q ∧ q.eng = some .S ∧ q.size ≠ 0) ∧ wCtx.regs.trapped = false ∧
    (∃ q, wTrap.skip.record = some q ∧ q.eng = some .S ∧ q.size = 0) := by
  refine ⟨rfl, ?_, ⟨rfl, _, rfl, rfl, by decide⟩, rfl, _, rfl, rfl, rfl⟩
  intro n hn
  simp at hn
  rcases hn with rfl | rfl | rfl <;> exact ⟨_, rfl⟩
theorem witness_FreezeMapSaveAndLoad_stilled : wTgt.stilled wCtx = true ∧ wTgt.stilled { wCtx with vplan := some ⟨[], none, []⟩ } = false := by decide
/-- Memory with die 0 about to adopt 16 slots. -/
def wBusy : Memory := { wMem with dies := wMem.dies.set 0 { wMem.dies[0] with busy := true, newSlots := 16 } }
theorem witness_MemoryEvents : (wBusy.dieOf 0).busy = true ∧ (wBusy.dieOf 0).heldPromotes = [] ∧ (wBusy.dieOf 0).heldSets = [] ∧
    (wMem.dieOf 0).busy = false ∧ (∀ h ∈ (wBusy.dieOf 0).heldPromotes, dieOfStack (paStack h.addr) = 0) ∧ paOk (0 * 32) = true ∧
    (({ wThr with mem := { wMem with banks := [⟨0, [⟨0, 3, true, 0⟩]⟩] } } : State).eccRow 0 none = 3 ∧ paBank 0 = 0) := by decide +kernel
theorem witness_MemoryEvents_promotions : (4096 ≤ 4096 ∧ (∀ p ∈ ([⟨5000, 0, false, 0⟩] : List Promotion), p.row ≠ 4096) ∧ 1 < 2) ∧
    (∃ old rest, ([⟨5000, 0, false, 0⟩] : List Promotion) = old :: rest ∧ 0 < 1 ∧ 1 ≤ (old :: rest).length) := by
  exact ⟨by decide, _, _, rfl, by decide, by decide⟩

/-- The context with its copy of no bytes under way. -/
def wMoving : State := { wOn .L with ctx := { wCtx with xfers := [wCopy] } }
/-- A copy of 32 bytes from an address that no page maps. -/
def wBad : Xfer := (planCopy (wOn .L) (Xfer.blank 1 false 0 .copy (Instr.firstWord (.copyIn Tok.none 1 2 3 false 0)) 32 none false) [0, 0, 32]).xfer
/-- The context with that copy under way. -/
def wFaulting : State := { wOn .L with ctx := { wCtx with xfers := [wBad] } }
theorem witness_TransferAndQuartetEvents_moves : wMoving.focus 1 = some wMoving ∧ wMoving.ctx.xfer wCopy.ref = some wCopy ∧
    wMoving.ctx.runsXfers = true ∧ wCopy.fault = none ∧
    (match wMoving.runXfer wCopy with
      | (t, .ok y) => y.moved && (t.frettedPiece y).isNone && (t.copyfFlag y none).1.answered (t.copyfFlag y none).2 && y.kind != .copyf && y.name.isNone &&
          y.rel.isNone && y.failed.isNone && y.leave == 0 && !t.ctx.isStopped
      | _ => false) = true := ⟨rfl, rfl, rfl, rfl, by decide +kernel⟩
theorem witness_TransferAndQuartetEvents_faults : wFaulting.ctx.xfer wBad.ref = some wBad ∧ wBad.fault = none ∧
    (match wFaulting.runXfer wBad with
      | (_, .error (_, y)) => y.ref == wBad.ref
      | _ => false) = true ∧ ({ wCtx with regs := { wCtx.regs with frozen := true } } : Ctx).isStopped = true := ⟨rfl, rfl, by decide +kernel, by decide +kernel⟩
theorem witness_TransferAndQuartetEvents_flag : wMoving.flagPhys wCopy = (wMoving, .ok none) ∧
    (match wFaulting.flagPhys { wBad with rel := some wFlag } with
      | (_, .error _) => true
      | _ => false) = true ∧ (match (wMap .L).flagPhys { wCopy with rel := some wFlag } with
      | (_, .ok (some _)) => true
      | _ => false) = true ∧ ({ wCopy with kind := .copyf } : Xfer).flagDue = true ∧ (wMoving.answered wCopy) = true := by
  refine ⟨rfl, ?_, ?_, ?_, ?_⟩ <;> decide +kernel
/-- A reduction's piece that has faulted once and is not on the wire. -/
def wPiece : RredPiece := ⟨0, wCopy.ref, 0, false, false, 1, 0, 0, .fp32, .add, [], false, false, 1⟩
theorem witness_TransferAndQuartetEvents_rred : let s : State := { wThr with har := { wThr.har with rred := [wPiece] } }
    s.har.rred.find? (fun p => p.id == 0 && p.faults == 1 && !p.sent) = some wPiece ∧
      (∀ k ∈ s.thr :: s.threads, (k.running && k.rred == some 0) = false) ∧ ∀ e ∈ s.har.queue, e.rred ≠ some 0 := by decide +kernel
/-- The word of member q of quartet 0. -/
def wQ (q : Nat) (seq : BitVec 9) : QuartetWord := ⟨memberCore 0 q, q + 1, 1, Tok.none, .bf16, 0, false, 64, .none, seq, [0, 0, 0, 0], 0⟩
/-- The context of member q. -/
def wQCtx (q : Nat) : Ctx := { wCtx with inst := q + 1, core := memberCore 0 q }
/-- Four heads of which the second has a SEQ of its own. -/
def wJoin (seq : BitVec 9) : State := { wThr with ctx := wQCtx 0, others := [wQCtx 1, wQCtx 2, wQCtx 3], quartet := [wQ 0 0, wQ 1 seq, wQ 2 0, wQ 3 0] }
theorem witness_TransferAndQuartetEvents_join :
    (∀ seq ∈ [(0 : BitVec 9), 1], ∀ p ∈ [(wQ 0 0, wQCtx 0), (wQ 1 seq, wQCtx 1), (wQ 2 0, wQCtx 2), (wQ 3 0, wQCtx 3)].zipIdx,
      (wJoin seq).quartetHead (memberCore 0 p.2) = some p.1.1 ∧ (wJoin seq).findCtx p.1.1.inst = some p.1.2) ∧
    (∀ w ∈ [wQ 1 0, wQ 2 0, wQ 3 0], (wQ 0 0).differs w = none) ∧ (wQ 0 0).differs (wQ 1 1) = some 0 := by
  refine ⟨?_, by decide +kernel, by decide +kernel⟩
  intro seq hs p hp
  simp only [List.zipIdx_cons, List.zipIdx_nil, List.mem_cons, List.not_mem_nil, or_false] at hs hp
  rcases hs with rfl | rfl <;> rcases hp with rfl | rfl | rfl | rfl <;> exact ⟨rfl, rfl⟩

/-- A die whose queue has M's request, under a cap of w watts. -/
def wGov (w : Nat) : State := { wThr with
  ctx := { wCtx with leaves := [⟨.M, 1800, false, false, 0⟩] }
  pkg := { wThr.pkg with preCap := w, governors := wThr.pkg.governors.set 0 { wThr.pkg.governors[0] with queue := [.word 1 .M] } } }
theorem witness_PowerAndTimeEvents : wThr.pkg.ptpLocked = false ∧ ({ wThr.pkg with ptpLocked := true } : PkgSt).ptpLocked = true ∧
    ((wGov 3200).pkg.gov 0).queue = [.word 1 .M] ∧ (wGov 3200).leaveWanted (.word 1 .M) = some (1800, false) ∧ (wGov 3200).leaveWanted (.word 1 .V) = none ∧ (wGov 3200).findCtx 1 = some (wGov 3200).ctx ∧
    (wGov 3200).ctx.leaves.find? (fun r => r.e == .M && !r.granted) = some ⟨.M, 1800, false, false, 0⟩ ∧
    ((wGov 3200).pkg.gov 0).base + ((wGov 3200).pkg.gov 0).grants + 1800 ≤ (wGov 3200).effectiveCap (wGov 3200).cap 0 ∧
    (wGov 1055).effectiveCap (wGov 1055).cap 0 < ((wGov 1055).pkg.gov 0).base + ((wGov 1055).pkg.gov 0).grants + 1800 := by
  refine ⟨rfl, rfl, rfl, by decide +kernel, by decide +kernel, rfl, rfl, by decide +kernel, by decide +kernel⟩

/-- A launch of type 0 in a phase. -/
def wTask (p : TaskPhase) : Task := ⟨7, 0, 0, .word, p, false, [], [], none, none⟩
/-- A package with that task. -/
def wHas (p : TaskPhase) : State := { wTyped 0 0 with har := { (wTyped 0 0).har with tasks := [wTask p] } }
theorem witness_TaskAndHariusEvents_tasks : (wHas .untracked).har.tasks.find? (fun t => t.phase == .untracked) = some (wTask .untracked) ∧
    (wHas .untracked).har.tracked < 8192 ∧ (wHas .scheduled).hasTask 7 (wTask .scheduled) ∧
    (∀ u ∈ (wHas .scheduled).har.tasks, u.asid = 0 → u.inst < 7 → u.phase.tracked = true → (wTask .scheduled).conflicts u = false) ∧
    (wTask .admitted).waiting = true ∧ (wHas .admitted).othersFirst (wTask .admitted) ((wHas .admitted).preferred (wTask .admitted)) = false ∧
    (wHas (.placed 0 0)).hasTask 7 (wTask (.placed 0 0)) ∧ ((wHas (.placed 0 0)).typeEntry (launchType 0)).isSome = true ∧
    (wHas (.placed 0 0)).freeSlots 0 ≠ [] := by
  exact ⟨rfl, by decide +kernel, rfl, by decide +kernel, rfl, by decide +kernel, rfl, by decide +kernel, by decide +kernel⟩
theorem witness_TaskAndHariusEvents_placement : (wHas .admitted).bestCore ((wHas .admitted).eligible ((wHas .admitted).preferred (wTask .admitted))
    ((wHas .admitted).demandOf (wTask .admitted))) = some 0 := by decide +kernel
theorem witness_TaskAndHariusEvents_retire : wThr.canRetire (streamOrder.foldl (fun (c : Ctx) e => c.passEnd e) wCtx) = true := by decide +kernel
/-- A context that was parked on a time already reached, with room on its core. -/
def wParked : State := { wThr with ctx := { wSmall with place := .parked (.time 0) false } }
theorem witness_TaskAndHariusEvents_parked : (wParked.fireWaits.findCtx 1).map (·.place) = some (.parked (.time 0) true) ∧
    (wParked.fireWaits.har.parkOrder.find? fun j => (wParked.fireWaits.findCtx j).any fun d => d.core == 0) = some 1 ∧
    hasSlot (wParked.fireWaits.uses 0) 1 = true := by
  refine ⟨rfl, rfl, by decide +kernel⟩
/-- A checkpointed context and its image. -/
def wCkpt : State := { wTyped 0 0 with
  ctx := { wSmall with inst := 7, place := .checkpointed }
  pkg := { (wTyped 0 0).pkg with pool := [⟨7, 0, wSmall.imageLen⟩] }
  har := { (wTyped 0 0).har with tasks := [wTask .running], ckptOrder := [7] } }
theorem witness_TaskAndHariusEvents_checkpoint : wCkpt.findCtx 7 = some wCkpt.ctx ∧ wCkpt.hasTask 7 (wTask .running) ∧
    wCkpt.poolImage 7 = some ⟨7, 0, wSmall.imageLen⟩ ∧ wCkpt.har.ckptOrder.takeWhile (· != 7) = [] ∧
    wCkpt.bestCore (wCkpt.eligible (wCkpt.preferred (wTask .running)) (1, 0, 2048)) = some 0 := by
  refine ⟨rfl, rfl, rfl, rfl, by decide +kernel⟩
/-- An event with a handler of its own. -/
def wEvent (entry : Option Dword) : Event := ⟨3, 1, 2, 3, 4, 5, 6, entry, none⟩
/-- It waits in the queue. -/
def wWaits (entry : Option Dword) : State := { wThr with har := { wThr.har with queue := [wEvent entry] } }
theorem witness_TaskAndHariusEvents_events : (upTo 512).find? wThr.threadFree = some 0 ∧ (wWaits none).har.queue = [wEvent none] ∧
    wThr.handlerOf (wEvent none) = none ∧ wThr.handlerOf (wEvent (some 0)) = some 0 ∧ (wHas .running).mem.asidState (wHas .running).pkg 0 = 1 := by
  refine ⟨by decide +kernel, rfl, by decide +kernel, rfl, by decide +kernel⟩
theorem witness_TaskAndHariusEvents_rest : ({ wThr with thr := { wThr.thr with running := true } } : State).threadFree 0 = false ∧
    ([⟨4, 0, 7, 1⟩] : List HCopy).find? (fun k => k.id == 4) = some ⟨4, 0, 7, 1⟩ ∧
    ([⟨1, 0, 0, [2, 3], [2], 0, 100⟩] : List Gang).find? (fun g => g.id == 1) = some ⟨1, 0, 0, [2, 3], [2], 0, 100⟩ ∧
    (∀ q ∈ [(2 : Pkg), 3], q = 3 ∨ q ∈ [(2 : Pkg)]) ∧ wThr.pkg.time.toNat ≤ (100 : Dword).toNat := by decide +kernel

/-- A copy of 32 clean bytes by an action of peg 7. -/
def wHCopy : HCopy := ⟨4, BitVec.ofNat 256 (64 * 2 ^ 64 + 32 * 2 ^ 128), 7, 1⟩
theorem witness_TaskAndHariusEvents_copy : wHCopy.raw.getLsbD 160 = false ∧ wHCopy.raw.getLsbD 161 = false ∧
    physForm wThr.mem (wHCopy.raw.extractLsb' 0 64) = .ok ⟨0, 0⟩ ∧ physForm wThr.mem (wHCopy.raw.extractLsb' 64 64) = .ok ⟨64, 0⟩ :=
  ⟨by decide, by decide, rfl, rfl⟩
/-- A gang whose window ends at time 0. -/
def wGang : Gang := ⟨1, 0, 0, [2, 3], [2], 0, 0⟩
theorem witness_TaskAndHariusEvents_gang : (wGang.deadline.toNat ≤ wThr.pkg.time.toNat) ∧ (wGang.members.filter fun p => !wGang.acked.contains p) = [3] ∧
    wThr.pkg.time.toNat < ({ wGang with deadline := 5 } : Gang).deadline.toNat ∧ wThr.typeEntry (launchType 0) = none ∧
    (wTyped 0 0).mem.asidState (wTyped 0 0).pkg 0 = 1 ∧ ((wTyped 0 0).typeEntry (launchType 0)).isSome = true := by decide +kernel
theorem witness_TaskAndHariusEvents_phasers : (∃ ph, (holdSignal wHeld wName 1 wMe).2 = .done ph) ∧
    (∃ c m, (holdSignal [] wName 1 wMe).2 = .fault c m) ∧ (holdWait false wHeld wName 1 wMe).2 = .held := ⟨⟨_, rfl⟩, ⟨_, _, rfl⟩, rfl⟩
/-- A message of 32 bytes from package 1, and an entry that takes every message and writes 64 bytes at most. -/
def wMsg : Message := ⟨some 1, 0, 0, 0, 0, 0, List.replicate 32 7, [false], none⟩
/-- The entry, with an action on arrival or none. -/
def wEntry (deposits : Bool) : BitVec 256 := BitVec.ofNat 256 (2 ^ 79 + 0xFF * 2 ^ 80 + 2 ^ 88 + deposits.toNat * 2 ^ 89 + 1 * 2 ^ 240)
/-- The package with that entry in slot 3. -/
def wArmed (deposits : Bool) : State := { wThr with har := { wThr.har with entries := [(3, wEntry deposits)] } }
theorem witness_TaskAndHariusEvents_messages : (∀ d, (wArmed d).har.matchEntry wMsg = some (3, wEntry d)) ∧ wMsg.via = none ∧
    wThr.net.inflows = [] ∧ wThr.har.entries = [] ∧ wThr.net.bufferFor wMsg = none ∧ (wEntry false).extractLsb' 89 2 = 0 ∧
    (wEntry true).extractLsb' 89 2 = 1 ∧ wThr.physRange 0 32 = .ok wPhys := by
  refine ⟨fun d => by cases d <;> decide +kernel, rfl, rfl, rfl, rfl, by decide, by decide, rfl⟩
theorem witness_TaskAndHariusEvents_inflow : (wThr.mem.keyOf wPhys.slot).isSome = true ∧ runAt 0 32 0 = (0, 32) ∧
    (((⟨[], []⟩ : Landing).arrive 0 0 (List.replicate 32 (7, false))).piece 0 32 0).isSome = true := by decide +kernel
theorem witness_TaskAndHariusEvents_watchdog : ({ wThr with thr := { wThr.thr with waits := true } } : State).thr.ending = false ∧
    ({ wThr with thr := { wThr.thr with waits := true, ending := true } } : State).thr.ending = true ∧ wThr.thr.waits = false := ⟨rfl, rfl, rfl⟩
/-- A read of 8 bytes from another package. -/
def wReq (pa : BitVec 56) : RemoteReq := ⟨1, pa, 0, .read 8⟩
/-- A request of this package on the wire. -/
def wWire (muted : Bool) : Wire := ⟨0, 1, 0, some (.read 8), .sload 1 0, muted, 1, none⟩
theorem witness_FabricEvents : (wReq 0).kind ≠ .probe ∧ wThr.ingressOk (wReq 0).pa 0 = true ∧ wThr.ingressOk (1 <<< 44) 0 = false ∧
    (∀ m, ({ wThr with net := { wThr.net with wires := [wWire m] } } : State).wire 0 = some (wWire m)) ∧ (∀ reason, Reply.accept ≠ .mute reason) ∧
    wThr.pkg.link 0 = .down 0 ∧ (wThr.pkg.ownSet = true → (5 : BitVec 10) = wThr.mem.own) ∧
    ([⟨3, 0, 1, 1, 0, 32, 0, 0xFFFF, [], [], true, false⟩] : List BaseStep).find? (fun b => b.stack == 3) =
      some ⟨3, 0, 1, 1, 0, 32, 0, 0xFFFF, [], [], true, false⟩ ∧
    ((wGov 3200).pkg.gov 1).queue = [] ∧ ((wGov 3200).pkg.gov 1).base + ((wGov 3200).pkg.gov 1).grants + 300 ≤ (wGov 3200).effectiveCap (wGov 3200).cap 1 := by
  refine ⟨by decide, by decide +kernel, by decide +kernel, fun m => rfl, (fun r h => nomatch h), rfl, by decide, rfl, rfl, by decide +kernel⟩
theorem witness_FabricEvents_message : wThr.net.chunksOut = [] ∧ wThr.net.sent = [] ∧ wThr.wire 5 = none ∧
    ([⟨5, 0, 9, true, 0, none, none⟩] : List SentMsg).find? (fun m => m.id == 5 && m.fabric) = some ⟨5, 0, 9, true, 0, none, none⟩ := ⟨rfl, rfl, rfl, rfl⟩
theorem witness_FabricEvents_late : ([(5, (9 : Pkg), true)] : List (Nat × Pkg × Bool)).find? (fun x => x.1 == 5) = some (5, 9, true) ∧
    ([(5, (9 : Pkg), true)] : List (Nat × Pkg × Bool)).all (fun x => x.1 != 5 || x.2.2) = true := ⟨rfl, rfl⟩
/-- A package with link 0 up. -/
def wLinked : PkgSt := { wThr.pkg with links := wThr.pkg.links.set 0 .up }
theorem witness_FabricEvents_links : wLinked.link 0 = .up ∧ (wLinked.setLink 0 (.down 0)).linked = false ∧ (({ wLinked with links := wLinked.links.set 1 .up } : PkgSt).setLink 0 (.down 0)).linked = true ∧
    (({ wThr with pkg := wLinked } : State).linkDrop 0).pkg.link 0 = .down 0 ∧ wThr.pkg.link 0 ≠ .up := by
  refine ⟨rfl, ?_, ?_, ?_, ?_⟩
  · decide +kernel
  · decide +kernel
  · decide +kernel
  · exact fun h => nomatch h
theorem witness_FabricEvents_replies : ∃ c l, (let s : State := { wTgt with ctx := { wCtx with loads := [⟨0, 3, some 6, true⟩] } }
    s.findCtx 1 = some c ∧ c.loads.find? (fun l => l.req == (wWire false).id) = some l ∧ l.mode = some 6) := ⟨_, _, rfl, rfl, rfl⟩
/-- A graph of a receiving node with a probe period, whose peer is package 1. -/
def wRecv : Graph := ⟨0, 10, [0, 0, 0, 0], [BitVec.ofNat 256 (2 + 1 <<< 32 + 32 <<< 128)], 1, [], [], [], 0⟩
/-- A chunk of 32 bytes for it. -/
def wChunk (gen : Word) : Chunk := ⟨1, 0, 0, gen, List.replicate 32 0, [false]⟩
theorem witness_FabricEvents_chunks : ∃ d, wRecv.node 0 = some d ∧ d.kind = 2 ∧ d.peer = (wChunk 1).src ∧ d.len = (wChunk 1).data.length ∧
    (wChunk 1).gen = wRecv.gen ∧ 0 ∉ wRecv.taken ∧ 0 ∉ wRecv.done ∧ wThr.ingressFull wRecv d (wChunk 1) false = false ∧
    2 ^ 31 ≤ ((wChunk 0).gen - wRecv.gen).toNat ∧ (0 < ((wChunk 2).gen - wRecv.gen).toNat ∧ ((wChunk 2).gen - wRecv.gen).toNat < 2 ^ 31) ∧
    (1 : Pkg) ≠ wThr.mem.own := by
  refine ⟨_, rfl, by decide +kernel, by decide +kernel, by decide +kernel, rfl, by decide, by decide, by decide +kernel, by decide, by decide, by decide⟩
theorem witness_FabricEvents_step : (∃ t o, redOf (natField (0 : Byte).toNat 2 2) (natField (0 : Byte).toNat 0 2) = some (t, o)) ∧
    wThr.physRange 0 32 = .ok wPhys ∧ ([⟨6, 0, 0, 1, 1, wChunk 1, none⟩] : List SentChunk).find? (fun c => c.id == 6) = some ⟨6, 0, 0, 1, 1, wChunk 1, none⟩ := ⟨⟨_, _, rfl⟩, rfl, rfl⟩
theorem witness_FabricEvents_probe : (match wRecv.node 0 with
    | some d => d.kind == 2 && d.peer != wThr.mem.own && !wRecv.done.contains 0 && wRecv.probe != 0
    | none => false) = true := by decide +kernel

/-- The package with a region of 64 bytes at 0 that grants everything, live or not. -/
def wRegion (live : Bool) : State := { wThr with net := { wThr.net with regions := [⟨0, 0, 0, 0, 64, 7, live, some 1⟩] } }
/-- A way here, unordered or ordered. -/
def wVia (ordered : Bool) (psn : Nat) : Via := ⟨0, 5, 0, 1, 0, ordered, 0, 9, psn⟩
/-- An RMA read of 8 bytes. -/
def wRma : RmaReq := ⟨wVia false 0, 0, 0, 8, 0, .read⟩
theorem witness_NetworkEvents_rma : (∃ g, (wRegion true).rmaCheck wRma = .ok g) ∧ (∃ r, (wRegion false).rmaCheck wRma = .error r) ∧ (∃ r, wThr.rmaCheck wRma = .error r) :=
  ⟨⟨_, rfl⟩, ⟨_, rfl⟩, ⟨_, rfl⟩⟩
theorem witness_NetworkEvents_receiver : (wRegion true).net.inflows = [] ∧ ((wRegion true).net.receiver (wVia false 0)).resident = true ∧
    (∃ t, ((wRegion true).net.receiver (wVia false 0)).take 0 1 = .ok t) ∧ ((wRegion true).net.receiver (wVia false 0)).bad = [] ∧
    ((wRegion true).net.receiver (wVia true 1)).ordered = true ∧ 1 ≠ ((wRegion true).net.receiver (wVia true 1)).expect :=
  ⟨rfl, rfl, ⟨_, rfl⟩, rfl, rfl, by decide⟩
/-- The package with port 0 up and enabled. -/
def wPort : Net := { wThr.net with portsUp := [0], ports := [(0, 1)] }
theorem witness_NetworkEvents_ports : wPort.portRuns 0 = true ∧ wThr.net.portRuns 0 = false ∧ wPort.carries 0 = true ∧ wThr.net.carries 0 = false ∧
    wPort.answers.all (fun x => x.1 != 0) = true ∧ (wVia false 0).port = 0 ∧ (wVia false 0).tc = 0 := by decide +kernel
/-- A transport context with a packet that has timed out seven times. -/
def wTc (ordered resident : Bool) : Transport := ⟨3, .to 0, 0, ordered, 0, resident, 1, [⟨0, 5, 7, false⟩], 0, [], [], []⟩
theorem witness_NetworkEvents_transports : (∀ o r, ([wTc o r].find? fun t => t.id == 3) = some (wTc o r)) ∧
    (wTc true true).packets.find? (fun p => p.psn == 0) = some ⟨0, 5, 7, false⟩ ∧ 7 ≤ 7 ∧ (wTc true false).held = [] ∧
    (∀ p ∈ (wTc true true).packets, p.due = false) := ⟨fun o r => rfl, rfl, by decide, rfl, by decide⟩
/-- An operation of endpoint 4 whose one packet has left. -/
def wOp (k : RmaOpKind) : RmaOp := ⟨0, k, 0, 4, 0, 0, 0, none, 0, 0, 0, 1, 1, [], ⟨[], []⟩, none⟩
theorem witness_NetworkEvents_operations : ∀ k ∈ [RmaOpKind.write, .read, .add, .cas], ([wOp k].find? fun o => o.id == 0) = some (wOp k) ∧
    (wOp k).ended = none ∧ (wOp k).packets ≤ (wOp k).sent ∧ (wOp k).sent ≠ 0 ∧ ({ wOp k with sent := 0 } : RmaOp).sent < (wOp k).packets := by decide
theorem witness_NetworkEvents_revoke : wThr.revokeBusy ⟨1, .region, 0, 0, 0xFFFF⟩ = false ∧
    ({ wThr with net := { wThr.net with ops := [wOp .read] } } : State).revokeBusy ⟨1, .endpoint, 0, 4, 0xFFFF⟩ = true := by decide +kernel
/-- A command of an object on drive 2. -/
def wCmd (w : Bool) (n : Nat) : NvmeCmd := ⟨6, wCopy.ref, 0, 1, 2, 1, 0, 0, 512, w, false, [], n⟩
/-- The object and drive 2 as they stand. -/
def wStore : Net := { wThr.net with drives := [2], objects := [⟨1, 0, 2, 1, 0, 1, 3, false, true⟩], nvme := [wCmd false 0] }
theorem witness_NetworkEvents_storage : wStore.nvme.find? (fun c => c.id == 6) = some (wCmd false 0) ∧ wStore.pathState (wCmd false 0).path = .up ∧
    2 ∉ wStore.deadDrives ∧ (wCmd false 0).retries < 3 ∧ 3 ≤ (wCmd true 3).retries := by decide +kernel
theorem witness_NetworkEvents_signature : ({ wThr.net with signs := [⟨0, 0, 0, 0xFFFF, none⟩] } : Net).signs = (⟨0, 0, 0, 0xFFFF, none⟩ : SignReq) :: [] ∧
    (wThr.mem.keyOf 0).isSome = true ∧
    (⟨0, 0, 0, 0xFFFF, none⟩ : SignReq).reply = none := ⟨rfl, by decide, rfl⟩
/-- The package that waits for an image. -/
def wBoot : State := { wThr with pkg := { wThr.pkg with bootState := 1 } }
theorem witness_BootAndManagementEvents : wBoot.pkg.bootState = 1 ∧ wThr.pkg.bootState = 0 ∧ (wThr.mem.keyOf 0).isSome = true ∧ (0 : Dword) ≠ 0x5A5A ∧ wThr.pkg.bootState ≠ 1 ∧
    (∃ i, wBoot.imageCheck (wBoot.image 0) = (1, i)) ∧ (wLive 0 0).pkg.started = true ∧ (wLive 0 0).pkg.hostMsgs.length < 64 ∧
    (ringOk 16 = true ∧ wThr.pkg.hrhead - wThr.pkg.hrtail ≠ 16) ∧ ({ wThr.pkg with mailbox := [[0]] } : PkgSt).mailbox = [0] :: [] := by
  refine ⟨rfl, rfl, rfl, by decide, by decide, ⟨0, by decide +kernel⟩, rfl, by decide +kernel, by decide, rfl⟩

/-! Registers, tokens, streams, and the machine as a whole -/

/-- Four earlier values of s3 that a stream behind S still reads. -/
def wOld : Ctx := { (wCtx.onStream .S fun st => { st with pos := 4 }) with
  hist := [(0, 3, ⟨0, false⟩), (1, 3, ⟨1, false⟩), (2, 3, ⟨2, false⟩), (3, 3, ⟨3, false⟩)], streams := { wCtx.streams with s := { wCtx.streams.s with pos := 4 } } }
/-- V stands behind each of the writes but the last. -/
def wSpread : Ctx := { wOld with streams := { wOld.streams with
  l := { wOld.streams.l with pos := 1 }, m := { wOld.streams.m with pos := 2 }, v := { wOld.streams.v with pos := 3 }, w := { wOld.streams.w with pos := 4 } } }
theorem witness_HardwiredAndTextOrderedRegisters : (wOld.stream .V).inact = false ∧ (wOld.stream .V).pos ≤ wOld.streams.s.pos ∧
    ((wFirst 1).streams.s.pos < ((wFirst 1).stream .L).pos ∧ (∀ h ∈ (wFirst 1).hist, h.2.1 = 3 → h.1 < 1) ∧ (wFirst 1).pending 3 = false) ∧
    wSpread.pending 3 = false ∧ wSpread.versionsFull 3 = true ∧ ({ wOn .S with ctx := wSpread } : State).issues .S Tok.none :=
  ⟨rfl, by decide, by decide, rfl, by decide, And.intro rfl (And.intro rfl (And.intro rfl rfl))⟩
/-- A word that pops both its counters. -/
def wPop : Tok := ⟨true, false, true, false⟩
theorem witness_TokensWaitPushAndOverflow : (∀ e ∈ [StreamId.S, .L, .M, .V, .W], popReady (wOn e).ctx.tok e wPop = false ∧
      (wOn e).ctx.issued.all (·.e != e) = true) ∧
    (wOn .S).agent = .stream .S ∧ (wOn .S).sWaits [1, 2] = false ∧ (wOn .S).dstReady 3 ∧
    (tokGet (wOn .S).ctx.tok 0 + ((wOn .S).ctx.loads.filter (·.push)).length ≠ tokGet (wOn .S).ctx.regs.tokCeil 0) ∧
    (let c : Ctx := { wCtx with regs := { wCtx.regs with tokCeil := 0 } }
     tokGet c.tok 0 + (c.loads.filter (·.push)).length = tokGet c.regs.tokCeil 0) := ⟨by decide +kernel, rfl, rfl, w_dst, by decide, by decide⟩

/-- The context with a turn of stream e owed, at a word. -/
def wTurn (e : StreamId) (w : Word) : State := { wOn .S with mem := wMem.bench w 0, agenda := [.word 1 e] }
/-- What a turn of a stream asks for: it runs, its word is there, and the window holds it not. -/
def wFetches (s : State) (e : StreamId) (w : Word) : Bool :=
  match s.nextTurn with
  | (t, u) => t == .word 1 e && !u.pkg.stopped && match u.focus 1 with
    | some t => t.ctx.runs e && match ({ t with agent := .stream e } : State).codeAt (t.ctx.stream e).pc with
      | (v, .ok x) => x.1 == w && (v.ctx.slipHolds e (wordSize w)).isNone
      | _ => false
    | none => false
theorem witness_StreamsPassStopAndTrap_passes : wFetches (wTurn .L 0x0000C100) .L 0x0000C100 = true ∧
    ownerOf (Engine.ofCode (Header.unpack 0x0000C100).eng) ≠ .L ∧ Engine.ofCode (Header.unpack 0x0000C100).eng ≠ .A := by decide +kernel
theorem witness_StreamsPassStopAndTrap_own : wFetches (wTurn .S 0x01FC0000) .S 0x01FC0000 = true ∧ wFetches (wTurn .S 0xA0000838) .S 0xA0000838 = true ∧
    Engine.ofCode (Header.unpack 0xA0000838).eng = .N ∧ wFetches (wTurn .S 0xE0000001) .S 0xE0000001 = true := by decide +kernel
theorem witness_StreamsPassStopAndTrap_stops : wTrap.regs.trapped = true ∧ wTrap.finishing .S = false ∧ (wOn .S).ctx.regs.trapped = false ∧
    (match ({ wOn .S with agent := .stream .L } : State).codeAt 0 with
      | (_, .error _) => true
      | _ => false) = true ∧
    ((wFirst 5000).onStream .L fun st => { st with pos := 5000 }).slipHolds .L 1 = some 2 := by decide +kernel
/-- A trap that follows a word of the stream, with a load of S and a job of M outstanding or nothing. -/
def wLate (e : StreamId) (busy : Bool) : Ctx := { wCtx with
  late := [(e, ⟨0x10, 0, none, none, none⟩)], loads := if busy then [⟨0, 3, some 6, true⟩] else [], jobs := if busy then [wJob] else [] }
theorem witness_StreamsPassStopAndTrap_follows : ∀ e ∈ [StreamId.S, .M], ∀ busy, (wLate e busy).runs e = true ∧
    ((wLate e busy).late.find? (·.1 == e)).isSome = true ∧ (busy = true → (wLate e busy).loads ≠ [] ∧ (wLate e busy).jobs ≠ []) := by decide +kernel
theorem witness_StreamsPassStopAndTrap_eret : wFetches (wTurn .S (Instr.firstWord .eret)) .S (Instr.firstWord .eret) = true ∧
    Engine.ofCode (Header.unpack (Instr.firstWord .eret)).eng = .A ∧ (Header.unpack (Instr.firstWord .eret)).op = 9 ∧
    (wOn .S).ctx.late = [] ∧ (wOn .S).ctx.midWord .S = false ∧ ({ wCtx with place := .saved } : Ctx).runs .S = false := by decide +kernel
theorem witness_StreamsPassStopAndTrap_slow : ownerOf (Engine.ofCode (Header.unpack (Instr.firstWord (.vadd Tok.none .i32 1 2 3))).eng) = .V ∧
    (Header.unpack (Instr.firstWord (.vadd Tok.none .i32 1 2 3))).op < 0x50 ∧
    (0x50 ≤ (Header.unpack (Instr.firstWord (.vlds Tok.none 1 2 3 0))).op ∧ (Header.unpack (Instr.firstWord (.vlds Tok.none 1 2 3 0))).op ≤ 0x56) := by decide
theorem witness_ThreadStartsWithItsEvent : (wWaits (some 64)).har.queue = [wEvent (some 64)] ∧ (upTo 512).find? (wWaits (some 64)).threadFree = some 0 ∧
    (wWaits (some 64)).handlerOf (wEvent (some 64)) = some 64 := ⟨rfl, by decide +kernel, rfl⟩
/-- A context whose REMAIN_EST is n. -/
def wRemain (n : BitVec 48) : Ctx := { wSmall with regs := { wSmall.regs with remain := n } }
theorem witness_PreemptionRegistersAndPolicy : wThr.agent = .thread ∧ wThr.readS 3 = .ok ⟨0, false⟩ ∧ (wRemain 5).regs.remain.toNat ≤ wThr.har.drainLimit.toNat ∧
    wThr.har.drainLimit.toNat < (wRemain 60000).regs.remain.toNat ∧ (2000 + (16384 + 20480 + wSmall.scrBytes + 16384 * wSmall.tiles + 127) / 128) * 4 ≤ 60000 ∧
    60000 < (2000 + (16384 + 20480 + wCtx.scrBytes + 16384 * wCtx.tiles + 127) / 128) * 4 := ⟨rfl, rfl, by decide, by decide, by decide, by decide⟩
theorem witness_WellFormedWordsRoundTrip : (Instr.vcvt Tok.none .bf16 8 2 false .rne true .fp4e2).wellFormed = true ∧
    (Instr.vcvt Tok.none .bf16 8 2 false .rne true .fp4e2).isWord = true := by decide
theorem witness_DecodedWordsAreWellFormed : decodeWord 0x60C10204 0x34 = .ok (.vcvt Tok.none .bf16 8 2 false .rne true .fp4e2) := rfl

/-- The word that the bench places runs: it is fetched, decodes and answers a next state. -/
def wRuns (s : State) (i : Instr) : Bool :=
  match s.nextTurn with
  | (.word n e, u) => match u.focus n with
    | some t => t.ctx.runs e && match ({ t with agent := .stream e } : State).codeAt (t.ctx.stream e).pc with
      | (v, .ok x) => (v.ctx.slipHolds e (wordSize x.1)).isNone && decide (ownerOf (Engine.ofCode (Header.unpack x.1).eng) = e) &&
          Engine.ofCode (Header.unpack x.1).eng != .N && (match decodeWord x.1 x.2 with
            | .ok j => decide (j = i)
            | .error _ => false) && match exec i v with
          | .next _ => true
          | _ => false
      | _ => false
    | none => false
  | (.thread n, u) => !u.threadFree n && match ({ u.focusThread n with agent := .thread } : State).codeAt (u.focusThread n).thr.pc with
    | (v, .ok x) => (Header.unpack x.1).tok == 0 && !computeOnly (Engine.ofCode (Header.unpack x.1).eng) (Header.unpack x.1).op.toNat ⟨(Header.unpack x.1).ops⟩ &&
        (match decodeWord x.1 x.2 with
          | .ok j => decide (j = i)
          | .error _ => false) && match exec i v with
        | .next _ => true
        | _ => false
    | _ => false
  | _ => false
theorem witness_StepRunsTheDecodedInstruction_stream : wRuns (State.reset.withFetchWord 32 0x0000C100) (.add Tok.none 6 1 0) = true := by decide +kernel
theorem witness_StepRunsTheDecodedInstruction_thread : wRuns (State.reset.withFetchWord 32 (Instr.firstWord (.pegrd 3 1 .thr)).toNat) (.pegrd 3 1 .thr) = true := by
  decide +kernel
/-- A context in the middle of an MMAR that has issued, as its word was fetched. -/
def wMid : Ctx := { (wHolds none).ctx with words := [(.M, Instr.firstWord (.mmar Tok.none .bf16 0 2 4 false 64 .none 0), 0)] }
theorem witness_StepRunsTheDecodedInstruction_middle : wMid.runs .M = true ∧ wMid.late = [] ∧ wMid.midWord .M = true ∧
    (∃ w, wMid.words.find? (·.1 == .M) = some (.M, w, 0)) ∧ wMid.slipHolds .M 2 = none := by
  exact ⟨by decide +kernel, rfl, by decide +kernel, ⟨_, rfl⟩, by decide +kernel⟩
theorem witness_StepRunsTheDecodedInstruction_array : ({ wOn .M with agenda := [.array 1 0] } : State).nextTurn.1 = .array 1 0 ∧
    ({ wOn .M with agenda := [.array 1 0] } : State).nextTurn.2.pkg.stopped = false := ⟨rfl, rfl⟩
theorem witness_StepRunsTheDecodedInstruction_piece : ({ wOn .V with agenda := [.piece 1 .V] } : State).nextTurn = (.piece 1 .V, { wOn .V with agenda := [] }) ∧ (wOn .V).pkg.stopped = false ∧
    ∃ x, (({ wOn .V with agenda := [] } : State).onCtx 1 fun c => { c with slow := true }).turn (.word 1 .V) = .next x := by
  refine ⟨rfl, rfl, ?_⟩
  exact ⟨_, rfl⟩
theorem witness_StepRunsTheDecodedInstruction_thread_text : wThr.agent = .thread ∧ wThr.access 0 .fetch 1 = (wThr, .ok wZero) ∧ wThr.remote wZero = false :=
  ⟨rfl, w_access .fetch 1, rfl⟩
/-- Whether the word at the context's text is held in the instruction cache after a fetch of it, or before. -/
def wHeldLine (s : State) : Bool := match s.access 0 .fetch 1 with
  | (v, .ok g) => decide (g.phys.off % 64 ≤ 60) && (v.mem.codeFind v.ctx.core (g.phys.off / 64) (v.mem.key g.phys.slot)).isSome
  | _ => false
theorem witness_StepRunsTheDecodedInstruction_cache : (wHeldLine (wMap .S), wHeldLine ((wMap .S).codeWord 0).1) = (false, true) := by decide +kernel
theorem witness_StepRunsTheDecodedInstruction_event : (State.reset.nextTurn).1 = .event .packageReset ∧ (State.reset.nextTurn).2.pkg.stopped = false ∧
    Instr.packageReset.isWord = false := ⟨rfl, rfl, by decide⟩
theorem witness_StepRunsTheDecodedInstruction_fetch : (match (wMap .S).access 0 .fetch 1 with
    | (v, .ok g) => !v.remote g
    | _ => false) = true := by decide +kernel
theorem witness_MemoryReadsAfterWrites : wMem.wf = true ∧ (∀ x, wMem.l1Find 0 0 = some x → x.key = 1) ∧
    (∀ x ∈ ([(31, 7)] : List (Nat × Byte)), x.1 < 32) ∧ 56 % 64 + 8 ≤ 64 ∧
    (wMem.l1.filter (·.core == 0)).length < 1024 := ⟨by decide +kernel, (fun x h => nomatch h), by decide, by decide, by decide⟩
theorem witness_StepKeepsMemoryAndSplits : State.reset.safe = true ∧ ∃ t, step State.reset = .next t := by
  refine ⟨by decide +kernel, _, rfl⟩

/-! Small steps, with results that the spec works out -/

/-- The outcome's state, or the one before. -/
def after (s : State) (i : Instr) : State := match exec i s with
  | .next t => t
  | _ => s
/-- S of the context, with values in s1, s2 and s3. -/
def withS (x y z : Dword) : State := { wOn .S with ctx := { wCtx with
  sf := ((wCtx.sf.setS 1 ⟨x, false⟩).setS 2 ⟨y, false⟩).setS 3 ⟨z, false⟩ } }
/-- What s3 holds after a word of S. -/
def s3 (i : Instr) (x y z : Dword) : Dword := ((after (withS x y z) i).ctx.sf.getS 3).v

-- R130: modulo 2^64
theorem test_add_wraps : s3 (.add Tok.none 3 1 2) (-1) 1 0 = 0 := by decide +kernel
-- R130: `MULH` of −1 and −1 and `MULHU` of the same
theorem test_mulh : (s3 (.mulh Tok.none 3 1 2) (-1) (-1) 0, s3 (.mulhu Tok.none 3 1 2) (-1) (-1) 0) = (0, 0xFFFFFFFFFFFFFFFE) := by decide +kernel
-- R134's table
theorem test_div : ([(7, 0), (-7, 2), (7, -2), (0x8000000000000000, -1)].map fun p => s3 (.div Tok.none 3 1 2) p.1 p.2 0) =
    [-1, -3, -3, 0x8000000000000000] := by decide +kernel
theorem test_rem : ([(7, 0), (-7, 2), (7, -2), (0x8000000000000000, -1)].map fun p => s3 (.rem Tok.none 3 1 2) p.1 p.2 0) = [7, -1, 1, 0] := by decide +kernel
theorem test_divu : ([(7, 0), (-7, 2), (7, -2), (0x8000000000000000, -1)].map fun p => s3 (.divu Tok.none 3 1 2) p.1 p.2 0) =
    [-1, 0x7FFFFFFFFFFFFFFC, 0, 0] := by decide +kernel
theorem test_remu : ([(7, 0), (-7, 2), (7, -2), (0x8000000000000000, -1)].map fun p => s3 (.remu Tok.none 3 1 2) p.1 p.2 0) =
    [7, 1, 7, 0x8000000000000000] := by decide +kernel
-- R131, R132: the count is y[5:0]; 64 zeros
theorem test_shra_count : s3 (.shra Tok.none 3 1 2) 0x8000000000000000 0x43 0 = 0xF000000000000000 := by decide +kernel
theorem test_clz_zero : s3 (.clz Tok.none 3 1) 0 0 5 = 64 := by decide +kernel
-- R137: the literal is sign-extended
theorem test_movw : s3 (.movw Tok.none 3 0x80000000) 0 0 0 = 0xFFFFFFFF80000000 := by decide +kernel
-- R142: one rounding, and two
theorem test_ffma_rounds_once : s3 (.ffma Tok.none 3 1 2) 0x3F800001 0x3F7FFFFE 0xBF800000 = 0xA8800000 := by decide +kernel
theorem test_ffma_exact_raises_nothing : (after (withS 0x3F800001 0x3F7FFFFE 0xBF800000) (.ffma Tok.none 3 1 2)).ctx.ieee =
    (wOn .S).ctx.ieee := by decide +kernel
theorem test_fmul_rounds : s3 (.fmul Tok.none 3 1 2) 0x3F800001 0x3F7FFFFE 0 = 0x3F800000 := by decide +kernel
-- R145: FCVTIF.i64.rz of 2^24 + 1
theorem test_fcvtif_rz : s3 (.fcvtif Tok.none 3 1 false false .rz) (2 ^ 24 + 1) 0 0 = 0x4B800000 := by decide +kernel
-- R35: a write to s0 is discarded
theorem test_s0_discards : ((after (withS 5 6 7) (.add Tok.none 0 1 2)).ctx.sf.getS 0).v = 0 := by decide +kernel
-- R78, R146: a SETS of IEEE_FLAGS clears what has been raised when it takes effect, and nothing that is raised after it
/-- Flags of a context in which V raises NV and S clears every flag, in one order or the other. -/
def flagsAfterSets (first : Bool) : Flags :=
  let setsS := fun (c : Ctx) => c.setOwn 0 0x006 0x3F
  (if first then setsS ((wOn .S).ctx.raise 1) else (setsS (wOn .S).ctx).raise 1).ieee
theorem test_sets_flags : (flagsAfterSets true, flagsAfterSets false) = (0, 1) := by decide +kernel
-- R421: a host message before START is dropped and counted
theorem test_early_host_message : (match exec (.hostMessage 0) State.reset with
    | .next t => (t.pkg.hostMsgs.length, t.mem.counter t.pkg 44)
    | _ => (9, 9)) = (0, 1) := by decide +kernel
-- R123: TRAP traps its context, and S stands at the word
theorem test_trap_stops : ((after (wOn .S) (.trap 5)).ctx.regs.trapped, ((after (wOn .S) (.trap 5)).ctx.stream .S).pos) = (true, 0) := by decide +kernel
-- R34: an N word on S traps ILLEGAL_ENGINE, 0x02
theorem test_n_word_on_s : ((after (wOn .S) (.nrand 3)).ctx.record.map fun r => r.trap.cause) = some 0x02 := by decide +kernel
-- R61 and R74: 500 quantised to fp8e4 saturates to 448
theorem test_fp8e4_saturates : (convert .fp32 .fp8e4 .rne false 0 0x43FA0000).1 = 0x7E := by decide +kernel
/-- R76's conversion of three fp32 elements to bf16 by SR, from STATE 1; elements 0 and 2 lie in v4, element 1 in v5 (R89). -/
def stochastic : Ctx := (after { wOn .V with ctx := { wCtx with
  v := (wCtx.v.set 4 ⟨0x3F80C0003F80C000, 0⟩).set 5 ⟨0x3F80C000, 0⟩, m := wCtx.m.set 1 ⟨7, false⟩, msel := 1 } } (.vcvt Tok.none .bf16 3 4 false .sr true .fp32)).ctx
-- R76: STATE ends at the third draw, and the elements
theorem test_stochastic_state : stochastic.regs.lfsr = 0x9DCCA8C5 := by decide +kernel
theorem test_stochastic_results : ([0, 1, 2].map fun i => ((stochastic.getV 3).elem 16 i).code) = [0x3F80, 0x3F80, 0x3F81] := by decide +kernel
-- R360's ranges: the launch (3, 1, 0) writes 128 KiB from 0x3000_4016_0000
theorem test_footprint : templateRange 0x04090002 (3, 1, 0) 0x300040000800 = (0x300040160000, 0x20000) := by decide +kernel
-- R11: member numbers
theorem test_quartet : memberOf (2 * 128 + 53) = 3 := by decide +kernel
-- a store and a load of the same doubleword, on a thread (R161, R174)
theorem test_store_then_load : let s := after { wThr with thr := { wThr.thr with sf := wThr.thr.sf.setS 4 ⟨0x1122334455667788, false⟩ } } (.stg Tok.none 4 1 0 3)
    ((after s (.ldg Tok.none 5 1 0 6)).thr.sf.getS 5).v = 0x55667788 := by decide +kernel
-- the digest of "abc" (FIPS 180-4)
theorem test_sha256 : digestBits (sha256 [0x61, 0x62, 0x63]) = BitVec.ofNat 256 (leNat
    [0xba, 0x78, 0x16, 0xbf, 0x8f, 0x01, 0xcf, 0xea, 0x41, 0x41, 0x40, 0xde, 0x5d, 0xae, 0x22, 0x23, 0xb0, 0x03, 0x61, 0xa3, 0x96, 0x17, 0x7a, 0x9c,
     0xb4, 0x10, 0xff, 0x61, 0xf2, 0x00, 0x15, 0xad]) := by decide +kernel
end Sys2Proof.Tests
end

section
/-!
PROOFS. Settles O56. What a turn fetches (R27, R30, R458), and the step of each kind of turn (R22, R107).
-/

namespace Sys2Proof.Machine

/-! The bytes of a fetched word (R2) -/

/-- Byte i of a little-endian number is element i of its list, or 0 beyond the list. -/
theorem leNat_div_mod (l : List Byte) (i : Nat) : leNat l / 256 ^ i % 256 = (l.getD i 0).toNat := by
  induction l generalizing i with
  | nil => simp [leNat]
  | cons b l ih =>
    have hb := b.isLt
    cases i with
    | zero => simp only [leNat, Nat.pow_zero, Nat.div_one, List.getD_cons_zero]; omega
    | succ i =>
      have hdiv : (b.toNat + 256 * leNat l) / 256 = leNat l := by omega
      rw [leNat, Nat.pow_succ', ← Nat.div_div_eq_div_mul, hdiv, ih, List.getD_cons_succ]

/-- A byte of a bit string made from a byte list. -/
theorem extract_ofNat_leNat {n : Nat} (l : List Byte) (i : Nat) (h : 8 * i + 8 ≤ n) :
    (BitVec.ofNat n (leNat l)).extractLsb' (i * 8) 8 = l.getD i 0 := by
  apply BitVec.eq_of_toNat_eq
  rw [← leNat_div_mod, BitVec.extractLsb'_toNat, BitVec.toNat_ofNat, Nat.shiftRight_eq_div_pow, show 2 ^ (i * 8) = 256 ^ i by
    rw [Nat.mul_comm, Nat.pow_mul], show n = i * 8 + (n - i * 8) by omega, Nat.pow_add, show 2 ^ (i * 8) = 256 ^ i by rw [Nat.mul_comm, Nat.pow_mul],
    Nat.mod_mul_right_div_self]
  exact Nat.mod_mod_of_dvd _ (Nat.pow_dvd_pow 2 (show 8 ≤ n - i * 8 by omega))

/-- The bytes of a word made from four bytes are those. -/
theorem wordBytes_ofNat_leNat {l : List Byte} (h : l.length = 4) : wordBytes (BitVec.ofNat 32 (leNat l)) = l := by
  match l, h with
  | [a, b, c, d], _ =>
    simp only [wordBytes]
    rw [extract_ofNat_leNat (n := 32) _ 0 (by decide), extract_ofNat_leNat (n := 32) _ 1 (by decide), extract_ofNat_leNat (n := 32) _ 2 (by decide),
      extract_ofNat_leNat (n := 32) _ 3 (by decide)]
    rfl

@[simp] theorem length_hbmBytes (m : Memory) (key a n : Nat) : (m.hbmBytes key a n).length = n := by simp [Memory.hbmBytes]

/-! The instruction cache (R14, R458) -/

/-- A line just taken is found. -/
theorem codeFind_codePut (m : Memory) (x : CodeLine) (p : CodeLine → Bool) :
    ((m.codePut x p).codeFind x.core x.line x.key).isSome = true := by
  simp [Memory.codePut, Memory.codeFind]

/-- The instruction cache holds no memory of its own. -/
@[simp] theorem codePut_hbm (m : Memory) (x : CodeLine) (p : CodeLine → Bool) : (m.codePut x p).hbm = m.hbm := by
  unfold Memory.codePut
  dsimp only
  split
  · rfl
  · split <;> rfl

/-- The checks of an access leave whose turn it is. -/
@[simp] theorem access_agent (s : State) (a : Dword) (k : AKind) (n : Nat) : (s.access a k n).1.agent = s.agent := by
  unfold State.access
  repeat' split
  all_goals simp_all

/-- Bytes of a line as memory holds it, where they lie in the line. -/
theorem elems_of_line (m : Memory) (key off : Nat) (h : off % 64 ≤ 60) :
    ((upTo 4).map fun i => elem 8 (BitVec.ofNat 512 (leNat (m.hbmBytes key (off / 64 * 64) 64))) (off % 64 + i)) = m.hbmBytes key off 4 := by
  apply List.map_congr_left
  intro i hi
  have hi : i < 4 := by simpa using hi
  rw [elem, extract_ofNat_leNat _ _ (by omega), Memory.hbmBytes, List.getD_eq_getElem?_getD,
    List.getElem?_eq_getElem (by simp only [List.length_map, List.length_range]; omega), Option.getD_some]
  simp only [List.getElem_map, List.getElem_range]
  congr 1
  omega

/-- The text of a thread is read through the die caches. -/
theorem codeWord_thread {s v : State} {a : Dword} {g : Global} (h : s.access a .fetch 1 = (v, .ok g)) (hr : v.remote g = false)
    (ha : s.agent = .thread) : s.codeWord a =
      (v.setMem (v.mem.endLeases g.phys.off 4), .ok (BitVec.ofNat 32 (leNat (v.mem.hbmBytes (v.mem.key g.phys.slot) g.phys.off 4)))) := by
  have hv : v.agent = .thread := by rw [← ha, ← access_agent s a .fetch 1, h]
  simp only [State.codeWord, h, hr, Bool.false_eq_true, if_false]
  split
  · simp_all
  · rfl

/-- The text of a context comes from `State.textBytes`. -/
theorem codeWord_stream {s v : State} {a : Dword} {g : Global} {e : StreamId} (h : s.access a .fetch 1 = (v, .ok g)) (hr : v.remote g = false)
    (ha : s.agent = .stream e) : s.codeWord a = ((v.textBytes g).1, .ok (BitVec.ofNat 32 (leNat (v.textBytes g).2))) := by
  have hv : v.agent = .stream e := by rw [← ha, ← access_agent s a .fetch 1, h]
  simp only [State.codeWord, h, hr, Bool.false_eq_true, if_false]
  split
  · rfl
  · simp_all

/-- Text that straddles two lines is read through the die caches. -/
theorem textBytes_straddling {v : State} {g : Global} (h : 60 < g.phys.off % 64) : v.textBytes g =
    (v.setMem (v.mem.endLeases g.phys.off 4), v.mem.hbmBytes (v.mem.key g.phys.slot) g.phys.off 4) := by
  simp only [State.textBytes, if_pos h]
  rfl

/-- Text in a line that the instruction cache holds is taken from there. -/
theorem textBytes_held {v : State} {g : Global} {x : CodeLine} (h : g.phys.off % 64 ≤ 60)
    (hx : v.mem.codeFind v.ctx.core (g.phys.off / 64) (v.mem.key g.phys.slot) = some x) :
    v.textBytes g = (v, (upTo 4).map fun i => elem 8 x.data (g.phys.off % 64 + i)) := by
  simp [State.textBytes, if_neg (Nat.not_lt.mpr h), hx]

/-- Text in any other line is that of memory, and the instruction cache then holds the line. -/
theorem textBytes_missing {v : State} {g : Global} (h : g.phys.off % 64 ≤ 60)
    (hx : v.mem.codeFind v.ctx.core (g.phys.off / 64) (v.mem.key g.phys.slot) = none) :
    ∃ y : State, v.textBytes g = (y, v.mem.hbmBytes (v.mem.key g.phys.slot) g.phys.off 4) ∧
      (y.mem.codeFind v.ctx.core (g.phys.off / 64) (v.mem.key g.phys.slot)).isSome = true ∧ y.mem.hbm = v.mem.hbm ∧ v.setMem y.mem = y := by
  simp only [State.textBytes, if_neg (Nat.not_lt.mpr h), hx, Memory.dieRead, Option.getD_none, Option.isSome_none, Bool.false_eq_true, if_false]
  rw [elems_of_line _ _ _ h]
  refine ⟨_, rfl, codeFind_codePut _ ⟨v.ctx.core, g.phys.off / 64, v.ctx.asid, g.va.toNat / 64, v.mem.key g.phys.slot, _⟩ _, codePut_hbm _ _ _, rfl⟩

/-- The word at a code address is the four bytes there, the lowest first (R27, R458): from memory for a thread, for a context from the
instruction cache where it holds their line. -/
theorem codeWord_bytes (s v : State) (a : Dword) (g : Global) (h : s.access a .fetch 1 = (v, .ok g)) (hr : v.remote g = false) :
    let off := g.phys.off
    let key := v.mem.key g.phys.slot
    let line := v.mem.codeFind v.ctx.core (off / 64) key
    (s.agent = .thread → ∃ w : Word, s.codeWord a = (v.setMem (v.mem.endLeases off 4), .ok w) ∧ wordBytes w = v.mem.hbmBytes key off 4) ∧
    (∀ e, s.agent = .stream e → off % 64 ≤ 60 →
      (∀ x, line = some x → ∃ w : Word, s.codeWord a = (v, .ok w) ∧ wordBytes w = (upTo 4).map fun i => elem 8 x.data (off % 64 + i)) ∧
      (line = none → ∃ (w : Word) (y : State), s.codeWord a = (y, .ok w) ∧ wordBytes w = v.mem.hbmBytes key off 4 ∧
        (y.mem.codeFind v.ctx.core (off / 64) key).isSome = true ∧ y.mem.hbm = v.mem.hbm ∧ v.setMem y.mem = y)) ∧
    (∀ e, s.agent = .stream e → 60 < off % 64 →
      ∃ w : Word, s.codeWord a = (v.setMem (v.mem.endLeases off 4), .ok w) ∧ wordBytes w = v.mem.hbmBytes key off 4) := by
  refine ⟨fun ha => ?_, fun e ha hoff => ⟨fun x hx => ?_, fun hx => ?_⟩, fun e ha hoff => ?_⟩
  · exact ⟨_, codeWord_thread h hr ha, wordBytes_ofNat_leNat (by simp)⟩
  · rw [codeWord_stream h hr ha, textBytes_held hoff hx]
    exact ⟨_, rfl, wordBytes_ofNat_leNat (by simp)⟩
  · obtain ⟨y, hy, hfind, hhbm, hset⟩ := textBytes_missing hoff hx
    rw [codeWord_stream h hr ha, hy]
    exact ⟨_, y, rfl, wordBytes_ofNat_leNat (by simp), hfind, hhbm, hset⟩
  · rw [codeWord_stream h hr ha, textBytes_straddling hoff]
    exact ⟨_, rfl, wordBytes_ofNat_leNat (by simp)⟩

/-! A step is its turn, then what settles -/

/-- A step whose turn answers a next state. -/
theorem step_of_turn {s u x : State} {t : Turn} {whose : Option (Nat × StreamId)} (hn : s.nextTurn = (t, u)) (hw : t.stream? = whose)
    (ht : u.turn t = .next x) : step s = .next (x.settleAll u whose) := by
  simp only [step, hn, State.runTurn, ht, hw]

/-- A word of the stream's own that has decoded and that nothing holds back is executed (R33, R34). -/
theorem atWord_exec {v : State} {e : StreamId} {w lit : Word} {i : Instr} (hslip : v.ctx.slipHolds e (passSize e w lit) = none)
    (hown : ownerOf (Engine.ofCode (Header.unpack w).eng) = e) (hN : Engine.ofCode (Header.unpack w).eng ≠ .N)
    (hA : Engine.ofCode (Header.unpack w).eng = .A → (Header.unpack w).op ≠ 9)
    (hV : e = .V → v.ctx.slow = true → 0x50 ≤ (Header.unpack w).op ∧ (Header.unpack w).op ≤ 0x56) (hd : decodeWord w lit = .ok i) :
    v.atWord e w lit = exec i v := by
  have hfree : ¬(e = .V ∧ v.ctx.slow = true ∧ ((Header.unpack w).op < 0x50 ∨ 0x56 < (Header.unpack w).op)) := by
    rintro ⟨he, hs, ho⟩
    obtain ⟨hlo, hhi⟩ := hV he hs
    bv_omega
  have heret : ¬(Engine.ofCode (Header.unpack w).eng = .A ∧ (Header.unpack w).op = 9) := fun h => hA h.1 h.2
  simp only [State.atWord, hslip, if_pos hown, if_neg hN, if_neg hfree, if_neg heret, State.runWord, hd]

/-- A stream's turn at the word in whose middle it stands, or at the one it fetches, where the word is executed (R22, R107, R458). -/
theorem turnWord_exec {u t v x : State} {inst : Nat} {e : StreamId} {w lit : Word} {i : Instr} (hf : u.focus inst = some t)
    (hruns : t.ctx.runs e = true) (hlate : t.ctx.late.find? (·.1 == e) = none)
    (hw : if t.ctx.midWord e then t.ctx.words.find? (·.1 == e) = some (e, w, lit) ∧ v = { t with agent := .stream e }
      else ({ t with agent := .stream e } : State).codeAt (t.ctx.stream e).pc = (v, .ok (w, lit)))
    (hat : v.atWord e w lit = exec i v) (hx : exec i v = .next x) : u.turnWord inst e = .next (x.keepWord e (w, lit)) := by
  have hgo : v.atWord e w lit = .next x := hat.trans hx
  cases hm : t.ctx.midWord e with
  | true =>
    simp only [hm, if_true] at hw
    obtain ⟨hword, rfl⟩ := hw
    simp [State.turnWord, hf, hruns, hlate, Ctx.midWords, hm, hword, hgo]
  | false =>
    simp only [hm, Bool.false_eq_true, if_false] at hw
    simp [State.turnWord, hf, hruns, hlate, Ctx.midWords, hm, hw, hgo]

/-- A thread's turn at a word that it may execute (R31 to R33). -/
theorem threadAt_exec {v : State} {w lit : Word} {i : Instr} (heng : Engine.ofCode (Header.unpack w).eng ∉ [Engine.L, .M, .V, .W])
    (htok : (Header.unpack w).tok = 0)
    (hco : computeOnly (Engine.ofCode (Header.unpack w).eng) (Header.unpack w).op.toNat ⟨(Header.unpack w).ops⟩ = false)
    (hd : decodeWord w lit = .ok i) : v.threadAt w lit = exec i v := by
  have habsent : ¬(Engine.ofCode (Header.unpack w).eng = .L ∨ Engine.ofCode (Header.unpack w).eng = .M ∨
      Engine.ofCode (Header.unpack w).eng = .V ∨ Engine.ofCode (Header.unpack w).eng = .W) := by simpa using heng
  simp only [State.threadAt, if_neg habsent, hco, hd, htok, ne_eq, not_true_eq_false, if_false, Bool.false_eq_true]

/-- Changing a context leaves the package. -/
@[simp] theorem onCtx_pkg (s : State) (i : Nat) (f : Ctx → Ctx) : (s.onCtx i f).pkg = s.pkg := by
  unfold State.onCtx
  repeat' split
  all_goals rfl

end Sys2Proof.Machine

namespace Sys2Proof.Proofs
open Sys2Proof Sys2Proof.Machine

/-- Settles O56: each kind of turn by the lemma about it, the fetched bytes by `codeWord_bytes`. -/
theorem stepRunsTheDecodedInstruction : Obligations.StepRunsTheDecodedInstruction := by
  unfold Obligations.StepRunsTheDecodedInstruction
  refine ⟨?_, ?_, ?_, ?_, ?_, codeWord_bytes⟩
  · intro inst e s u t v w lit i hn hstop hf hruns hlate hw hslip hown hN hA hV hd x hx
    refine step_of_turn hn rfl ?_
    simp only [State.turn, hstop, Bool.false_eq_true, if_false]
    exact turnWord_exec hf hruns hlate hw (atWord_exec hslip hown hN hA hV hd) hx
  · intro inst e s u x hn hstop hx
    have hword : (u.onCtx inst fun c => { c with slow := true }).turnWord inst e = .next x := by
      simpa [State.turn, hstop] using hx
    exact step_of_turn hn rfl (by simp [State.turn, hstop, State.turnPiece, hword])
  · intro n s u v w lit i hn hstop hfree hw heng htok hco hd x hx
    have hat : v.threadAt w lit = .next x := (threadAt_exec heng htok hco hd).trans hx
    refine ⟨step_of_turn hn rfl ?_, fun he => by simp [State.endIfDue, he]⟩
    simp [State.turn, hstop, State.turnThread, hfree, hw, hat]
  · intro inst k s u hn hstop
    exact step_of_turn hn rfl (by simp [State.turn, hstop])
  · intro i s u hn hstop hi x hx
    exact step_of_turn hn rfl (by simp only [State.turn, hstop, hi, Bool.false_and, Bool.or_false, Bool.false_eq_true, if_false, hx])

end Sys2Proof.Proofs
end

section
/-!
PROOFS. Lists: the first of two conditions, and the least element that a fold keeps.
-/

namespace Sys2Proof.Machine

/-- The first element that meets one condition is the first that meets two, where it meets the other too. -/
theorem find?_and_of_find? {α : Type} {p q : α → Bool} {l : List α} {x : α} (h : l.find? p = some x) (hq : q x = true) :
    (l.find? fun y => p y && q y) = some x := by
  rw [List.find?_eq_some_iff_append] at h ⊢
  obtain ⟨hp, pre, post, rfl, hpre⟩ := h
  refine ⟨by simp [hp, hq], pre, post, rfl, fun y hy => ?_⟩
  have hy := hpre y hy
  simp_all

/-- `b` is the first of the least of a list by a key: it stands for an element before which every key is greater and after which none is less. -/
def FirstLeast {α β : Type} (key : β → Nat) (mk : α → β) (l : List α) (b : β) : Prop :=
  ∃ pre a post, l = pre ++ a :: post ∧ b = mk a ∧ (∀ x ∈ pre, key b < key (mk x)) ∧ ∀ x ∈ post, key b ≤ key (mk x)

/-- One more element takes the place of the first of the least where its key is lesser alone. -/
theorem FirstLeast.snoc {α β : Type} {key : β → Nat} {mk : α → β} {l : List α} {b : β} (h : FirstLeast key mk l b) (a : α) :
    FirstLeast key mk (l ++ [a]) (if key (mk a) < key b then mk a else b) := by
  obtain ⟨pre, d, post, rfl, rfl, hpre, hpost⟩ := h
  split
  · rename_i hlt
    refine ⟨pre ++ d :: post, a, [], rfl, rfl, fun x hx => ?_, fun x hx => absurd hx List.not_mem_nil⟩
    rcases List.mem_append.mp hx with hx | hx
    · exact Nat.lt_trans hlt (hpre x hx)
    · rcases List.mem_cons.mp hx with rfl | hx
      · exact hlt
      · exact Nat.lt_of_lt_of_le hlt (hpost x hx)
  · rename_i hge
    refine ⟨pre, d, post ++ [a], by rw [List.append_assoc, List.cons_append], rfl, hpre, fun x hx => ?_⟩
    rcases List.mem_append.mp hx with hx | hx
    · exact hpost x hx
    · obtain rfl := List.mem_singleton.mp hx
      exact Nat.not_lt.mp hge

section
variable {α β : Type} {key : β → Nat} {mk : α → β} {f : Option β → α → Option β}
  (hnone : ∀ a, f none a = some (mk a)) (hsome : ∀ b a, f (some b) a = if key (mk a) < key b then some (mk a) else some b)
include hsome

/-- A fold that replaces what it keeps by an element of lesser key alone goes on from the first of the least to that of all. -/
theorem foldl_extends_firstLeast (l : List α) : ∀ (seen : List α) (b : β), FirstLeast key mk seen b →
    ∃ c, l.foldl f (some b) = some c ∧ FirstLeast key mk (seen ++ l) c := by
  induction l with
  | nil => exact fun seen b h => ⟨b, rfl, by rwa [List.append_nil]⟩
  | cons a l ih =>
    intro seen b h
    obtain ⟨c, hc, hleast⟩ := ih _ _ (h.snoc a)
    refine ⟨c, ?_, by rwa [List.append_assoc, List.singleton_append] at hleast⟩
    rw [List.foldl_cons, hsome, ← apply_ite some, hc]

include hnone

/-- Such a fold that begins with nothing ends with the first of the least, or has met no element. -/
theorem foldl_keeps_firstLeast {l : List α} {b : β} (h : l.foldl f none = some b) : FirstLeast key mk l b := by
  cases l with
  | nil => cases h
  | cons a l =>
    have hone : FirstLeast key mk [a] (mk a) :=
      ⟨[], a, [], rfl, rfl, fun x hx => absurd hx List.not_mem_nil, fun x hx => absurd hx List.not_mem_nil⟩
    obtain ⟨c, hc, hleast⟩ := foldl_extends_firstLeast hsome l [a] (mk a) hone
    rw [List.foldl_cons, hnone, hc] at h
    cases h
    exact hleast

end

/-- The first of the least stands for a member. -/
theorem FirstLeast.mem {α β : Type} {key : β → Nat} {mk : α → β} {l : List α} {b : β} (h : FirstLeast key mk l b) : ∃ a ∈ l, b = mk a := by
  obtain ⟨pre, a, post, rfl, rfl, -, -⟩ := h
  exact ⟨a, by simp, rfl⟩

/-- No member has a lesser key. -/
theorem FirstLeast.le {α β : Type} {key : β → Nat} {mk : α → β} {l : List α} {b : β} (h : FirstLeast key mk l b) :
    ∀ x ∈ l, key b ≤ key (mk x) := by
  obtain ⟨pre, a, post, rfl, rfl, hpre, hpost⟩ := h
  intro x hx
  rcases List.mem_append.mp hx with hx | hx
  · exact Nat.le_of_lt (hpre x hx)
  · rcases List.mem_cons.mp hx with rfl | hx
    · exact Nat.le_refl _
    · exact hpost x hx

end Sys2Proof.Machine
end
section
/-!
PROOFS. A launch waits, is placed and starts (R20 to R22, R35, R360).
-/

namespace Sys2Proof.Machine

/-! Tracking and dependencies (R20, R360) -/

/-- A launch reaches the scheduler where fewer than 8,192 tasks are tracked (R20). -/
theorem exec_launchTrack {s : State} {t : Task} (h : s.har.tasks.find? (fun t => t.phase == .untracked) = some t) :
    exec .launchTrack s = .next (if s.har.tracked < 8192 then s.reachScheduler t else s) := by
  rw [show exec .launchTrack s = execLaunchTrack s from rfl, execLaunchTrack, h]

/-- An earlier tracked launch of the same address space conflicts with the task (R20, R360). -/
def State.heldBack (s : State) (t : Task) : Prop :=
  ∃ u ∈ s.har.tasks, u.asid = t.asid ∧ u.inst < t.inst ∧ u.phase.tracked = true ∧ t.conflicts u = true

/-- A launch that nothing holds back, or that asks for no ordering, is admitted; one held back stays (R20, R360). -/
theorem exec_schedulerAdmit {s : State} {i : Nat} {t : Task} (ht : s.hasTask i t) (hp : t.phase = .scheduled) :
    (launchNodep t.launch = true ∨ ¬s.heldBack t → exec (.schedulerAdmit i) s = .next (s.onTask i fun t => { t with phase := .admitted })) ∧
    (launchNodep t.launch = false → s.heldBack t → exec (.schedulerAdmit i) s = .next s) := by
  have hfind : (s.har.tasks.find? fun t => t.inst == i && t.phase == .scheduled) = some t := find?_and_of_find? ht (by simp [hp])
  have hheld : (s.har.tasks.any fun u => u.asid == t.asid && decide (u.inst < t.inst) && u.phase.tracked && t.conflicts u) = true ↔ s.heldBack t := by
    simp only [State.heldBack, List.any_eq_true, Bool.and_eq_true, beq_iff_eq, decide_eq_true_eq, and_assoc]
  rw [show exec (.schedulerAdmit i) s = execSchedulerAdmit i s from rfl, execSchedulerAdmit, hfind]
  refine ⟨fun h => ?_, fun hn h => ?_⟩
  · rcases h with h | h
    · simp [h]
    · simp [Bool.eq_false_iff.mpr (mt hheld.mp h)]
  · simp [hheld.mpr h, hn]

/-! Placement (R21) -/

/-- The contexts that hold a slot of a core (R21). -/
def State.load (s : State) (k : Nat) : Nat := ((s.uses k).filter (·.holdsSlot)).length

/-- The chosen core is the first of the least loaded of a list. -/
theorem bestCore_firstLeast {s : State} {l : List Nat} {core : Nat} (h : s.bestCore l = some core) :
    FirstLeast (·.2) (fun k => (k, s.load k)) l (core, s.load core) := by
  obtain ⟨⟨c, n⟩, hb, rfl⟩ := Option.map_eq_some_iff.mp h
  have hleast := foldl_keeps_firstLeast (key := fun b : Nat × Nat => b.2) (mk := fun k => (k, s.load k)) (fun _ => rfl) (fun _ _ => rfl) hb
  obtain ⟨a, -, ha⟩ := hleast.mem
  obtain ⟨rfl, rfl⟩ := Prod.mk.inj ha
  exact hleast

/-- A core is eligible only on a preferred die and with room for what is demanded (R21). -/
theorem mem_eligible {s : State} {dies : List Nat} {d : Nat × Nat × Nat} {k : Nat} (h : k ∈ s.eligible dies d) :
    k < 512 ∧ k / 128 ∈ dies ∧ s.load k < 4 ∧ ((s.uses k).map (·.demand)).sum + d.1 ≤ 128 ∧ ((s.uses k).map (·.tiles)).sum + d.2.1 ≤ 96 := by
  simp only [State.eligible, List.mem_filter, List.mem_range, Bool.and_eq_true, List.contains_iff_mem, roomIn, hasSlot] at h
  obtain ⟨hk, ⟨hdie, hroom⟩, -⟩ := h
  split at hroom
  · rename_i hfit
    simp only [decide_eq_true_eq] at hfit
    obtain ⟨⟨hslot, hregs⟩, htiles⟩ := hfit
    exact ⟨hk, hdie, hslot, hregs, htiles⟩
  · simp at hroom

/-- The eligible cores stand in ascending order. -/
theorem eligible_ascending (s : State) (dies : List Nat) (d : Nat × Nat × Nat) : (s.eligible dies d).Pairwise (· < ·) :=
  List.Pairwise.filter _ List.pairwise_lt_range

/-- Of the eligible cores the one chosen has the fewest contexts, then the lowest number (R21). -/
theorem bestCore_eligible {s : State} {dies : List Nat} {d : Nat × Nat × Nat} {core : Nat} (h : s.bestCore (s.eligible dies d) = some core) :
    core ∈ s.eligible dies d ∧ ∀ k ∈ s.eligible dies d, s.load core < s.load k ∨ (s.load core = s.load k ∧ core ≤ k) := by
  have hasc := eligible_ascending s dies d
  obtain ⟨pre, a, post, hl, ha, hpre, hpost⟩ := bestCore_firstLeast h
  obtain ⟨rfl, -⟩ := Prod.mk.inj ha
  rw [hl] at hasc ⊢
  refine ⟨by simp, fun k hk => ?_⟩
  have habove : ∀ k ∈ post, core < k := (List.pairwise_cons.mp (List.pairwise_append.mp hasc).2.1).1
  rcases List.mem_append.mp hk with hk | hk
  · exact .inl (hpre k hk)
  · rcases List.mem_cons.mp hk with rfl | hk
    · exact .inr ⟨rfl, Nat.le_refl _⟩
    · have hle := hpost k hk
      have hlt := habove k hk
      dsimp only at hle
      omega

/-- A waiting task before which no other is served takes the chosen core (R21). -/
theorem exec_placement {s : State} {i : Nat} {t : Task} (ht : s.hasTask i t) (hw : t.waiting = true)
    (hfirst : s.othersFirst t (s.preferred t) = false) {core : Nat}
    (hc : s.bestCore (s.eligible (s.preferred t) (s.demandOf t)) = some core) :
    exec (.placement i) s = .next (s.placeOn t core (s.demandOf t)) := by
  have hfind : (s.har.tasks.find? fun t => t.inst == i && t.waiting) = some t := find?_and_of_find? ht hw
  rw [show exec (.placement i) s = execPlacement i s from rfl, execPlacement, hfind]
  simp [hfirst, hc]

/-! Task start (R22, R35) -/

/-- A scalar register after a write. -/
theorem ScalarFile.getS_setS (f : ScalarFile) (r q : SReg) (v : SVal) : (f.setS r v).getS q = if q = r ∧ r ≠ 0 then v else f.getS q := by
  unfold ScalarFile.setS
  by_cases hr : r = 0
  · rw [if_pos hr, if_neg fun h => h.2 hr]
  · rw [if_neg hr]
    unfold ScalarFile.getS
    by_cases hqr : q = r
    · subst hqr
      rw [if_neg hr, if_pos (show q = q ∧ q ≠ 0 from ⟨rfl, hr⟩), Vector.getElem_set_self]
    · have hne : r.toNat ≠ q.toNat := fun h => hqr (BitVec.eq_of_toNat_eq h.symm)
      rw [if_neg (show ¬(q = r ∧ r ≠ 0) from fun h => hqr h.1), Vector.getElem_set_ne _ _ hne]

@[simp] theorem ScalarFile.getP_setS (f : ScalarFile) (r : SReg) (q : PReg) (v : SVal) : (f.setS r v).getP q = f.getP q := by
  unfold ScalarFile.setS; split <;> rfl
@[simp] theorem ScalarFile.getB_setS (f : ScalarFile) (r : SReg) (q : BReg) (v : SVal) : (f.setS r v).getB q = f.getB q := by
  unfold ScalarFile.setS; split <;> rfl
@[simp] theorem ScalarFile.getS_start (code : Dword) (q : SReg) : (ScalarFile.start code).getS q = ⟨0, false⟩ := by
  simp [ScalarFile.start, ScalarFile.getS]
@[simp] theorem ScalarFile.getB_start (code : Dword) (q : BReg) : (ScalarFile.start code).getB q = code := by
  simp [ScalarFile.start, ScalarFile.getB]
@[simp] theorem ScalarFile.getP_start (code : Dword) (q : PReg) : (ScalarFile.start code).getP q = ⟨q == 0, false⟩ := by
  by_cases hq : q = 0
  · simp [ScalarFile.getP, hq]
  · have hpos : 0 ≠ q.toNat := fun h => hq (BitVec.eq_of_toNat_eq h.symm)
    rw [ScalarFile.getP, if_neg hq, ScalarFile.start, Vector.getElem_set_ne _ _ hpos, Vector.getElem_replicate, beq_eq_false_iff_ne.mpr hq]

/-- s1 to s5 at task start hold the launch's coordinates, its argument and the task's number (R22, R35). -/
theorem startFile_getS_named (l : BitVec 128) (i : Nat) (code : Dword) :
    ∀ p ∈ ([(1, BitVec.ofNat 64 (launchXYZ l).1), (2, BitVec.ofNat 64 (launchXYZ l).2.1), (3, BitVec.ofNat 64 (launchXYZ l).2.2),
      (4, launchArg l), (5, BitVec.ofNat 64 i)] : List (SReg × Dword)), (startFile l i code).getS p.1 = ⟨p.2, false⟩ := by
  intro p hp
  simp only [List.mem_cons, List.not_mem_nil, or_false] at hp
  rcases hp with rfl | rfl | rfl | rfl | rfl <;> simp [startFile, ScalarFile.getS_setS]

/-- Every other scalar register is zero. -/
theorem startFile_getS_other (l : BitVec 128) (i : Nat) (code : Dword) {r : SReg} (h : r = 0 ∨ 5 < r.toNat) :
    (startFile l i code).getS r = ⟨0, false⟩ := by
  have hne : r ≠ 1 ∧ r ≠ 2 ∧ r ≠ 3 ∧ r ≠ 4 ∧ r ≠ 5 := by
    refine ⟨?_, ?_, ?_, ?_, ?_⟩ <;> rintro rfl <;> simp at h
  obtain ⟨h1, h2, h3, h4, h5⟩ := hne
  simp only [startFile, ScalarFile.getS_setS, ScalarFile.getS_start, h1, h2, h3, h4, h5, false_and, if_false]

@[simp] theorem startFile_getP (l : BitVec 128) (i : Nat) (code : Dword) (r : PReg) : (startFile l i code).getP r = ⟨r == 0, false⟩ := by
  simp [startFile]
@[simp] theorem startFile_getB (l : BitVec 128) (i : Nat) (code : Dword) (r : BReg) : (startFile l i code).getB r = code := by
  simp [startFile]

section
variable (e : BitVec 512) (l : BitVec 128) (i : Nat) (asid : Asid) (root : BitVec 43) (core slot base : Nat)

theorem Ctx.getV_start (r : VReg) : (Ctx.start e l i asid root core slot base).getV r = ⟨0, 0⟩ := by
  simp [Ctx.start, Ctx.getV, Ctx.absent]
theorem Ctx.getM_start (r : MReg) :
    (Ctx.start e l i asid root core slot base).getM r = ⟨if r = 0 then BitVec.allOnes 1024 else 0, false⟩ := by
  by_cases hr : r = 0
  · simp [Ctx.getM, hr]
  · have hpos : 0 ≠ r.toNat := fun h => hr (BitVec.eq_of_toNat_eq h.symm)
    rw [Ctx.getM, if_neg hr, if_neg hr, Ctx.start, Ctx.absent, Vector.getElem_set_ne _ _ hpos, Vector.getElem_replicate]
theorem Ctx.getA_start (k : Nat) : (Ctx.start e l i asid root core slot base).getA k = ⟨0, 0⟩ := by
  unfold Ctx.getA
  split
  · simp [Ctx.start, Ctx.absent]
  · rfl
theorem Ctx.stream_start (k : StreamId) : (Ctx.start e l i asid root core slot base).stream k = Stream.start (typeCode e) := by
  cases k <;> rfl
theorem Ctx.channels_start (k : Fin 4) : (Ctx.start e l i asid root core slot base).lch[k] = ⟨1, 0, [], []⟩ ∧
    (Ctx.start e l i asid root core slot base).wch[k] = ⟨1, 0, [], []⟩ := by
  simp [Ctx.start, Ctx.absent, Channel.start]

end

/-- A placed task's context starts as the tables say, in the lowest free slot; its core's clean L1 lines go (R22, R285). -/
theorem exec_contextStart {s : State} {i : Nat} {t : Task} {core base : Nat} {x : BitVec 512} (ht : s.hasTask i t)
    (hp : t.phase = .placed core base) (hx : s.typeEntry (launchType t.launch) = some x) :
    exec (.contextStart i) s = .next { s.onTask i fun t => { t with phase := .running } with
      others := s.others ++ [Ctx.start x t.launch i t.asid (s.mem.asidRoot s.pkg t.asid) core ((s.freeSlots core).headD 0) base]
      mem := s.mem.l1DropClean core } := by
  rw [show exec (.contextStart i) s = execContextStart i s from rfl, execContextStart, show (s.har.tasks.find? fun t => t.inst == i) = some t from ht]
  simp only [hp, hx]
  rfl

end Sys2Proof.Machine
end

section
/-!
PROOFS. A context's place on its core: what leaves it, and the returns of parked and checkpointed contexts (R105, R367).
-/

namespace Sys2Proof.Machine

/-! The context of a task's number -/

/-- A context that is found has the number that it was looked for by. -/
theorem inst_of_findCtx {s : State} {i : Nat} {c : Ctx} (h : s.findCtx i = some c) : c.inst = i := by
  unfold State.findCtx at h
  split at h
  · cases h
  · split at h
    · rename_i hi
      cases h
      exact hi
    · simpa using List.find?_some h

/-- A found context as it stands once it has been changed. -/
theorem findCtx_onCtx {s : State} {i : Nat} {c : Ctx} {f : Ctx → Ctx} (h : s.findCtx i = some c) (hf : (f c).inst = i) :
    (s.onCtx i f).findCtx i = some (f c) := by
  unfold State.findCtx at h
  unfold State.onCtx
  split at h
  · cases h
  · rename_i h0
    rw [if_neg h0]
    split at h
    · rename_i hi
      cases h
      simp [State.findCtx, h0, hi, hf]
    · rename_i hi
      rw [if_neg hi]
      simp only [State.findCtx, if_neg h0, if_neg hi]
      rw [List.find?_eq_some_iff_append] at h ⊢
      obtain ⟨hc, pre, post, hl, hpre⟩ := h
      have hc : c.inst = i := by simpa using hc
      refine ⟨by simpa using hf, pre.map fun c => if c.inst = i then f c else c, post.map fun c => if c.inst = i then f c else c, ?_, ?_⟩
      · simp [hl, hc]
      · intro d hd
        obtain ⟨b, hb, rfl⟩ := List.mem_map.mp hd
        have hbi : b.inst ≠ i := by simpa using hpre b hb
        simp [hbi]

/-- A context in focus is found as before. -/
theorem findCtx_focus {s t : State} {i : Nat} (h : s.focus i = some t) : t.findCtx i = s.findCtx i := by
  unfold State.focus at h
  split at h
  · cases h
  · rename_i h0
    split at h
    · cases h; rfl
    · rename_i hi
      split at h
      · cases h
      · rename_i c hc
        cases h
        have hci : c.inst = i := by simpa using List.find?_some hc
        simp [State.findCtx, h0, hi, hci, hc]

/-- Bringing a context into focus leaves Harius. -/
theorem har_focus {s t : State} {i : Nat} (h : s.focus i = some t) : t.har = s.har := by
  unfold State.focus at h
  split at h
  · cases h
  · split at h
    · cases h; rfl
    · split at h <;> cases h
      rfl

/-- Changing a context leaves Harius. -/
@[simp] theorem onCtx_har (s : State) (i : Nat) (f : Ctx → Ctx) : (s.onCtx i f).har = s.har := by
  unfold State.onCtx
  split
  · rfl
  · split <;> rfl

/-! Operations that keep a context's number, residency and core -/

/-- A context's number, where it stands and its core. -/
def Ctx.seat (c : Ctx) : Nat × Residency × Nat := (c.inst, c.place, c.core)

theorem seat_foldl {α : Type} {f : Ctx → α → Ctx} (hf : ∀ (c : Ctx) x, (f c x).seat = c.seat) (l : List α) (c : Ctx) :
    (l.foldl f c).seat = c.seat := by
  induction l generalizing c with
  | nil => rfl
  | cons x l ih => exact (ih _).trans (hf c x)

@[simp] theorem seat_setV (c : Ctx) (r : VReg) (v : VVal) : (c.setV r v).seat = c.seat := rfl
@[simp] theorem seat_onStream (c : Ctx) (e : StreamId) (f : Stream → Stream) : (c.onStream e f).seat = c.seat := rfl
@[simp] theorem seat_setM (c : Ctx) (r : MReg) (v : MVal) : (c.setM r v).seat = c.seat := by
  unfold Ctx.setM; split <;> rfl
@[simp] theorem seat_setA (c : Ctx) (k : Nat) (v : Tile) : (c.setA k v).seat = c.seat := by
  unfold Ctx.setA; split <;> rfl
@[simp] theorem seat_setView (c : Ctx) (e : StreamId) (r : SReg) (v : SVal) : (c.setView e r v).seat = c.seat := by
  unfold Ctx.setView; split <;> rfl
@[simp] theorem seat_retry (c : Ctx) : c.retry.seat = c.seat := by
  unfold Ctx.retry; split <;> rfl
@[simp] theorem seat_loadRegs (c : Ctx) (l : List Byte) : (c.loadRegs l).seat = c.seat := rfl
@[simp] theorem seat_loadTables (c : Ctx) (l : List Byte) : (c.loadTables l).seat = c.seat := rfl
@[simp] theorem seat_loadStreams (c : Ctx) (l : List Byte) : (c.loadStreams l).seat = c.seat :=
  seat_foldl (by intro c e; exact seat_onStream ..) streamOrder.zipIdx c
@[simp] theorem seat_notesFor (c : Ctx) (l : List Byte) : (c.notesFor l).seat = c.seat := by
  unfold Ctx.notesFor
  split
  · rfl
  · exact seat_foldl (by intro c e; exact seat_onStream ..) streamOrder c

/-- The registers that a save area replaces at once are no part of the seat. -/
theorem seat_withRegisters (c : Ctx) (f : ScalarFile) (tok : Word) (msel : MReg) (fifo : List Decision) :
    ({ c with sf := f, tok := tok, msel := msel, fifo := fifo } : Ctx).seat = c.seat := rfl

/-- Reading a save area back leaves the context where it is. -/
@[simp] theorem seat_loadArea (c : Ctx) (l : List Byte) : (c.loadArea l).seat = c.seat := by
  unfold Ctx.loadArea
  rw [seat_foldl, seat_withRegisters, seat_foldl, seat_foldl]
  · exact fun c i => seat_setV ..
  · exact fun c i => seat_setM ..
  · exact fun c e => seat_foldl (fun c i => seat_setView ..) _ c

/-- A context made from an image has the number of the one it replaces, and stands on the core that it is placed on. -/
theorem seat_fromImage (c : Ctx) (l : List (Byte × Bool)) (core slot base : Nat) :
    (c.fromImage l core slot base).seat = (c.inst, .resident, core) := by
  unfold Ctx.fromImage
  dsimp only
  generalize hd : List.foldl _ _ _ = d
  have hseat : d.seat = c.seat := by
    rw [← hd, seat_foldl fun c i => seat_setA ..]
    simp
  rw [← (Prod.mk.inj hseat).1]
  rfl

/-- From s to t context i keeps its seat, and Harius stays. -/
def State.SeatKept (i : Nat) (s t : State) : Prop := t.har = s.har ∧ ∀ c, s.findCtx i = some c → ∃ d, t.findCtx i = some d ∧ d.seat = c.seat

theorem State.SeatKept.refl (i : Nat) (s : State) : State.SeatKept i s s := ⟨rfl, fun c h => ⟨c, h, rfl⟩⟩
theorem State.SeatKept.trans {i : Nat} {s t u : State} (h : State.SeatKept i s t) (g : State.SeatKept i t u) : State.SeatKept i s u := by
  refine ⟨g.1.trans h.1, fun c hc => ?_⟩
  obtain ⟨d, hd, hcd⟩ := h.2 c hc
  obtain ⟨e, he, hde⟩ := g.2 d hd
  exact ⟨e, he, hde.trans hcd⟩
theorem State.SeatKept.foldl {α : Type} {i : Nat} {f : State → α → State} (hf : ∀ (s : State) x, State.SeatKept i s (f s x)) (l : List α)
    (s : State) : State.SeatKept i s (l.foldl f s) := by
  induction l generalizing s with
  | nil => exact .refl i s
  | cons x l ih => exact (hf s x).trans (ih _)
theorem State.SeatKept.setMem {i : Nat} {s t : State} (h : State.SeatKept i s t) (m : Memory) : State.SeatKept i s (t.setMem m) := h

theorem seatKept_onCtx {f : Ctx → Ctx} (hf : ∀ c : Ctx, (f c).seat = c.seat) (i : Nat) (s : State) : State.SeatKept i s (s.onCtx i f) :=
  ⟨onCtx_har s i f, fun c hc => ⟨f c, findCtx_onCtx hc ((Prod.mk.inj (hf c)).1.trans (inst_of_findCtx hc)), hf c⟩⟩
theorem seatKept_leaveL1 (i j : Nat) (s : State) : State.SeatKept i s (s.leaveL1 j) := by
  unfold State.leaveL1
  split
  · exact .refl i s
  · exact (State.SeatKept.refl i s).setMem _

theorem seatKept_pushErr (i : Nat) (s : State) (entry : Dword) (phovr : Bool) : State.SeatKept i s (s.pushErr i entry phovr) := by
  unfold State.pushErr
  split
  · exact .refl i s
  · dsimp only
    generalize hu : (if phovr = true then s.onCtx i fun c => { c with regs := { c.regs with phovr := true } } else s) = u
    have hflag : State.SeatKept i s u := by
      rw [← hu]
      split
      · exact seatKept_onCtx (by intro c; rfl) i s
      · exact .refl i s
    split
    · exact hflag.trans (seatKept_onCtx (by intro c; rfl) i u)
    · exact State.SeatKept.setMem (hflag.trans (seatKept_onCtx (by intro c; rfl) i u)) _

theorem seatKept_loadRest (i : Nat) (s : State) (bytes : List Byte) (older : Bool) : State.SeatKept i s (s.loadRest i bytes older) := by
  unfold State.loadRest
  split
  · exact .refl i s
  · rename_i t ht
    have hhar : t.har = s.har := har_focus ht
    have hctx : t.findCtx i = s.findCtx i := findCtx_focus ht
    have hfocus : State.SeatKept i s { t with agent := .stream .S } := ⟨hhar, fun c hc => ⟨c, hctx.trans hc, rfl⟩⟩
    exact hfocus.trans (seatKept_onCtx (by intro c; rfl) i _)

/-- A reloaded context stands on the core that it is placed on. -/
theorem findCtx_reload {s : State} {c : Ctx} (hc : s.findCtx c.inst = some c) (l : List (Byte × Bool)) (core slot base : Nat) (hold : Bool) :
    (s.reload c l core slot base hold).har = s.har ∧
      ∃ d, (s.reload c l core slot base hold).findCtx c.inst = some d ∧ d.place = .resident ∧ d.core = core := by
  have himage := seat_fromImage c l core slot base
  unfold State.reload
  generalize c.fromImage l core slot base = d at himage
  dsimp only
  generalize hd' : ({ d with regs := _ } : Ctx) = d'
  have hseat' : d'.seat = (c.inst, .resident, core) := by rw [← hd']; exact himage
  have hput := findCtx_onCtx (f := fun _ => d') hc (Prod.mk.inj hseat').1
  have hhar := onCtx_har s c.inst fun _ => d'
  generalize s.onCtx c.inst (fun _ => d') = u at hput hhar
  generalize hw : List.foldl _ _ _ = w
  have hkept : State.SeatKept c.inst u w := by
    rw [← hw]
    exact (((seatKept_leaveL1 c.inst c.inst u).setMem _).trans (seatKept_loadRest ..)).trans (.foldl (fun s e => seatKept_pushErr c.inst s e false) _ _)
  obtain ⟨hkhar, hkctx⟩ := hkept.trans (seatKept_onCtx seat_retry c.inst w)
  obtain ⟨e, he, heseat⟩ := hkctx d' hput
  obtain ⟨-, hplace, hcore⟩ := by simpa [Ctx.seat] using heseat.trans hseat'
  exact ⟨hkhar.trans hhar, e, he, hplace, hcore⟩

/-- Drawing one of a list takes free values alone. -/
theorem pick_snd (s : State) (l : List Nat) : ∃ n, (s.pick l).2 = { s with fresh := n } := by
  unfold State.pick
  split
  · exact ⟨s.fresh, rfl⟩
  · exact ⟨s.fresh + 1, rfl⟩

/-! Returns (R105, R367) -/

/-- The parked context whose wait ended first on its core returns there, to its lowest free slot (R105). -/
theorem exec_parkedReturn {s : State} {i : Nat} {c : Ctx} {w : ParkWait} (hc : s.fireWaits.findCtx i = some c) (hp : c.place = .parked w true)
    (hfirst : (s.fireWaits.har.parkOrder.find? fun j => (s.fireWaits.findCtx j).any fun d => d.core == c.core) = some i)
    (hroom : hasSlot (s.fireWaits.uses c.core) c.demand = true) :
    ∃ (v : State) (d : Ctx), exec (.parkedReturn i) s = .next v ∧ v.findCtx i = some d ∧ d.place = .resident ∧ d.core = c.core ∧
      d.slot = (s.fireWaits.freeSlots c.core).headD 0 ∧ v.har.parkOrder = s.fireWaits.har.parkOrder.erase i := by
  generalize hu : s.fireWaits = u at hc hfirst hroom ⊢
  obtain ⟨hinst, -, hcore⟩ := by simpa [Ctx.seat] using seat_loadArea c (u.savedArea c)
  let d : Ctx := { c.loadArea (u.savedArea c) with place := .resident, slot := (u.freeSlots c.core).headD 0 }
  let v : State := u.onCtx i fun _ => d
  refine ⟨{ v with har := { v.har with parkOrder := v.har.parkOrder.erase i } }, d, ?_, ?_, rfl, hcore, rfl, ?_⟩
  · rw [show exec (.parkedReturn i) s = execParkedReturn i s from rfl, execParkedReturn, hu]
    simp only [hc, hp, hfirst, hroom, true_and, if_true]
    rfl
  · exact findCtx_onCtx hc (hinst.trans (inst_of_findCtx hc))
  · show (u.onCtx i fun _ => d).har.parkOrder.erase i = u.har.parkOrder.erase i
    rw [onCtx_har]

/-- The first of the checkpointed contexts returns to the chosen core of its preferred dies (R367). -/
theorem exec_checkpointReturn {s : State} {i core : Nat} {c : Ctx} {t : Task} {im : PoolImage} (hc : s.findCtx i = some c) (ht : s.hasTask i t)
    (him : s.poolImage i = some im) (hp : c.place = .checkpointed) (hfirst : (s.har.ckptOrder.takeWhile (· != i)) = [])
    (hcore : s.bestCore (s.eligible (s.preferred t) (c.demand, c.tiles, c.scrBytes)) = some core) :
    ∃ (v : State) (d : Ctx), exec (.checkpointReturn i) s = .next v ∧ v.findCtx i = some d ∧ d.place = .resident ∧ d.core = core ∧
      v.har.ckptOrder = s.har.ckptOrder.erase i := by
  obtain rfl := inst_of_findCtx hc
  have ht : (s.har.tasks.find? fun t => t.inst == c.inst) = some t := ht
  let l := s.mem.hbmReadP (s.mem.key 0) (hdrOff s.pkg.hdr.ckpBase + im.at_) im.len
  let r := s.pick (roomIn (s.uses core) c.demand c.tiles c.scrBytes)
  let u := r.2.reload c l core ((r.2.freeSlots core).headD 0) r.1 false
  obtain ⟨n, hn⟩ := pick_snd s (roomIn (s.uses core) c.demand c.tiles c.scrBytes)
  have hr : r.2.findCtx c.inst = some c := by rw [show r.2 = { s with fresh := n } from hn]; exact hc
  obtain ⟨hhar, d, hd, hplace, hdcore⟩ := findCtx_reload hr l core ((r.2.freeSlots core).headD 0) r.1 false
  refine ⟨{ u with har := { u.har with ckptOrder := u.har.ckptOrder.erase c.inst }
                   pkg := { u.pkg with pool := u.pkg.pool.filter (·.inst != c.inst) } }, d, ?_, hd, hplace, hdcore, ?_⟩
  · rw [show exec (.checkpointReturn c.inst) s = execCheckpointReturn c.inst s from rfl, execCheckpointReturn, hc, ht, him]
    simp only [hp, hfirst, hcore, ne_eq, not_true_eq_false, if_false, List.any_nil, Bool.false_eq_true]
    rfl
  · show u.har.ckptOrder.erase c.inst = _
    rw [hhar, hn]

end Sys2Proof.Machine
end

section
/-!
PROOFS. The end of a task and of its address space (R23, R371), Harius's events and threads (R344, R345, R347), gangs (R374), copies (R355)
and what reaches a phaser's holder (R275).
-/

namespace Sys2Proof.Machine

/-! Fields of bit strings -/

/-- A field of a bit string's number. -/
theorem natField_toNat {n : Nat} (x : BitVec n) (lo w : Nat) : natField x.toNat lo w = (x.extractLsb' lo w).toNat := by
  rw [natField, BitVec.extractLsb'_toNat]

/-- A field of a bit string, made a bit string again. -/
theorem ofNat_natField {n : Nat} (x : BitVec n) (lo w : Nat) : BitVec.ofNat w (natField x.toNat lo w) = x.extractLsb' lo w := by
  rw [natField_toNat, BitVec.ofNat_toNat, BitVec.setWidth_eq]

/-! Retirement and address spaces (R23, R371) -/

/-- A task that may retire leaves its core, its completion peg counted (R23). -/
theorem exec_taskRetire {s : State} {i : Nat} {c : Ctx} (hc : s.findCtx i = some c) (hr : s.canRetire c = true) :
    exec (.taskRetire i) s = .next
      (let v := (((s.setMem (s.mem.l1CleanAll c.core)).dropRegs c).orphan c true).dropTask i
       (match v.typeEntry c.ttype.toNat with
        | some x => v.pegDone (typeDonePeg x)
        | none => v).removeCtx i) := by
  rw [show exec (.taskRetire i) s = execTaskRetire i s from rfl, execTaskRetire, hc]
  simp only [hr, Bool.not_true, Bool.false_eq_true, if_false]
  rfl

/-- An address space becomes free once it is being removed, no task of it is tracked, no RRED word of it is out and its translations are
gone (R371). -/
theorem exec_asidFree (s : State) (asid : Asid) : exec (.asidFree asid) s = .next
    (if s.mem.asidState s.pkg asid = 2 ∧ (∀ u ∈ s.har.tasks, u.asid = asid → u.phase.tracked = false) ∧
        s.mem.ctlNat s.pkg (64 * asid.toNat + 0x20) 8 = 0 ∧ asid ∈ s.har.mapped then
      { s with mem := s.mem.ctlPut s.pkg (64 * asid.toNat + 0x18) 1 0, har := { s.har with mapped := s.har.mapped.filter (· != asid) } } else s) := by
  have htasks : (s.har.tasks.all fun t => t.asid != asid || !t.phase.tracked) = true ↔ ∀ u ∈ s.har.tasks, u.asid = asid → u.phase.tracked = false := by
    simp only [List.all_eq_true, Bool.or_eq_true, bne_iff_ne, Bool.not_eq_true', Decidable.imp_iff_not_or]
  rw [show exec (.asidFree asid) s = execAsidFree asid s from rfl, execAsidFree]
  simp only [Bool.and_eq_true, beq_iff_eq, htasks, List.contains_iff_mem, and_assoc]
  rfl

/-! Events and threads (R344, R345, R347) -/

/-- The head event of the queue starts on the lowest free thread, or has its default effect (R344, R345). -/
theorem exec_eventDispatch {s : State} {e : Event} {rest : List Event} {n : Nat} (hq : s.har.queue = e :: rest)
    (hn : (upTo 512).find? s.threadFree = some n) :
    let v : State := { s with har := { s.har with queue := rest } }
    (v.handlerOf e = none → exec .eventDispatch s = .next (v.defaultEffect e)) ∧
    (∀ entry, v.handlerOf e = some entry → exec .eventDispatch s = .next { v.focusThread n with thr := Thread.start n e entry }) := by
  rw [show exec .eventDispatch s = execEventDispatch s from rfl, execEventDispatch, hq, hn]
  refine ⟨fun h => ?_, fun entry h => ?_⟩ <;> simp only [h]

/-- The watchdog ends a running thread once, at once or when its word has completed; the end is counted and logged (R347). -/
theorem exec_threadWatchdog {s : State} {n : Nat} (hn : s.threadFree n = false) :
    let u := s.focusThread n
    let v := (if u.thr.waits then { u with thr := { u.thr with ending := true } } else u.endThread none).countErr 38
    (u.thr.ending = true → exec (.threadWatchdog n) s = .next u) ∧
    (u.thr.ending = false → exec (.threadWatchdog n) s = .next
      (v.setMem (v.mem.packageLog v.pkg (logRecord 2 0 n u.thr.pc.toNat v.pkg.time.toNat u.thr.s2.toNat)))) := by
  rw [show exec (.threadWatchdog n) s = execThreadWatchdog n s from rfl, execThreadWatchdog, hn]
  refine ⟨fun h => ?_, fun h => ?_⟩ <;> simp only [h, Bool.false_eq_true, if_false, if_true]
  rfl

/-! Gangs (R357, R374, R379) -/

/-- Harius after a launch has taken its number (R357). -/
def State.numbered (s : State) : State := { s with har := { s.har with nextInst := s.har.nextInst + 1 } }

/-- A launch of a type that is not loaded, or into an address space that is not live, is refused; it has taken its number (R357). -/
theorem accept_refused {s : State} {l : BitVec 128} {asid : Asid} (h : s.typeEntry (launchType l) = none ∨ s.mem.asidState s.pkg asid ≠ 1)
    (src : LaunchSource) (gang : Option (Pkg × Nat)) : s.accept l asid src gang = (s.numbered, none) := by
  have hbad : ((s.typeEntry (launchType l)).isNone || s.mem.asidState s.pkg asid != 1) = true := by
    rcases h with h | h <;> simp [h]
  exact if_pos hbad

/-- Any other launch becomes a task, and reaches the scheduler at once where a tracking place is free and none waits for one (R20, R357). -/
theorem accept_taken {s : State} {l : BitVec 128} {asid : Asid} {x : BitVec 512} (hlive : s.mem.asidState s.pkg asid = 1)
    (hx : s.typeEntry (launchType l) = some x) (src : LaunchSource) (gang : Option (Pkg × Nat)) :
    let t : Task := ⟨s.har.nextInst, l, asid, src, .untracked, false, [], [], gang, none⟩
    let v : State := { s.numbered with har := { s.numbered.har with tasks := s.numbered.har.tasks ++ [t] } }
    s.accept l asid src gang =
      (if s.har.tracked < 8192 ∧ (∀ q ∈ s.har.tasks, q.phase ≠ .untracked) then v.reachScheduler t else v, some s.har.nextInst) := by
  have hgood : ¬((s.typeEntry (launchType l)).isNone || s.mem.asidState s.pkg asid != 1) = true := by simp [hx, hlive]
  have hroom : (decide (s.har.tracked < 8192) && s.har.tasks.all fun t => t.phase != .untracked) = true ↔
      s.har.tracked < 8192 ∧ ∀ q ∈ s.har.tasks, q.phase ≠ .untracked := by
    simp only [Bool.and_eq_true, decide_eq_true_eq, List.all_eq_true, bne_iff_ne]
  exact (if_neg hgood).trans (congrArg (·, some s.har.nextInst) (ite_congr (propext hroom) (fun _ => rfl) fun _ => rfl))

/-- A gang member's launch is refused with ACTION_FAULT or becomes a task (R357, R374). -/
theorem exec_gangMemberLaunch (s : State) (src : BitVec 10) (n : Nat) (l : BitVec 128) (asid : BitVec 12) :
    ((s.typeEntry (launchType l) = none ∨ s.mem.asidState s.pkg asid ≠ 1) →
      exec (.gangMemberLaunch src n l asid) s = .next (s.numbered.actionFault asid .word (.access 13 0))) ∧
    (s.mem.asidState s.pkg asid = 1 → ∀ x, s.typeEntry (launchType l) = some x →
      let t : Task := ⟨s.har.nextInst, l, asid, .word, .untracked, false, [], [], some (src, n), none⟩
      let v : State := { s.numbered with har := { s.numbered.har with tasks := s.numbered.har.tasks ++ [t] } }
      exec (.gangMemberLaunch src n l asid) s = .next
        (if s.har.tracked < 8192 ∧ (∀ q ∈ s.har.tasks, q.phase ≠ .untracked) then v.reachScheduler t else v)) := by
  rw [show exec (.gangMemberLaunch src n l asid) s = .next (s.gangLocal l asid src n) from rfl, State.gangLocal]
  refine ⟨fun h => ?_, fun hlive x hx => ?_⟩
  · rw [accept_refused h]
  · rw [accept_taken hlive hx]

/-- The last acknowledgement inside the window completes the gang (R374). -/
theorem exec_gangAck_last {s : State} {n : Nat} {g : Gang} {p : BitVec 10} (hg : s.har.gangs.find? (fun g => g.id == n) = some g)
    (htime : s.pkg.time.toNat ≤ g.deadline.toNat) (hp : p ∈ g.members) (hall : ∀ q ∈ g.members, q = p ∨ q ∈ g.acked) :
    exec (.gangAck n p) s = .next (({ s with har := { s.har with gangs := s.har.gangs.filter (·.id != n) } } : State).pegDone g.donePeg) := by
  have hacked : g.members.all (if g.acked.contains p then g.acked else p :: g.acked).contains = true := by
    simp only [List.all_eq_true, List.contains_iff_mem]
    intro q hq
    split
    · rename_i hin
      rcases hall q hq with rfl | h
      · simpa using hin
      · exact h
    · rcases hall q hq with rfl | h
      · simp
      · simp [h]
  rw [show exec (.gangAck n p) s = .next (s.ackGang n p) from rfl, State.ackGang, hg]
  simp only [Nat.not_lt.mpr htime, if_false, List.contains_iff_mem.mpr hp, Bool.not_true, Bool.false_eq_true, hacked, if_true]

/-- No window ends before its deadline (R374). -/
theorem exec_gangWindowExpire_early {s : State} {n : Nat} {g : Gang} (hg : s.har.gangs.find? (fun g => g.id == n) = some g)
    (htime : s.pkg.time.toNat < g.deadline.toNat) : exec (.gangWindowExpire n) s = .next s := by
  rw [show exec (.gangWindowExpire n) s = execGangWindowExpire n s from rfl, execGangWindowExpire, hg]
  simp only [Nat.not_le.mpr htime, if_false]

/-! Writes of Harius's own records leave the package's number -/

@[simp] theorem dirtyBank_own (m : Memory) (a : Nat) : (m.dirtyBank a).own = m.own := by
  unfold Memory.dirtyBank; split <;> rfl
@[simp] theorem writeSector_own (m : Memory) (key sec : Nat) (l : List (Nat × Byte)) (p : Bool) : (m.writeSector key sec l p).own = m.own :=
  dirtyBank_own m (sec * 32)
@[simp] theorem hbmWrite_own (m : Memory) (key a : Nat) (l : List Byte) (p : Bool) : (m.hbmWrite key a l p).own = m.own := by
  unfold Memory.hbmWrite
  generalize sectorsOf a l.length = secs
  induction secs generalizing m with
  | nil => rfl
  | cons sec secs ih => rw [List.foldl_cons, ih, writeSector_own]
@[simp] theorem dieWrite_own (m : Memory) (slot a : Nat) (l : List Byte) (p : Bool) : (m.dieWrite slot a l p).own = m.own := by
  simp [Memory.dieWrite]
@[simp] theorem ctlPut_own (m : Memory) (p : PkgSt) (off n x : Nat) : (m.ctlPut p off n x).own = m.own := by
  unfold Memory.ctlPut
  split
  · exact dieWrite_own ..
  · rfl
@[simp] theorem packageLog_own (m : Memory) (p : PkgSt) (l : List Byte) : (m.packageLog p l).own = m.own := by
  unfold Memory.packageLog
  split
  · rfl
  · simp

/-- The acknowledgement bitmap lies aligned in the reserved end of the control area (R374, R415). -/
theorem bitmapAt_bounds (k : Nat) : 0x43000 ≤ bitmapAt k ∧ bitmapAt k % 128 = 0 ∧ bitmapAt k + 128 ≤ 0x100000 := by
  simp only [bitmapAt, ctlSize]
  omega

/-- The lowest of a list of package numbers, as a fold takes it. -/
theorem foldl_min_toNat (l : List Pkg) (m : Nat) :
    (∀ p ∈ l, l.foldl (fun (m : Nat) p => min m p.toNat) m ≤ p.toNat) ∧ l.foldl (fun (m : Nat) p => min m p.toNat) m ≤ m ∧
      (l.foldl (fun (m : Nat) p => min m p.toNat) m = m ∨ ∃ p ∈ l, l.foldl (fun (m : Nat) p => min m p.toNat) m = p.toNat) := by
  induction l generalizing m with
  | nil => simp
  | cons p l ih =>
    obtain ⟨hle, hm, heq⟩ := ih (min m p.toNat)
    rw [List.foldl_cons]
    refine ⟨fun q hq => ?_, by omega, ?_⟩
    · rcases List.mem_cons.mp hq with rfl | hq
      · omega
      · exact hle q hq
    · rcases heq with heq | ⟨q, hq, heq⟩
      · rcases Nat.le_total m p.toNat with h | h
        · left; omega
        · exact .inr ⟨p, by simp, by omega⟩
      · exact .inr ⟨q, by simp [hq], heq⟩

/-- Of some package numbers, a fold that starts above all of them ends with one. -/
theorem foldl_min_mem {l : List Pkg} (h : l ≠ []) : ∃ p ∈ l, l.foldl (fun (m : Nat) p => min m p.toNat) 1024 = p.toNat := by
  obtain ⟨hle, -, heq⟩ := foldl_min_toNat l 1024
  rcases heq with heq | heq
  · obtain ⟨p, hp⟩ := List.exists_mem_of_ne_nil l h
    have := hle p hp
    have := p.isLt
    omega
  · exact heq

/-- At its deadline a gang breaks: the missing packages become silent, and the break is logged, noted and raised (R374). -/
theorem exec_gangWindowExpire_late {s : State} {n : Nat} {g : Gang} (hg : s.har.gangs.find? (fun g => g.id == n) = some g)
    (htime : g.deadline.toNat ≤ s.pkg.time.toNat) :
    let missing := g.members.filter fun p => !g.acked.contains p
    let v := missing.foldl (fun (s : State) p => s.markSilent p 4) { s with har := { s.har with gangs := s.har.gangs.filter (·.id != g.id) } }
    ∃ off low fresh : Nat, 0x43000 ≤ off ∧ off % 128 = 0 ∧ off + 128 ≤ 0x100000 ∧ (∀ p ∈ missing, low ≤ p.toNat) ∧
      (missing ≠ [] → ∃ p ∈ missing, low = p.toNat) ∧
      exec (.gangWindowExpire n) s = .next (({ v with fresh := fresh, mem := (v.mem.packageLog v.pkg
        (logRecord 4 0 0xFFFF g.id v.pkg.time.toNat g.id)).ctlPut v.pkg off 128 (bitsOf 1024 fun i => g.acked.contains (BitVec.ofNat 10 i)) } : State).raise 4
          g.asid (BitVec.ofNat 64 g.id) (BitVec.ofNat 64 missing.length) (BitVec.ofNat 64 low)
          (BitVec.ofNat 64 (v.mem.own.toNat * 2 ^ 44 + (v.pkg.ctl.getD 0) + off))) := by
  intro missing v
  obtain ⟨hlo, halign, hhi⟩ := bitmapAt_bounds (Config.choice v.fresh)
  refine ⟨bitmapAt (Config.choice v.fresh), missing.foldl (fun (m : Nat) p => min m p.toNat) 1024, v.fresh + 1, hlo, halign, hhi,
    (foldl_min_toNat missing 1024).1, foldl_min_mem, ?_⟩
  rw [show exec (.gangWindowExpire n) s = execGangWindowExpire n s from rfl, execGangWindowExpire, hg, ← packageLog_own v.mem v.pkg]
  simp only [if_pos htime]
  rfl

/-! Copies (R353, R355) -/

/-- A copy within HBM moves its bytes and adds to its peg, unless its source has become poisoned (R353, R355). -/
theorem exec_pegCopyComplete {s : State} {id : Nat} {k : HCopy} {p q : Phys} (hk : s.har.copies.find? (fun k => k.id == id) = some k)
    (hsrc : k.raw.getLsbD 160 = false) (hdst : k.raw.getLsbD 161 = false) (hp : physForm s.mem (k.raw.extractLsb' 0 64) = .ok p)
    (hq : physForm s.mem (k.raw.extractLsb' 64 64) = .ok q) :
    let u : State := { s with har := { s.har with copies := s.har.copies.filter (·.id != k.id) } }
    let l := s.physRead p (k.raw.extractLsb' 128 32).toNat
    exec (.pegCopyComplete id) s = .next
      (if anyPoison l then u.actionFault k.asid (.peg k.peg 3) (.fret 1 (k.raw.extractLsb' 0 64)) else (u.physWrite q l).pegDone (k.raw.extractLsb' 176 16)) := by
  rw [show exec (.pegCopyComplete id) s = execPegCopyComplete id s from rfl, execPegCopyComplete, hk]
  simp only [State.copyDone, State.copyEnd, ofNat_natField, BitVec.testBit_toNat, hsrc, hdst, Bool.false_eq_true, if_false, hp, hq]
  rw [natField_toNat]

/-! What reaches a phaser's holder (R275) -/

/-- What the holder does with its answer to a party that waits for one, or with none where it holds the party. -/
def State.holderAnswered (s : State) (n : PhaserName) (g : Party) (sig : Bool) (r : List Phaser × HolderAns) : State :=
  match answerReply r.2 with
  | some a => (s.setPhasers r.1).answerParty g a
  | none => s.noteHeld n g sig

/-- The phaser that a message names. -/
def phaserOf (m : PhaserMsg) : PhaserName := ⟨m.scope, m.at_, m.num⟩

/-- The events that a holder answers or holds, with what it does for each and whether a held party signals (R275 to R277). -/
def State.holderActs (s : State) (m : PhaserMsg) : List (PhaserEv × (List Phaser × HolderAns) × Bool) :=
  [(.signal, holdSignal s.har.phasers (phaserOf m) m.asid m.party, true), (.next, holdNext s.har.phasers (phaserOf m) m.asid m.party, true),
    (.wait, holdWait false s.har.phasers (phaserOf m) m.asid m.party, false), (.drop, holdDrop s.har.phasers (phaserOf m) m.asid m.party, false),
    (.register 1, holdRegister s.har.phasers (phaserOf m) m.asid m.party 1, false), (.register 2, holdRegister s.har.phasers (phaserOf m) m.asid m.party 2, false),
    (.register 3, holdRegister s.har.phasers (phaserOf m) m.asid m.party 3, false)]

/-- A signal, a wait, a drop or a registration reaches the holder: its operation's answer goes to the party. -/
theorem phaserArrives_of_act {s : State} {m : PhaserMsg} {w : PhaserEv × (List Phaser × HolderAns) × Bool} (hw : w ∈ s.holderActs m)
    (hev : m.ev = w.1) : s.phaserArrives m = s.holderAnswered (phaserOf m) m.party w.2.2 w.2.1 := by
  simp only [State.holderActs, List.mem_cons, List.not_mem_nil, or_false] at hw
  rcases hw with rfl | rfl | rfl | rfl | rfl | rfl | rfl <;> (dsimp only at hev; rw [State.phaserArrives, hev]; rfl)

/-- The outcomes of such an event: an answer, a fault, or a party held (R275). -/
theorem exec_phaserEvent (m : PhaserMsg) (s : State) : ∀ w ∈ s.holderActs m, m.ev = w.1 →
    (∀ ph, w.2.1.2 = .done ph → exec (.phaserEvent m) s = .next ((s.setPhasers w.2.1.1).answerParty m.party (.phaser 0 ph)).serveHeld) ∧
    (∀ cause more, w.2.1.2 = .fault cause more →
      exec (.phaserEvent m) s = .next ((s.setPhasers w.2.1.1).answerParty m.party (.phaser cause (BitVec.ofNat 64 more))).serveHeld) ∧
    (w.2.1.2 = .held → exec (.phaserEvent m) s = .next (s.noteHeld (phaserOf m) m.party w.2.2).serveHeld) := by
  intro w hw hev
  have hexec : exec (.phaserEvent m) s = .next (s.holderAnswered (phaserOf m) m.party w.2.2 w.2.1).serveHeld := by
    rw [show exec (.phaserEvent m) s = .next (s.phaserArrives m).serveHeld from rfl, phaserArrives_of_act hw hev]
  refine ⟨fun ph h => ?_, fun cause more h => ?_, fun h => ?_⟩ <;> rw [hexec, State.holderAnswered, h] <;> rfl

end Sys2Proof.Machine
end

section
/-!
PROOFS. Messages (R19, R351): which entry takes one, and its deposit, which begins, lands piece by piece and ends.
-/

namespace Sys2Proof.Machine

/-! Matching (R351) -/

/-- What a message must agree with for an entry to take it (R351). -/
theorem entryTakes_iff (e : BitVec 256) (m : Message) : entryTakes e m = true ↔ (e.getLsbD 79 = true ∨ m.src = some (e.extractLsb' 64 10)) ∧
    m.tag &&& e.extractLsb' 32 32 = e.extractLsb' 0 32 &&& e.extractLsb' 32 32 ∧ (e.extractLsb' 80 8 = 0xFF ∨ e.extractLsb' 80 8 = m.coll) ∧
    (e.getLsbD 88 = true ∨ e.extractLsb' 96 32 = m.gen) := by
  have hany : (natField e.toNat 64 16).testBit 15 = e.getLsbD 79 := by
    rw [natField_toNat, BitVec.testBit_toNat, BitVec.getLsbD_extractLsb']
    rfl
  have hsrc : (BitVec.ofNat 10 (natField (natField e.toNat 64 16) 0 10) : BitVec 10) = e.extractLsb' 64 10 := by
    rw [← ofNat_natField]
    simp [natField, Nat.mod_mod_of_dvd]
  simp only [entryTakes, hany, hsrc, BitVec.testBit_toNat, Bool.and_eq_true, Bool.or_eq_true, beq_iff_eq, and_assoc]

/-- Without an entry that takes a message none is matched. -/
theorem matchEntry_none {h : Har} {m : Message} (hno : ∀ x ∈ h.entries, entryTakes x.2 m = false) : h.matchEntry m = none := by
  have : (h.entries.filter fun e => entryTakes e.2 m) = [] := List.filter_eq_nil_iff.mpr fun x hx => by simp [hno x hx]
  rw [Har.matchEntry, this]
  rfl

/-- The matched entry is the lowest-numbered of those that take the message (R351). -/
theorem matchEntry_some {h : Har} {m : Message} {slot : Nat} {e : BitVec 256} (hm : h.matchEntry m = some (slot, e)) :
    (slot, e) ∈ h.entries ∧ entryTakes e m = true ∧ ∀ x ∈ h.entries, entryTakes x.2 m = true → slot ≤ x.1 := by
  have hleast := foldl_keeps_firstLeast (key := fun b : Nat × BitVec 256 => b.1) (mk := id) (fun _ => rfl) (fun _ _ => rfl) hm
  obtain ⟨a, ha, rfl⟩ := hleast.mem
  obtain ⟨hin, htakes⟩ := List.mem_filter.mp ha
  exact ⟨hin, htakes, fun x hx hxm => hleast.le x (List.mem_filter.mpr ⟨hx, hxm⟩)⟩

/-! Arrival (R19, R351) -/

/-- A message of the fabric or of the host arrives as it is. -/
theorem exec_messageArrival {m : Message} (hm : m.via = none) (s : State) : exec (.messageArrival m) s = .next (s.arrive m) := by
  rw [show exec (.messageArrival m) s = .next (s.messageIn m) from rfl, State.messageIn, hm]

/-- Such a message keeps its source. -/
theorem sourced_fabric {m : Message} (hm : m.via = none) (n : Net) : n.sourced m = m := by
  rw [Net.sourced, hm]

/-- A message that nothing takes is dropped and counted (R351). -/
theorem arrive_dropped {m : Message} (hm : m.via = none) {s : State} (hno : ∀ x ∈ s.har.entries, entryTakes x.2 m = false)
    (hbuf : s.net.bufferFor m = none) : s.arrive m = s.countErr 34 := by
  simp only [State.arrive, sourced_fabric hm, matchEntry_none hno, hbuf]

/-- The next identity is taken. -/
def State.idTaken (s : State) : State := { s with net := { s.net with nextId := s.net.nextId + 1 } }

/-- A deposit that has been taken in and has not begun. -/
def State.waitingDeposit (s : State) (slot : Nat) (e : BitVec 256) (m : Message) : Inflow :=
  ⟨s.net.nextId, none, .deposit slot e m, false, .drop, 0, 0, Landing.start⟩

/-- The work under way on arrivals is a list. -/
def State.withInflows (s : State) (l : List Inflow) : State := { s with net := { s.net with inflows := l } }

/-- A message that an entry takes is taken in, and what may begin begins. -/
theorem arrive_taken {m : Message} (hm : m.via = none) {s : State} {slot : Nat} {e : BitVec 256} (he : s.har.matchEntry m = some (slot, e))
    (hfree : s.net.inflows = []) : s.arrive m = (s.idTaken.withInflows [s.waitingDeposit slot e m]).pump 2 := by
  simp only [State.arrive, sourced_fabric hm, he, State.takeIn, hm, hfree]
  rfl

/-- With no other work, a deposit taken in begins. -/
theorem pump_begins (s u : State) (n slot : Nat) (e : BitVec 256) (m : Message) :
    (u.withInflows [s.waitingDeposit slot e m]).pump (n + 1) =
      ((u.withInflows [s.waitingDeposit slot e m]).beginDeposit (s.waitingDeposit slot e m) e m).pump n := by
  have hnext : nextInflow [] [s.waitingDeposit slot e m] = some (s.waitingDeposit slot e m) := rfl
  rw [State.pump, show (u.withInflows [s.waitingDeposit slot e m]).net.inflows = [s.waitingDeposit slot e m] from rfl, hnext]
  have hkeep : [s.waitingDeposit slot e m].filter (fun g => !(decide (g.id < (s.waitingDeposit slot e m).id) && g.leads (s.waitingDeposit slot e m) && g.written)) =
      [s.waitingDeposit slot e m] := by simp
  show State.pump n ((u.withInflows ([s.waitingDeposit slot e m].filter _)).beginDeposit _ e m) = _
  rw [hkeep]

/-- Work on the only arrival starts. -/
theorem setInflow_start (u : State) (f : Inflow) (spot : Spot) (base : Nat) (l : List (Byte × Bool)) :
    (u.withInflows [f]).setInflow (f.start spot base l) = u.withInflows [f.start spot base l] := by
  simp [State.setInflow, State.withInflows, Inflow.start]

/-- Work of which every piece has landed ends. -/
theorem pump_ends {f : Inflow} (hb : f.begun = true) (hd : f.land.done f.base f.len = true) (u : State) :
    (u.withInflows [f]).pump 1 = (u.withInflows [f]).endInflow f := by
  have hnext : nextInflow [] [f] = some f := by simp [nextInflow, hb, hd]
  simp only [State.pump, show (u.withInflows [f]).net.inflows = [f] from rfl, hnext, hb, if_true]

/-- Work that has pieces to land goes on. -/
theorem pump_waits {f : Inflow} (hb : f.begun = true) (hd : f.land.done f.base f.len = false) (u : State) :
    (u.withInflows [f]).pump 1 = u.withInflows [f] := by
  have hnext : nextInflow [] [f] = none := by simp [nextInflow, hb, hd]
  simp only [State.pump, show (u.withInflows [f]).net.inflows = [f] from rfl, hnext]

/-- The peg that an entry counts on. -/
def entryPeg (e : BitVec 256) : Nat := (e.extractLsb' 224 14).toNat
/-- What an arrival adds to it (R350). -/
def entryAdds (e : BitVec 256) (m : Message) : Dword := if e.getLsbD 91 then BitVec.ofNat 64 m.payload.length else 1

/-- A deposit ends: its work goes and its peg is added to (R19). -/
theorem endInflow_deposit {f : Inflow} {slot : Nat} {e : BitVec 256} {m : Message} (hw : f.work = .deposit slot e m) (s : State) :
    s.endInflow f = (s.withInflows (s.net.inflows.filter fun g => g.id != f.id)).pegAdd (entryPeg e) (entryAdds e m) := by
  simp only [State.endInflow, hw, natField_toNat]
  rfl

/-- A deposit without bytes to land ends as it begins. -/
theorem pump_empty (s u : State) (slot : Nat) (e : BitVec 256) (m : Message) :
    ((u.withInflows [s.waitingDeposit slot e m]).setInflow ((s.waitingDeposit slot e m).start .drop 0 [])).pump 1 =
      (u.withInflows []).pegAdd (entryPeg e) (entryAdds e m) := by
  rw [setInflow_start, pump_ends rfl rfl, endInflow_deposit (slot := slot) (e := e) (m := m) rfl]
  congr 1
  simp [State.withInflows]

/-- The bytes that an entry takes of a message (R351). -/
def entryBytes (e : BitVec 256) (m : Message) : List (Byte × Bool) := (withSectorPoison m.payload m.poison).take (64 * (e.extractLsb' 240 16).toNat)
/-- Where an entry puts them, at the distance that its peg's count gives (R351). -/
def State.depositAt (s : State) (e : BitVec 256) (m : Message) : Dword :=
  e.extractLsb' 128 64 + m.off.setWidth 64 + BitVec.ofNat 64 ((s.har.peg (entryPeg e)).count.toNat * (e.extractLsb' 192 32).toNat)

/-- A deposit begins with nothing to do where the entry has no action on arrival (R350). -/
theorem beginDeposit_none {e : BitVec 256} (hk : e.extractLsb' 89 2 = 0) (s : State) (f : Inflow) (m : Message) :
    s.beginDeposit f e m = s.setInflow (f.start .drop 0 []) := by
  have hkind : (e.extractLsb' 89 2).toNat = 0 := by rw [hk]; rfl
  simp only [State.beginDeposit, natField_toNat, hkind, if_true]

/-- A deposit into memory begins where its range may be written, and is counted where it is truncated (R351). -/
theorem beginDeposit_hbm {e : BitVec 256} (hk : e.extractLsb' 89 2 = 1) {s : State} {m : Message} (hl : entryBytes e m ≠ []) {p : Phys}
    (hp : s.physRange (s.depositAt e m) (entryBytes e m).length = .ok p) (f : Inflow) :
    s.beginDeposit f e m = (s.truncated (64 * (e.extractLsb' 240 16).toNat) m).setInflow (f.start (.hbm p) p.off (entryBytes e m)) := by
  have hkind : (e.extractLsb' 89 2).toNat = 1 := by rw [hk]; rfl
  have hne : (entryBytes e m).isEmpty = false := by simpa using hl
  unfold entryBytes State.depositAt entryPeg at *
  simp only [State.beginDeposit, natField_toNat, hkind, Nat.one_ne_zero, if_false, hne, Bool.false_eq_true, if_true, hp]

/-- One whose range may not be written is dropped and counted once (R417). -/
theorem beginDeposit_unwritable {e : BitVec 256} (hk : e.extractLsb' 89 2 = 1) {s : State} {m : Message} (hl : entryBytes e m ≠ [])
    (hp : ∀ p, s.physRange (s.depositAt e m) (entryBytes e m).length ≠ .ok p) (f : Inflow) :
    s.beginDeposit f e m = (s.countErr 34).setInflow (f.start .drop 0 []) := by
  have hkind : (e.extractLsb' 89 2).toNat = 1 := by rw [hk]; rfl
  have hne : (entryBytes e m).isEmpty = false := by simpa using hl
  unfold entryBytes State.depositAt entryPeg at *
  simp only [State.beginDeposit, natField_toNat, hkind, Nat.one_ne_zero, if_false, hne, Bool.false_eq_true, if_true]
  split
  · rename_i p h
    exact absurd h (hp p)
  · rfl

/-- Bytes of which none has landed are not done. -/
theorem not_done_of_pos (x : Landing) (hx : x.landed = []) (a : Nat) {n : Nat} (hn : 0 < n) : x.done a n = false := by
  have : 0 < runCount a n := by simp [runCount, sectorsOf, Nat.pos_iff_ne_zero.mp hn]
  simp [Landing.done, hx, Nat.pos_iff_ne_zero.mp this]

section
variable {m : Message} {s : State} {slot : Nat} {e : BitVec 256} (hm : m.via = none) (he : s.har.matchEntry m = some (slot, e))
  (hfree : s.net.inflows = [])
include hm he hfree

/-- An arrival that only counts (R19, R350). -/
theorem arrive_counts (hk : e.extractLsb' 89 2 = 0) : s.arrive m = s.idTaken.pegAdd (entryPeg e) (entryAdds e m) := by
  rw [arrive_taken hm he hfree, pump_begins, beginDeposit_none hk, pump_empty, ← hfree]
  rfl

/-- An arrival whose bytes go to memory: they are to land piece by piece (R19, R351). -/
theorem arrive_deposits (hk : e.extractLsb' 89 2 = 1) (hl : entryBytes e m ≠ []) {p : Phys}
    (hp : s.physRange (s.depositAt e m) (entryBytes e m).length = .ok p) :
    s.arrive m = (s.idTaken.truncated (64 * (e.extractLsb' 240 16).toNat) m).withInflows
      [(s.waitingDeposit slot e m).start (.hbm p) p.off (entryBytes e m)] := by
  have hcommute : (s.idTaken.withInflows [s.waitingDeposit slot e m]).truncated (64 * (e.extractLsb' 240 16).toNat) m =
      (s.idTaken.truncated (64 * (e.extractLsb' 240 16).toNat) m).withInflows [s.waitingDeposit slot e m] := by
    unfold State.truncated
    split <;> rfl
  rw [arrive_taken hm he hfree, pump_begins, beginDeposit_hbm (s := s.idTaken.withInflows [s.waitingDeposit slot e m]) hk hl hp, hcommute, setInflow_start]
  exact pump_waits rfl (not_done_of_pos _ rfl _ (List.length_pos_iff.mpr hl)) _

/-- An arrival whose bytes may not be written: they are dropped and counted, and the peg is added to (R351, R417). -/
theorem arrive_unwritable (hk : e.extractLsb' 89 2 = 1) (hl : entryBytes e m ≠ [])
    (hp : ∀ p, s.physRange (s.depositAt e m) (entryBytes e m).length ≠ .ok p) :
    s.arrive m = (s.idTaken.countErr 34).pegAdd (entryPeg e) (entryAdds e m) := by
  rw [arrive_taken hm he hfree, pump_begins, beginDeposit_unwritable (s := s.idTaken.withInflows [s.waitingDeposit slot e m]) hk hl hp]
  have hcommute : (s.idTaken.withInflows [s.waitingDeposit slot e m]).countErr 34 = (s.idTaken.countErr 34).withInflows [s.waitingDeposit slot e m] := rfl
  rw [hcommute, pump_empty, ← hfree]
  rfl

end

/-- A piece of a deposit in memory lands (R19, R351). -/
theorem landInflow_deposit {m : Message} {s : State} {f : Inflow} {slot k off len : Nat} {e : BitVec 256} {p : Phys} {l : List (Byte × Bool)}
    (hw : f.work = .deposit slot e m) (hspot : f.spot = .hbm p) (hb : f.begun = true) (hkey : (s.mem.keyOf p.slot).isSome = true)
    (hrun : runAt f.base f.len k = (off, len)) (hp : f.land.piece f.base f.len k = some l) :
    s.landInflow f k = (s.physWrite ⟨p.pa + off, p.slot⟩ l).setInflow { f with land := f.land.wrote f.base f.len k } := by
  simp only [State.landInflow, hw, hb, hp, hrun, State.landBytes, hspot, hkey, Bool.not_true, Bool.false_eq_true, if_false, if_true]

end Sys2Proof.Machine
end

section
/-!
PROOFS. Settles O44 from the lemmas on each event of a task's way and of Harius.
-/

namespace Sys2Proof.Proofs
open Sys2Proof Sys2Proof.Machine

/-- Settles O44: each clause by the lemma on its event. -/
theorem taskAndHariusEvents : Obligations.TaskAndHariusEvents := by
  unfold Obligations.TaskAndHariusEvents
  refine ⟨fun i n t c e rest s => ⟨exec_launchTrack, fun ht hp => exec_schedulerAdmit ht hp, fun ht hw hfirst core hcore => ?placement,
      fun core base x ht hp hx => ?start, exec_taskRetire, fun w => exec_parkedReturn, fun im core hc ht him hp hfirst hcore => ?checkpoint,
      exec_asidFree s, exec_eventDispatch, exec_threadWatchdog, fun src l asid => exec_gangMemberLaunch s src n l asid, fun g hg => ?gang⟩,
    fun id k p q s => exec_pegCopyComplete, exec_phaserEvent, entryTakes_iff, fun m s hm => ⟨fun hno hbuf => ?dropped, fun slot e he => ?taken, ?lands⟩⟩
  case placement =>
    obtain ⟨hin, hleast⟩ := bestCore_eligible hcore
    obtain ⟨hrange, hdie, hslot, hregs, htiles⟩ := mem_eligible hin
    exact ⟨exec_placement ht hw hfirst hcore, hrange, hdie, hslot, hregs, htiles, hleast⟩
  case start =>
    exact ⟨_, _, exec_contextStart ht hp hx, rfl, rfl, rfl, rfl, rfl, rfl, rfl, rfl, rfl, rfl, rfl, rfl,
      startFile_getS_named _ _ _, fun r => startFile_getS_other _ _ _, startFile_getP _ _ _, startFile_getB _ _ _,
      Ctx.getV_start _ _ _ _ _ _ _ _, Ctx.getM_start _ _ _ _ _ _ _ _, rfl, Ctx.getA_start _ _ _ _ _ _ _ _,
      Ctx.stream_start _ _ _ _ _ _ _ _, rfl, rfl, Ctx.channels_start _ _ _ _ _ _ _ _, rfl⟩
  case checkpoint => exact exec_checkpointReturn hc ht him hp hfirst hcore
  case gang =>
    exact ⟨fun p htime hp hall => exec_gangAck_last hg htime hp hall, exec_gangWindowExpire_early hg, exec_gangWindowExpire_late hg⟩
  case dropped => rw [exec_messageArrival hm, arrive_dropped hm hno hbuf]
  case taken =>
    obtain ⟨hin, htakes, hlow⟩ := matchEntry_some he
    refine ⟨hin, htakes, hlow, fun hfree => ⟨fun hk => ?_, fun p hk hl hp => ?_, fun hk hl hp => ?_⟩⟩
    · rw [exec_messageArrival hm, arrive_counts hm he hfree hk]
      rfl
    · rw [exec_messageArrival hm, arrive_deposits hm he hfree hk hl hp]
      rfl
    · rw [exec_messageArrival hm, arrive_unwritable hm he hfree hk hl hp]
      rfl
  case lands =>
    intro f slot k off len e p l hw hspot hb hkey hrun hp
    exact ⟨landInflow_deposit hw hspot hb hkey hrun hp, endInflow_deposit hw s⟩

end Sys2Proof.Proofs
end

section
/-!
PROOFS. Results of the integer, predicate and fp32 words of S and of Harius threads (R128, R130 to R145).
-/

namespace Sys2Proof.Machine

/-! Integer results (R130, R133, R134) -/

/-- Bits [127:64] of a 128-bit integer are its quotient by 2^64. -/
theorem extract_high_ofInt (z : Int) : (BitVec.ofInt 128 z).extractLsb' 64 64 = BitVec.ofInt 64 (z / 2 ^ 64) := by
  apply BitVec.eq_of_toNat_eq
  rw [BitVec.extractLsb'_toNat, BitVec.toNat_ofInt, BitVec.toNat_ofInt, Nat.shiftRight_eq_div_pow]
  omega

/-- The high signed product is the high half of the 128-bit product (R133). -/
theorem mulhS_eq_extract (x y : Dword) : mulhS x y = (x.signExtend 128 * y.signExtend 128).extractLsb' 64 64 := by
  rw [show x.signExtend 128 * y.signExtend 128 = BitVec.ofInt 128 (x.toInt * y.toInt) from (BitVec.ofInt_mul ..).symm, extract_high_ofInt]
  rfl

/-- The high unsigned product is the high half of the 128-bit product (R133). -/
theorem mulhU_eq_extract (x y : Dword) : mulhU x y = (x.setWidth 128 * y.setWidth 128).extractLsb' 64 64 := by
  have hprod : x.setWidth 128 * y.setWidth 128 = BitVec.ofInt 128 ((x.toNat * y.toNat : Nat) : Int) := by
    apply BitVec.eq_of_toNat_eq
    rw [BitVec.toNat_mul, BitVec.toNat_setWidth, BitVec.toNat_setWidth, ← Nat.mul_mod, BitVec.ofInt_natCast, BitVec.toNat_ofNat]
  rw [hprod, extract_high_ofInt]
  exact (BitVec.ofInt_natCast 64 (x.toNat * y.toNat / 2 ^ 64)).symm

/-- DIV truncates toward zero (R134). -/
theorem divS_eq_sdiv (x y : Dword) : divS x y = if y = 0 then BitVec.allOnes 64 else x.sdiv y := by
  have hquot : BitVec.ofInt 64 (x.toInt.tdiv y.toInt) = x.sdiv y :=
    BitVec.eq_of_toInt_eq (by rw [BitVec.toInt_ofInt, BitVec.toInt_sdiv])
  rw [divS, hquot]

/-- DIVU (R134). -/
theorem divU_eq_udiv (x y : Dword) : divU x y = if y = 0 then BitVec.allOnes 64 else x.udiv y := by
  have hquot : BitVec.ofNat 64 (x.toNat / y.toNat) = x.udiv y :=
    BitVec.eq_of_toNat_eq (by
      rw [BitVec.udiv_eq, BitVec.toNat_udiv, BitVec.toNat_ofNat, Nat.mod_eq_of_lt (Nat.lt_of_le_of_lt (Nat.div_le_self ..) x.isLt)])
  rw [divU, hquot]

/-- REM has the dividend's sign (R134). -/
theorem remS_eq_srem (x y : Dword) : remS x y = if y = 0 then x else x.srem y := by
  rw [remS, ← BitVec.toInt_srem, BitVec.ofInt_toInt]

/-- REMU (R134). -/
theorem remU_eq_umod (x y : Dword) : remU x y = if y = 0 then x else x.umod y := by
  have hrem : BitVec.ofNat 64 (x.toNat % y.toNat) = x.umod y :=
    BitVec.eq_of_toNat_eq (by
      rw [BitVec.umod_eq, BitVec.toNat_umod, BitVec.toNat_ofNat, Nat.mod_eq_of_lt (Nat.lt_of_le_of_lt (Nat.mod_le ..) x.isLt)])
  rw [remU, hrem]

/-- MIN and MAX choose by the signed values, MINU and MAXU by the unsigned ones (R130). -/
theorem ite_slt (x y u v : Dword) : (if x.slt y then u else v) = if x.toInt < y.toInt then u else v := by
  simp only [BitVec.slt_iff_toInt_lt]
theorem ite_ult (x y u v : Dword) : (if x.ult y then u else v) = if x.toNat < y.toNat then u else v := by
  simp only [BitVec.ult_iff_lt, BitVec.lt_def]

/-! Shapes (R128) -/

/-- A two-source integer word writes the function of its sources' values, poisoned if either is (R128, R130). -/
theorem sInt2_done {t : Tok} {d a b : SReg} {f : Dword → Dword → Dword} {s : State} (h : s.starts t) (hw : s.sWaits [a, b] = false)
    (hd : s.dstReady d) : sInt2 t d a b f s =
      .next ((s.writeS d ⟨f (s.sf.getS a).v (s.sf.getS b).v, (s.sf.getS a).p || (s.sf.getS b).p⟩).after t 1) := by
  simp [sInt2, sToS_done h hw hd]

/-- A word whose meaning has that shape, by a function equal to the one that the meaning names. -/
theorem exec_sInt2 {w : Tok → SReg → SReg → SReg → Instr} (e : Tok → SReg → SReg → SReg → State → Outcome)
    {f g : Dword → Dword → Dword} (hfg : ∀ x y, f x y = g x y) (hexec : ∀ t d a b s, exec (w t d a b) s = e t d a b s := by intros; rfl)
    (he : ∀ t d a b s, e t d a b s = sInt2 t d a b f s := by intros; rfl) (t : Tok) (d a b : SReg) (s : State) :
    exec (w t d a b) s = sInt2 t d a b g s := by
  have hfun : f = g := funext fun x => funext (hfg x)
  rw [hexec, he, hfun]

/-- CMPNE holds of different values (R138). -/
theorem bne_eq_decide_ne (x y : Dword) : (x != y) = decide (x ≠ y) := by
  rw [bne, Bool.beq_eq_decide_eq, decide_not]

/-- A compare whose meaning has that shape, by a relation equal to the one that the meaning names. -/
theorem exec_sCmp {w : Tok → PReg → SReg → SReg → Instr} (e : Tok → PReg → SReg → SReg → State → Outcome)
    {f g : Dword → Dword → Bool} (hfg : ∀ x y, f x y = g x y) (t : Tok) (d : PReg) (a b : SReg) (s : State)
    (hexec : exec (w t d a b) s = e t d a b s := by rfl) (he : e t d a b s = sCmp t d a b f s := by rfl) : exec (w t d a b) s = sCmp t d a b g s := by
  have hfun : f = g := funext fun x => funext (hfg x)
  rw [hexec, he, hfun]

section
variable {t : Tok} {s : State} (h : s.starts t)
include h

/-- A one-source integer word writes the function of its source, with its poison (R128, R132). -/
theorem sInt1_done {d a : SReg} {f : Dword → Dword} (hw : s.sWaits [a] = false) (hd : s.dstReady d) :
    sInt1 t d a f s = .next ((s.writeS d ⟨f (s.sf.getS a).v, (s.sf.getS a).p⟩).after t 1) := by
  simp [sInt1, sToS_done h hw hd]

/-- An immediate word writes the function of its destination, with its poison (R136, R137). -/
theorem sImm_done {n : Nat} {d : SReg} {f : Dword → Dword} (hw : s.sWaits [d] = false) (hd : s.dstReady d) :
    sImm t n d f s = .next ((s.writeS d ⟨f (s.sf.getS d).v, (s.sf.getS d).p⟩).after t n) := by
  simp [sImm, sToS_done h hw hd]

/-- A constant word writes its constant, clean (R128). -/
theorem sConst_done {n : Nat} {d : SReg} {v : Dword} (hd : s.dstReady d) : sConst t n d v s = .next ((s.writeS d ⟨v, false⟩).after t n) := by
  simp [sConst, sToS_done h (sWaits_nil s) hd]

/-- SEL writes the register that its predicate selects, poisoned if that register or the predicate is (R135). -/
theorem execSel_done {d a b : SReg} {q : PReg} (hw : s.sWaits [a, b] = false) (hd : s.dstReady d) : execSel t d a b q s = .next
    ((s.writeS d (if (s.sf.getP q).v then ⟨(s.sf.getS a).v, (s.sf.getS a).p || (s.sf.getP q).p⟩
      else ⟨(s.sf.getS b).v, (s.sf.getS b).p || (s.sf.getP q).p⟩)).after t 1) := by
  rw [execSel, sToS_done h hw hd]
  cases (s.sf.getP q).v <;> simp

/-- An integer compare writes the relation of its sources' values, poisoned if either is (R138). -/
theorem sCmp_done {d : PReg} {a b : SReg} {f : Dword → Dword → Bool} (hw : s.sWaits [a, b] = false) :
    sCmp t d a b f s = .next ((s.writeP d ⟨f (s.sf.getS a).v (s.sf.getS b).v, (s.sf.getS a).p || (s.sf.getS b).p⟩).after t 1) := by
  simp [sCmp, sToP_done h hw]

/-- A predicate word writes the function of its sources, poisoned if either is (R139). -/
theorem sPred_done {d q r : PReg} {f : Bool → Bool → Bool} :
    sPred t d q r f s = .next ((s.writeP d ⟨f (s.sf.getP q).v (s.sf.getP r).v, (s.sf.getP q).p || (s.sf.getP r).p⟩).after t 1) := by
  simp [sPred, sToP_done h (sWaits_nil s)]

/-- A two-source fp32 word (R128, R141). -/
theorem sFp2_done {d a b : SReg} {f : Nat → Nat → Nat × Flags} (hw : s.sWaits [a, b] = false) (hd : s.dstReady d) :
    let o := f (fp32In (s.sf.getS a).v) (fp32In (s.sf.getS b).v)
    let p := (s.sf.getS a).p || (s.sf.getS b).p
    sFp2 t d a b f s = .next (((s.writeS d ⟨fp32Out o.1, p⟩).raiseFlags (flagsUnless p o.2)).after t 1) :=
  sToS_done h hw hd

/-- An fp32 compare (R128, R143). -/
theorem sFpCmp_done {d : PReg} {a b : SReg} {rel : FRel} (hw : s.sWaits [a, b] = false) :
    let o := fpCmp .fp32 rel (fp32In (s.sf.getS a).v) (fp32In (s.sf.getS b).v)
    let p := (s.sf.getS a).p || (s.sf.getS b).p
    sFpCmp t d a b rel s = .next (((s.writeP d ⟨o.1, p⟩).raiseFlags (flagsUnless p o.2)).after t 1) :=
  sToP_done h hw

end

end Sys2Proof.Machine
end

section
/-!
PROOFS. The words of system registers: what keeps the agent, the fates of R39, and what a GETS reads and a SETS leaves (R146).
-/

namespace Sys2Proof.Machine

/-! The agent stays (R343) -/

@[simp] theorem onCtx_agent (s : State) (i : Nat) (f : Ctx → Ctx) : (s.onCtx i f).agent = s.agent := by
  unfold State.onCtx
  split
  · rfl
  · split <;> rfl
@[simp] theorem endGrant_agent (s : State) (die mw : Nat) : (s.endGrant die mw).agent = s.agent := by
  unfold State.endGrant; split <;> rfl
@[simp] theorem skipGrant_agent (s : State) (i : Nat) : (s.skipGrant i).agent = s.agent := by
  unfold State.skipGrant
  repeat' split
  all_goals simp [State.detachPhaser]
@[simp] theorem setCtxReg_agent (s : State) (i : Nat) (n : SysNum) (v : Dword) : (s.setCtxReg i n v).agent = s.agent := by
  unfold State.setCtxReg
  dsimp only
  repeat' split
  all_goals simp
@[simp] theorem setPackageReg_agent (s : State) (n : SysNum) (v : Dword) : (s.setPackageReg n v).agent = s.agent := by
  unfold State.setPackageReg
  repeat' split
  all_goals rfl

/-- A word of S passes its stream, one of a thread the thread. -/
theorem after_of_stream {s : State} {e : StreamId} (h : s.agent = .stream e) (t : Tok) (n : Nat) : s.after t n = s.passed .S t n := by
  simp [State.after, h]

/-! The words (R39, R146) -/

/-- What a GETS of the agent in focus reads: a register of the context that it may access, none where TARGET names no context, or one of
the package. -/
def State.getsValue (s : State) (n : SysNum) : Option Dword :=
  if perContext n then s.sysContext.map fun c => (c.reg s.pkg.time n).getD 0 else some ((s.packageReg n).getD 0)

/-- What a SETS of the agent in focus leaves before it completes. -/
def State.setsState (s : State) (n : SysNum) (v : Dword) : Option State :=
  match s.agent with
  | .stream _ => some { s with ctx := s.ctx.setOwn s.pkg.time n v }
  | .thread => if perContext n then s.target.map fun c => s.setCtxReg c.inst n v else some (s.setPackageReg n v)

/-- A SETS leaves the agent. -/
theorem setsState_agent {s u : State} {n : SysNum} {v : Dword} (h : s.setsState n v = some u) : u.agent = s.agent := by
  unfold State.setsState at h
  split at h
  · cases h; rfl
  · split at h
    · obtain ⟨c, -, rfl⟩ := Option.map_eq_some_iff.mp h
      simp
    · cases h; simp

section
variable {s : State} {t : Tok} {n : SysNum} {d : SReg} (h : s.starts t) (hflags : s.flagsWait n = false)
include h hflags

/-- A GETS that may access its register writes the value, clean. -/
theorem exec_gets {x : Dword} (hfate : s.sysFate (.gets t d n) n false = none) (hd : s.dstReady d) (hx : s.getsValue n = some x) :
    exec (.gets t d n) s = .next ((s.writeS d ⟨x, false⟩).after t 1) := by
  rw [show exec (.gets t d n) s = execGets t d n s from rfl]
  refine anyWord_done h ?_ (writeS_agent ..)
  unfold State.getsValue at hx
  simp only [hfate, hflags, Bool.false_eq_true, if_false, writable_of hd]
  split at hx
  · obtain ⟨c, hc, rfl⟩ := Option.map_eq_some_iff.mp hx
    simp [*]
  · cases hx
    simp [*]

/-- A SETS of a clean value that may access its register writes it. -/
theorem exec_sets {v : Dword} {u : State} (hfate : s.sysFate (.sets t d n) n true = none) (hv : s.readS d = .ok ⟨v, false⟩)
    (hu : s.setsState n v = some u) : exec (.sets t d n) s = .next (u.after t 1) := by
  rw [show exec (.sets t d n) s = execSets t d n s from rfl]
  refine anyWord_done h ?_ (setsState_agent hu)
  unfold State.setsState at hu
  simp only [hfate, hflags, Bool.false_eq_true, if_false, clean_of hv]
  split at hu
  · cases hu
    simp [*]
  · split at hu
    · obtain ⟨c, hc, rfl⟩ := Option.map_eq_some_iff.mp hu
      simp [*]
    · cases hu
      simp [*]

end

/-- An assigned number that the agent may access has no fate of R39. -/
theorem sysFate_none {s : State} {n : SysNum} (i : Instr) {w : Bool} (ha : assigned n = true) (hn : s.agent = .thread ∨ n.toNat < 0x100)
    (hw : w = true → readOnly n = false) : s.sysFate i n w = none := by
  have hreach : (s.agent != .thread && decide (0x100 ≤ n.toNat)) = false := by
    rcases hn with hn | hn
    · simp [hn]
    · simp [hn]
  cases w <;> simp_all [State.sysFate]

/-- IEEE_FLAGS waits for outstanding loads alone (R146). -/
theorem flagsWait_eq_false {s : State} {n : SysNum} (h : s.agent ≠ .thread → n = 0x006 → s.ctx.loads = []) : s.flagsWait n = false := by
  simpa [State.flagsWait] using h

/-- A thread has no loads outstanding and no versions. -/
theorem dstReady_of_thread {s : State} (h : s.agent = .thread) (d : SReg) : s.dstReady d := by
  simp [State.dstReady, h]

/-- Numbers below 0x200 are those of the contexts (R41). -/
theorem perContext_of_lt {n : SysNum} (h : n.toNat < 0x200) : perContext n = true := decide_eq_true h
theorem perContext_of_ge {n : SysNum} (h : 0x200 ≤ n.toNat) : perContext n = false := decide_eq_false (Nat.not_lt.mpr h)

section
variable {s : State} {n : SysNum}

/-- S reads its own context, a thread the one that TARGET names, and a thread the package (R39, R146). -/
theorem getsValue_own {e : StreamId} (h : s.agent = .stream e) (hn : n.toNat < 0x100) :
    s.getsValue n = some ((s.ctx.reg s.pkg.time n).getD 0) := by
  simp [State.getsValue, perContext_of_lt (Nat.lt_trans hn (by decide)), State.sysContext, h]
theorem getsValue_target {c : Ctx} (h : s.agent = .thread) (hn : n.toNat < 0x200) (hc : s.target = some c) :
    s.getsValue n = some ((c.reg s.pkg.time n).getD 0) := by
  simp [State.getsValue, perContext_of_lt hn, State.sysContext, h, hc]
theorem getsValue_package (hn : 0x200 ≤ n.toNat) : s.getsValue n = some ((s.packageReg n).getD 0) := by
  simp [State.getsValue, perContext_of_ge hn]

/-- What they write likewise. -/
theorem setsState_own {e : StreamId} (h : s.agent = .stream e) (v : Dword) :
    s.setsState n v = some (s.setCtx (s.ctx.setOwn s.pkg.time n v)) := by
  simp [State.setsState, h, State.setCtx]
theorem setsState_target {c : Ctx} (h : s.agent = .thread) (hn : n.toNat < 0x200) (hc : s.target = some c) (v : Dword) :
    s.setsState n v = some (s.setCtxReg c.inst n v) := by
  simp [State.setsState, h, perContext_of_lt hn, hc]
theorem setsState_package (h : s.agent = .thread) (hn : 0x200 ≤ n.toNat) (v : Dword) :
    s.setsState n v = some (s.setPackageReg n v) := by
  simp [State.setsState, h, perContext_of_ge hn]

end

end Sys2Proof.Machine
end

section
/-!
PROOFS. A thread's writes of a context's registers: CTX_STATE, SKIP, and what words under way go on with (R40, R361).
-/

namespace Sys2Proof.Machine

/-! Writes of a context in focus by a thread (R40, R361) -/

/-- The context in focus changes there. -/
theorem onCtx_inFocus {s : State} (hi : s.ctx.inst ≠ 0) (f : Ctx → Ctx) : s.onCtx s.ctx.inst f = s.setCtx (f s.ctx) := by
  simp [State.onCtx, hi, State.setCtx]

/-- A thread's write of a register other than CTX_STATE. -/
theorem setCtxReg_inFocus {s : State} {n : SysNum} (hi : s.ctx.inst ≠ 0) (hn : n ≠ 0x100) (v : Dword) : s.setCtxReg s.ctx.inst n v =
    s.setCtx { (s.ctx.latch s.pkg.time n).setReg n v with sysHist := s.ctx.sysHist.filter fun h => h.2.1 != n } := by
  simp only [State.setCtxReg, hn, false_and, if_false]
  exact onCtx_inFocus hi _

/-- A thread's write of CTX_STATE: ABANDON and SKIP act first, then the fields take the value and transfers are tried again (R361). -/
theorem setCtxReg_ctxState (s : State) (i : Nat) (v : Dword) :
    let s1 := if v.getLsbD 6 then s.skipGrant i else s
    let s2 : State := if v.getLsbD 5 then { s1.abandonAll i with agent := s1.agent } else s1
    s.setCtxReg i 0x100 v = s2.onCtx i fun d =>
      let e := ({ d with regs := { d.regs with ptok := v.extractLsb' 8 8, hold := v.getLsbD 2 } } : Ctx).retry
      { (if v.getLsbD 6 then e.skip else e) with sysHist := d.sysHist.filter fun h => h.2.1 != 0x100 } := by
  simp only [State.setCtxReg, true_and]
  rfl

/-- Trying transfers again does not depend on the values that lagging streams see. -/
theorem retry_sysHist (c : Ctx) (l : List (Nat × SysNum × Dword)) : { c.retry with sysHist := l } = ({ c with sysHist := l } : Ctx).retry := by
  unfold Ctx.retry
  split <;> simp_all [Ctx.isStopped]

/-- Without ABANDON and SKIP the fields alone take the value, and transfers are tried again. -/
theorem setCtxReg_ctxState_plain {s : State} (hi : s.ctx.inst ≠ 0) {v : Dword} (h5 : v.getLsbD 5 = false) (h6 : v.getLsbD 6 = false) :
    s.setCtxReg s.ctx.inst 0x100 v = s.setCtx ({ s.ctx with
      regs := { s.ctx.regs with ptok := v.extractLsb' 8 8, hold := v.getLsbD 2 }
      sysHist := s.ctx.sysHist.filter fun h => h.2.1 != 0x100 } : Ctx).retry := by
  rw [setCtxReg_ctxState]
  simp only [h5, h6, Bool.false_eq_true, if_false]
  rw [onCtx_inFocus hi]
  exact congrArg s.setCtx (retry_sysHist ..)

/-- Every suspended transfer of the context in focus is abandoned (R256). -/
theorem abandonAll_inFocus {s : State} (hi : s.ctx.inst ≠ 0) :
    s.abandonAll s.ctx.inst = (s.ctx.xfers.filter fun x => x.fault.isSome).foldl State.abandonOne s := by
  simp [State.abandonAll, State.focus, hi]

/-! SKIP (R361) -/

/-- Of a word that is dropped half done, the streams and the registers stay. -/
@[simp] theorem forget_streams (c : Ctx) (e : StreamId) : (c.forget e).streams = c.streams := by cases e <;> rfl
@[simp] theorem forget_regs (c : Ctx) (e : StreamId) : (c.forget e).regs = c.regs := by cases e <;> rfl

/-- A changed stream, and another. -/
theorem stream_onStream_same (c : Ctx) (e : StreamId) (f : Stream → Stream) : (c.onStream e f).stream e = f (c.stream e) := by
  cases e <;> rfl
theorem stream_onStream_other (c : Ctx) {e k : StreamId} (h : k ≠ e) (f : Stream → Stream) : (c.onStream e f).stream k = c.stream k := by
  cases e <;> cases k <;> simp_all [Ctx.stream, Streams.get, Streams.put]

/-- A context that is not trapped has nothing to skip. -/
theorem skip_of_not_trapped {c : Ctx} (h : c.regs.trapped = false) : c.skip = c := by
  unfold Ctx.skip
  split
  · simp_all
  · rfl

section
variable {c : Ctx} {q : TrapRecord} {e : StreamId} (ht : c.regs.trapped = true) (hr : c.record = some q) (he : q.eng = some e)
include ht hr he

/-- A failing stream that has left its word moves no further. -/
theorem skip_of_size_zero (h0 : q.size = 0) : c.skip = c := by
  simp [Ctx.skip, ht, hr, he, h0]

/-- The failing stream moves past its word, once. -/
theorem skip_of_size_pos (h0 : q.size ≠ 0) :
    c.skip = { (c.onStream e (·.advance q.size)).forget e with record := some { q with size := 0 } } := by
  simp [Ctx.skip, ht, hr, he, h0]

/-- It stands behind its word, without a stall; the other streams stay. -/
theorem stream_skip_same (h0 : q.size ≠ 0) : c.skip.stream e = (c.stream e).advance q.size := by
  rw [skip_of_size_pos ht hr he h0]
  exact (congrArg (Streams.get · e) (forget_streams ..)).trans (stream_onStream_same c e _)
theorem stream_skip_other (h0 : q.size ≠ 0) {k : StreamId} (hk : k ≠ e) : c.skip.stream k = c.stream k := by
  rw [skip_of_size_pos ht hr he h0]
  exact (congrArg (Streams.get · k) (forget_streams ..)).trans (stream_onStream_other c hk _)

end

/-! What a word under way goes on with (R40) -/

/-- A stream other than S goes on with the value that it holds. -/
theorem seen_of_held {c : Ctx} {e : StreamId} {n : SysNum} {w : Dword} (he : e ≠ .S) (h : c.held? e n = some w) (now : Dword) :
    c.seen e n now = .ok w := by
  unfold Ctx.seen
  rw [h]
  split
  · exact absurd rfl he
  · simp_all
  · simp_all

/-- The held values with that of a stream under way, where it holds none. -/
def Ctx.holdSeen (c : Ctx) (n : SysNum) (now : Dword) (l : List (StreamId × SysNum × Dword)) (e : StreamId) : List (StreamId × SysNum × Dword) :=
  if c.underWay e && (c.held? e n).isNone then match c.seen e n now with
    | .ok v => l ++ [(e, n, v)]
    | .error _ => l
  else l

/-- The registers that words of M and Y see once as they issue. -/
theorem latch_eq (c : Ctx) (time : Dword) {n : SysNum} (h : n = 0x004 ∨ n = 0x008 ∨ n = 0x103) : c.latch time n =
    { c with sees := c.holdSeen n ((c.reg time n).getD 0) (c.holdSeen n ((c.reg time n).getD 0) c.sees .M) .Y } := by
  unfold Ctx.latch
  exact if_pos h

/-- Another stream holds what it held. -/
theorem find?_holdSeen_other (c : Ctx) (n : SysNum) (now : Dword) (l : List (StreamId × SysNum × Dword)) {e k : StreamId} (h : e ≠ k) :
    ((c.holdSeen n now l e).find? fun x => x.1 == k && x.2.1 == n) = l.find? fun x => x.1 == k && x.2.1 == n := by
  unfold Ctx.holdSeen
  repeat' split
  · simp [h]
  all_goals rfl

/-- A stream under way holds the value it has seen. -/
theorem find?_holdSeen_same {c : Ctx} {n : SysNum} {now w : Dword} {l : List (StreamId × SysNum × Dword)} {e : StreamId} (he : e ≠ .S)
    (hu : c.underWay e = true) (hs : c.seen e n now = .ok w)
    (hl : (l.find? fun x => x.1 == e && x.2.1 == n) = c.sees.find? fun x => x.1 == e && x.2.1 == n) :
    ((c.holdSeen n now l e).find? fun x => x.1 == e && x.2.1 == n).map (·.2.2) = some w := by
  cases hh : c.held? e n with
  | some v =>
    have hvw : v = w := by simpa [seen_of_held he hh] using hs
    simp only [Ctx.holdSeen, hh, Option.isNone_some, Bool.and_false, Bool.false_eq_true, if_false]
    rw [hl, ← hvw]
    exact hh
  | none =>
    have hnone : (c.sees.find? fun x => x.1 == e && x.2.1 == n) = none := Option.map_eq_none_iff.mp hh
    simp only [Ctx.holdSeen, hu, hh, hs, Option.isNone_none, Bool.and_self, if_true, List.find?_append, hl.trans hnone]
    simp

/-- A word of M or Y under way holds the value that it has seen (R40). -/
theorem held?_latch {c : Ctx} {time w : Dword} {n : SysNum} {e : StreamId} (hn : n = 0x004 ∨ n = 0x008 ∨ n = 0x103) (he : e = .M ∨ e = .Y)
    (hu : c.underWay e = true) (hs : c.seen e n ((c.reg time n).getD 0) = .ok w) : (c.latch time n).held? e n = some w := by
  rw [latch_eq c time hn]
  unfold Ctx.held?
  rcases he with rfl | rfl
  · rw [find?_holdSeen_other _ _ _ _ (by decide)]
    exact find?_holdSeen_same (by decide) hu hs rfl
  · exact find?_holdSeen_same (by decide) hu hs (find?_holdSeen_other _ _ _ _ (by decide))

/-- Writing such a register leaves what words under way hold. -/
theorem sees_setReg (c : Ctx) (v : Dword) : ∀ n ∈ ([0x004, 0x008, 0x103] : List SysNum), (c.setReg n v).sees = c.sees := by
  simp only [List.forall_mem_cons, List.not_mem_nil, false_imp_iff, implies_true, and_true]
  exact ⟨rfl, rfl, rfl⟩

/-- A thread's write of such a register leaves what a word under way sees (R40). -/
theorem seen_setReg_latch {c : Ctx} {time w : Dword} {n : SysNum} (hn : n ∈ ([0x004, 0x008, 0x103] : List SysNum)) {e : StreamId}
    (he : e = .M ∨ e = .Y) (hu : c.underWay e = true) (hs : c.seen e n ((c.reg time n).getD 0) = .ok w) (v now : Dword) :
    ((c.latch time n).setReg n v).seen e n now = .ok w := by
  have hheld := held?_latch (by simpa using hn) he hu hs
  refine seen_of_held (by rcases he with rfl | rfl <;> decide) ?_ now
  rw [Ctx.held?, sees_setReg _ v n hn]
  exact hheld

end Sys2Proof.Machine
end

section
/-!
PROOFS. Settles O1 to O5 of the scalar words (05).
-/

namespace Sys2Proof.Proofs
open Sys2Proof Sys2Proof.Machine

/-- Settles O1: every word has the shape of `sInt2`, its result as the rule gives it. -/
theorem integerWordsWriteTheirResult : Obligations.IntegerWordsWriteTheirResult := by
  unfold Obligations.IntegerWordsWriteTheirResult
  suffices hshape : ∀ p : (Tok → SReg → SReg → SReg → Instr) × (Dword → Dword → Dword), p ∈ _ → ∀ t d a b s,
      exec (p.1 t d a b) s = sInt2 t d a b p.2 s from
    fun p hp t d a b s h hw hd => (hshape p hp t d a b s).trans (sInt2_done h hw hd)
  simp only [List.forall_mem_cons, List.not_mem_nil, false_imp_iff, implies_true, and_true]
  iterate 10 refine ⟨fun _ _ _ _ _ => rfl, ?_⟩
  exact ⟨exec_sInt2 execMin fun x y => ite_slt x y x y, exec_sInt2 execMax fun x y => ite_slt x y y x,
    exec_sInt2 execMinu fun x y => ite_ult x y x y, exec_sInt2 execMaxu fun x y => ite_ult x y y x, fun _ _ _ _ _ => rfl,
    exec_sInt2 execMulh mulhS_eq_extract, exec_sInt2 execMulhu mulhU_eq_extract, exec_sInt2 execDiv divS_eq_sdiv,
    exec_sInt2 execDivu divU_eq_udiv, exec_sInt2 execRem remS_eq_srem, exec_sInt2 execRemu remU_eq_umod⟩

/-- Settles O2: each group of words by the lemma on its shape. -/
theorem countsSelectAndImmediates : Obligations.CountsSelectAndImmediates := by
  unfold Obligations.CountsSelectAndImmediates
  intro t d a b q s h hd
  suffices hshape : (∀ p : (Tok → SReg → SReg → Instr) × (Dword → Dword), p ∈ _ → exec (p.1 t d a) s = sInt1 t d a p.2 s) ∧
      (∀ i, ∀ p : (Tok → SReg → BitVec 13 → Instr) × (Dword → Dword), p ∈ _ → exec (p.1 t d i) s = sImm t 1 d p.2 s) ∧
      ∀ c, ∀ p : (Tok → SReg → BitVec 6 → Instr) × (Dword → Dword), p ∈ _ → exec (p.1 t d c) s = sImm t 1 d p.2 s by
    obtain ⟨hcount, himm, hshift⟩ := hshape
    refine ⟨fun p hp hw => (hcount p hp).trans (sInt1_done h hw hd), fun hw => ?sel,
      fun i p hp hw => (himm i p hp).trans (sImm_done h hw hd), fun c p hp hw => (hshift c p hp).trans (sImm_done h hw hd),
      fun i => ?movi, fun lit => ?movw, fun lit hw => ?movhw⟩
    case sel => rw [show exec (.sel t d a b q) s = execSel t d a b q s from rfl, execSel_done h hw hd]
    case movi => rw [show exec (.movi t d i) s = sConst t 1 d (i.signExtend 64) s from rfl, sConst_done h hd]
    case movw => rw [show exec (.movw t d lit) s = sConst t 2 d (lit.signExtend 64) s from rfl, sConst_done h hd]
    case movhw => rw [show exec (.movhw t d lit) s = sImm t 2 d (fun x => lit ++ x.extractLsb' 0 32) s from rfl, sImm_done h hw hd]
  simp only [List.forall_mem_cons, List.not_mem_nil, false_imp_iff, implies_true, and_true]
  exact ⟨⟨rfl, rfl, rfl⟩, fun _ => ⟨rfl, rfl, rfl, rfl⟩, fun _ => ⟨rfl, rfl, rfl⟩⟩

/-- Settles O3: every word has the shape of `sCmp` or of `sPred`, its relation as the rule gives it. -/
theorem comparesAndPredicateWords : Obligations.ComparesAndPredicateWords := by
  unfold Obligations.ComparesAndPredicateWords
  intro t d q r a b s h
  suffices hshape : (∀ p : (Tok → PReg → SReg → SReg → Instr) × (Dword → Dword → Bool), p ∈ _ →
        exec (p.1 t d a b) s = sCmp t d a b p.2 s) ∧
      ∀ p : (Tok → PReg → PReg → PReg → Instr) × (Bool → Bool → Bool), p ∈ _ → exec (p.1 t d q r) s = sPred t d q r p.2 s from
    ⟨fun p hp hw => (hshape.1 p hp).trans (sCmp_done h hw), fun p hp => (hshape.2 p hp).trans (sPred_done h)⟩
  simp only [List.forall_mem_cons, List.not_mem_nil, false_imp_iff, implies_true, and_true]
  exact ⟨⟨exec_sCmp execCmpeq Bool.beq_eq_decide_eq .., exec_sCmp execCmpne bne_eq_decide_ne .., rfl, rfl, rfl, rfl⟩, rfl, rfl, rfl, rfl⟩

/-- Settles O4: each word by what its shape writes and raises, its flags where it is not poisoned. -/
theorem fp32WordsWriteResultAndFlags : Obligations.Fp32WordsWriteResultAndFlags := by
  unfold Obligations.Fp32WordsWriteResultAndFlags
  intro t d a b q s h x y z pa pb done code
  suffices hshape : (∀ p : (Tok → SReg → SReg → SReg → Instr) × (Nat → Nat → Nat × Flags), p ∈ _ →
        exec (p.1 t d a b) s = sFp2 t d a b p.2 s) ∧
      ∀ p : (Tok → PReg → SReg → SReg → Instr) × FRel, p ∈ _ → exec (p.1 t q a b) s = sFpCmp t q a b p.2 s by
    obtain ⟨hfp2, hcmp⟩ := hshape
    refine ⟨fun p hp hd hw => (hfp2 p hp).trans (sFp2_done h hw hd), fun hd hw => ?ffma, fun hd hw => ?fsqrt,
      fun p hp hw => (hcmp p hp).trans (sFpCmp_done h hw), fun w rm hd hw => ⟨?toInt32, ?toInt64⟩, fun w32 uns rm hd hw => ?fromInt⟩
    case ffma =>
      rw [show exec (.ffma t d a b) s = execFfma t d a b s from rfl]
      exact sToS_done h hw hd
    case fsqrt =>
      rw [show exec (.fsqrt t d a) s = execFsqrt t d a s from rfl]
      exact sToS_done h hw hd
    case toInt32 =>
      rw [show exec (.fcvtfi t d a true w rm) s = execFcvtfi t d a true w rm s from rfl]
      exact sToS_done h hw hd
    case toInt64 =>
      rw [show exec (.fcvtfi t d a false w rm) s = execFcvtfi t d a false w rm s from rfl]
      exact sToS_done h hw hd
    case fromInt =>
      rw [show exec (.fcvtif t d a w32 uns rm) s = execFcvtif t d a w32 uns rm s from rfl]
      exact sToS_done h hw hd
  simp only [List.forall_mem_cons, List.not_mem_nil, false_imp_iff, implies_true, and_true]
  exact ⟨⟨rfl, rfl, rfl, rfl, rfl, rfl⟩, rfl, rfl, rfl⟩

/-- Settles O5: the words by `exec_gets` and `exec_sets`, each register's fields by its layout, and CTX_STATE, SKIP and what words under way
see by their lemmas. -/
theorem systemRegisterWords : Obligations.SystemRegisterWords := by
  unfold Obligations.SystemRegisterWords
  intro t d n s ha hloads
  have hflags := flagsWait_eq_false hloads
  refine ⟨fun h hn hd => ?getsOwn, fun ht hn c hc => ?getsTarget, fun ht hn => ?getsPackage,
    fun hro v hv => ⟨fun h hn => ?setsOwn, fun ht hn c hc => ?setsTarget, fun ht hn => ?setsPackage⟩,
    fun c ns => ⟨?reads, fun v => ⟨?writes,
      fun hi hc => ⟨setCtxReg_ctxState s c.inst v, ?plain, ?abandon, skip_of_not_trapped, ?skips, ?latched, ?others⟩,
      rfl, rfl, rfl, rfl, rfl, rfl, rfl, fun die hdie => ?fsplit⟩⟩⟩
  case getsOwn =>
    rw [exec_gets (.inr h) hflags (sysFate_none _ ha (.inr hn) nofun) hd (getsValue_own h.1 hn), after_of_stream ((writeS_agent ..).trans h.1)]
  case getsTarget =>
    exact exec_gets (.inl ht) hflags (sysFate_none _ ha (.inl ht) nofun) (dstReady_of_thread ht d) (getsValue_target ht hn hc)
  case getsPackage =>
    exact exec_gets (.inl ht) hflags (sysFate_none _ ha (.inl ht) nofun) (dstReady_of_thread ht d) (getsValue_package hn)
  case setsOwn =>
    rw [exec_sets (.inr h) hflags (sysFate_none _ ha (.inr hn) fun _ => hro) hv (setsState_own h.1 v),
      after_of_stream ((State.setCtx_agent ..).trans h.1)]
    rfl
  case setsTarget => exact exec_sets (.inl ht) hflags (sysFate_none _ ha (.inl ht) fun _ => hro) hv (setsState_target ht hn hc v)
  case setsPackage => exact exec_sets (.inl ht) hflags (sysFate_none _ ha (.inl ht) fun _ => hro) hv (setsState_package ht hn v)
  case reads =>
    simp only [List.forall_mem_cons, List.not_mem_nil, false_imp_iff, implies_true, and_true]
    refine ⟨rfl, rfl, rfl, rfl, rfl, rfl, rfl, ?lfsr, rfl, rfl, rfl, rfl, rfl, rfl, rfl, rfl, rfl, rfl, rfl, rfl, rfl, rfl, rfl, rfl, rfl, rfl⟩
    cases hl : c.lfsrSets.getLast? <;> simp [Ctx.reg, hl]
  case writes =>
    simp only [List.forall_mem_cons, List.not_mem_nil, false_imp_iff, implies_true, and_true]
    refine ⟨rfl, rfl, rfl, rfl, ?lfsrSeed, rfl, rfl⟩
    cases hv : c.streams.v.inact <;> simp [Ctx.setOwn, Ctx.setReg, hv, seedOf]
  case fsplit =>
    match die, hdie with
    | 0, _ | 1, _ | 2, _ | 3, _ => exact ⟨rfl, rfl, rfl, rfl⟩
  case plain =>
    subst hc
    exact fun h5 h6 => setCtxReg_ctxState_plain hi h5 h6
  case abandon =>
    subst hc
    exact abandonAll_inFocus hi
  case skips =>
    intro q e ht hr he
    refine ⟨skip_of_size_zero ht hr he, fun h0 => ⟨?_, ?_, stream_skip_same ht hr he h0, fun f hf => stream_skip_other ht hr he h0 hf⟩⟩
    all_goals rw [skip_of_size_pos ht hr he h0]
    exact forget_regs ..
  case latched => exact fun n hn e he w x hu hs => seen_setReg_latch hn (by simpa using he) hu hs v x
  case others =>
    subst hc
    simp only [List.forall_mem_cons, List.not_mem_nil, false_imp_iff, implies_true, and_true]
    exact ⟨setCtxReg_inFocus hi (by decide) v, setCtxReg_inFocus hi (by decide) v, setCtxReg_inFocus hi (by decide) v,
      setCtxReg_inFocus hi (by decide) v⟩

end Sys2Proof.Proofs
end
